-- ==== Sys2Proof/Word.lean ====
section
/-! DEFINITION. The word types of the Cerrel (spec/00 R5): bytes, 16-, 32- and 64-bit words.
Only the types stand here; every operation on them stands in a file under `Machine/`. -/

namespace Sys2Proof

/-- One byte of a register, record, descriptor, message or memory location. -/
abbrev Byte := BitVec 8
/-- A 16-bit field. -/
abbrev W16 := BitVec 16
/-- A 32-bit register or field (R5). -/
abbrev W32 := BitVec 32
/-- A 64-bit register or field (R5). -/
abbrev W64 := BitVec 64

end Sys2Proof
end

