-- ==== Sys2Proof/Syntax.lean ====
section
/-! DEFINITION. The commands and events of the block: one constructor of `Instr` for each row of
spec/opcode_table.json, in the table's order. The table gives the rows no bits and no operands; the operands here
are what the rules of the row read from outside the block: the function and the offset of a bus access, the value
written, the bytes of a PCIe completion, the fields of a pod message, what a sensor or a training step observed
(log entry 5). -/

namespace Sys2Proof

/-- A PCIe function: 0 is PF0 and n is VF n (R69). -/
abbrev Fn := Fin 33
/-- A stream (Table 1.6). -/
abbrev SId := Fin 64
/-- A memory channel (R191). -/
abbrev Ch := Fin 64
/-- A pod device ID (R385). -/
abbrev Dev := Fin 64
/-- An Isxia link (13.1). -/
abbrev Lnk := Fin 16
/-- A compositor core. -/
abbrev CoreId := Fin 32
/-- A galley queue ID (9.1). -/
abbrev Qid := Fin 4096
/-- A fast domain, numbered as R66 does: CORE, MEMC, LINK, HOSTIF engines, TOKEN, CP. -/
abbrev Dom := Fin 6
/-- A configuration region (Table 5.2). -/
abbrev Region := Fin 35

/-- An Applies-at boundary instance (Table 0.5, R133). -/
inductive Boundary where
  /-- Between two tasks of a stream. -/
  | task (s : SId)
  /-- A 1 us period edge. -/
  | quoin
  /-- An arbitration epoch. -/
  | epoch
  /-- A frame boundary of one link. -/
  | linkFrame (l : Lnk)
deriving DecidableEq, Repr

/-- The two moments of a commit (R152): the write of CFG_COMMIT, and the report of its outcome. -/
inductive CommitEvent where
  | write (v : W32)
  | outcome
deriving DecidableEq, Repr

/-- Who asked for a host read: a stream's task or fetcher, or Onaman for a function's command. -/
inductive Requester where
  | stream (s : SId)
  | command (f : Fn)
deriving DecidableEq, Repr

/-- How a PCIe completion ended (R87, R485). -/
inductive HostStatus where
  | data (bytes : List Byte)
  | ur
  | ca
  | poisoned
deriving DecidableEq, Repr

/-- Bits of the galley that an upset has turned since the last access (R266 says what a read makes of them). -/
inductive GalUpset where
  /-- Bit `bit` (0 to 71: data then check) of word `word` of cell `cell`. -/
  | word (cell word bit : Nat)
  /-- Bit `bit` (0 to 54: entry then check) of the metadata of cell `cell`. -/
  | entry (cell bit : Nat)
  /-- Bit `bit` of value `which` (the codes 0 to 7 of R272) of queue `q`; `shadow` names the copy. -/
  | pointer (q which bit : Nat) (shadow : Bool)
  /-- Bit `bit` of one copy of the free list's head, tail or count (R269). -/
  | freeList (which bit : Nat) (shadow : Bool)
deriving DecidableEq, Repr

/-- A symbol of a burst received in error: burst 0 to 3 of the slug read, symbol 0 to 67, the bits in error (R200). -/
structure SymErr where
  burst : Nat
  sym   : Nat
  err   : Byte
deriving DecidableEq, Repr

/-- The routing part of a message header (Table 13.4). -/
structure MsgHdr where
  dst  : Dev
  src  : Dev
  mseq : W16
  part : Fin 33
deriving DecidableEq, Repr

/-- Owner request, Table 11.4. -/
structure GpReq where
  reqId : W32
  handle : W32
  descCheck : W32
  mode : Nat
  raw : Bool
  home : Nat
  rows : List Nat
  wts : List W16
deriving DecidableEq, Repr

/-- Partial chunk record, Table 11.5. -/
structure GpChunk where
  reqId : W32
  pooled : Nat
  chunk : Nat
  poisoned : Bool
  kind : Nat
  detail : Nat
  dropped : Nat
  faultPos : Nat
  vals : List W32
deriving DecidableEq, Repr

/-- Row value record, MTYPE 0x05 of Table 13.6. -/
structure GpValue where
  reqId : W32
  pos : Nat
  poisoned : Bool
  kind : Nat
  bytes : List Byte
deriving DecidableEq, Repr

/-- SA_CLAIM, Table 12.4. -/
structure SaClaim where
  reqId : W32
  handle : W32
  descCheck : W32
  mode : Nat
  gradFmt : Nat
  pooled : Nat
  rows : List Nat
  wts : List W16
  grad : List Byte
deriving DecidableEq, Repr

/-- JOIN_HELLO (R395). -/
structure JoinHello where
  link : Lnk
  key : W32
  nx : Nat
  ny : Nat
  nz : Nat
  mask : W64
deriving DecidableEq, Repr

/-- PLACE_QUERY and its answer (R246): the planner asks for a device's available pages, its descriptor checks of the
listed tables, and which of them are placed there. -/
structure PlaceAns where
  reqId : W32
  avail : Nat
  checks : List (W32 × Option W32)
  placed : List W32
deriving DecidableEq, Repr

/-- The content of a pod message, by MTYPE (Table 13.6). -/
inductive MsgBody where
  | grantReq (reqId handle descCheck : W32)
  | grantAns (reqId : W32) (ok placed : Bool)
  | gpReq (b : GpReq)
  | gpChunk (b : GpChunk)
  | gpValue (b : GpValue)
  | saClaim (b : SaClaim)
  | saApply (reqId : W32)
  | saUnclaim (reqId : W32)
  | saClaimed (reqId : W32)
  | saWaiting (reqId : W32) (why : BitVec 2)
  | saFolded (reqId : W32)
  | saApplied (reqId : W32)
  | saDenied (reqId : W32)
  | cpRd (reqId : W32) (addr len : Nat)
  | cpData (reqId : W32) (detail : Nat) (bytes : List Byte) (poison : List Bool)
  | cpWr (reqId : W32) (addr : Nat) (bytes : List Byte) (poison : List Bool)
  | cpWack (reqId : W32) (detail : Nat)
  | lkAcq (reqId : W32) (lock : Fin 1024) (stream : SId) (prio : Fin 8)
  | lkGrant (reqId : W32) (abandoned : Bool)
  | lkWait (reqId : W32)
  | lkRel (reqId : W32) (lock : Fin 1024)
  | lkRelack (reqId : W32) (notHeld : Bool)
  | lkRenew (reqIds : List W32)
  | lkRenewed (reqIds : List W32)
  | lkAbandon (reqId : W32)
  | lkWithdraw (reqId : W32)
  | lkDenied (reqId : W32)
  | lkPrio (reqId : W32) (prio : Fin 8)
  | xkeep (reqId : W32)
  | joinHello (b : JoinHello)
  | lostNotice (member : Dev)
  | leaveNotice
  | rejoin
  | placeQuery (reqId : W32) (target : Nat) (handles : List W32)
  | placeAns (b : PlaceAns)
  | mgmtReq (cmd : Byte) (params : List Byte)
  | mgmtAns (code : Byte) (data : List Byte)
  | unknown (mtype : Byte)
deriving DecidableEq, Repr

/-- A message and its header. -/
structure Msg where
  hdr : MsgHdr
  body : MsgBody
deriving DecidableEq, Repr

/-- A frame as the link delivers it (R366): control word, control slot and flits as bytes, and what the
RS(544,514) decoder made of the codeword (`none` uncorrectable, `some n` with n symbols corrected). -/
structure Frame where
  fcw : BitVec 20
  control : List Byte
  flits : List (List Byte)
  decode : Option Nat
deriving DecidableEq, Repr

/-- The path by which a management request arrives (19.9). -/
inductive MgmtPath where
  | smbus
  | vdm
deriving DecidableEq, Repr

/-- A record a reporting block posts (Table 18.7 without what the sequencer adds). -/
structure EvRec where
  type : W16
  sev : Nat
  part : Nat
  stream : Nat
  taskType : Byte
  tag : W32
  p0 : W64
  p1 : W64
  p2 : W64
  p3 : W64
deriving DecidableEq, Repr

/-- The log a record goes to (R34): a partition's, the driver domain's, or the global log. -/
inductive LogId where
  | partition (p : Fin 32)
  | driver
  | global
deriving DecidableEq, Repr

/-- What the boot observes of the silicon (R522 to R534). -/
structure BootObs where
  /-- The fuse read fails its parity. -/
  fuseBad : Bool
  /-- BIST blocks with a fault the repair does not cover (Table 20.4). -/
  bistBad : BitVec 7
  /-- Onaman of slot A, and of slot B, reports started within 80 ms. -/
  startsA : Bool
  startsB : Bool
  /-- Channels that fail both training attempts. -/
  chFail : List Ch
deriving DecidableEq, Repr

/-- How one link's training ended (R381, R530): no peer, or the lanes that pass on both ends and the peer. -/
structure TrainObs where
  peerSeen : Bool
  lanes : BitVec 4
  peerDev : Dev
  peerLink : Lnk
deriving DecidableEq, Repr

/-- Why a link fails (R377). -/
inductive LinkCause where
  | badFrames
  | resends
  | unacked
  | clock
  | training
deriving DecidableEq, Repr

/-- A filtered board input (Table 21.2). -/
inductive Pin where
  | perst
  | forceIdle
  | globalStop
  | smbScl
  | smbSda
deriving DecidableEq, Repr

/-- What a configuration request asks of a function (Table 3.6): a register whose effect has a row of its own or none, the
ATS enable (R71), or ASPM L1 (R72). The spec gives these registers no offsets. -/
inductive ConfigReq where
  | other (off : BitVec 12)
  | atsEnable (on : Bool)
  | aspmL1 (on : Bool)
deriving DecidableEq, Repr

/-- The commands and events of spec/opcode_table.json. -/
inductive Instr where
  | strTailWrite (f : Fn) (slot : Fin 64) (v : W32)
  | mbxReqSeqWrite (f : Fn) (v : W32)
  | snapCmdWrite (f : Fn) (v : W32)
  | snapshotCapture (f : Fn)
  | cfgCommit (f : Fn) (e : CommitEvent)
  | aliasWrite (f : Fn) (off : BitVec 16) (v : W32)
  | registerWrite (f : Fn) (bar2 : Bool) (off : BitVec 24) (v : W32)
  | bufferedWriteApply (b : Boundary)
  | ringConfigApply (s : SId)
  | barAccessRefused (f : Fn) (bar2 write : Bool) (off : BitVec 24) (size : Nat)
  | barAccessSummary (f : Fn)
  | rlRead (f : Fn) (bar2 : Bool) (off : BitVec 24)
  | rlLimit (f : Fn) (bar2 : Bool) (off : BitVec 24)
  | lckReqAcquire (f : Fn) (v : W32)
  | lckReqRelease (f : Fn) (v : W32)
  | lckReqWithdraw (f : Fn) (v : W32)
  | flr (f : Fn)
  | hotReset
  | vfEnableSet (numVfs : Fn)
  | vfEnableClear
  | d3hotEntry (f : Fn)
  | d0Return (f : Fn)
  | atsInvalidate (f : Fn) (page : BitVec 52)
  | configRequest (f : Fn) (r : ConfigReq)
  | descriptorFetch (s : SId)
  | gatherPool (s : SId)
  | gatherRows (s : SId)
  | scatterAdd (s : SId)
  | foldApply (s : SId)
  | foldDiscard (s : SId)
  | tokenize (s : SId)
  | detokenize (s : SId)
  | formeMask (s : SId)
  | copy (s : SId)
  | prefetchHint (s : SId)
  | lockupBarrier (s : SId)
  | lockupAcquire (s : SId)
  | lockupRelease (s : SId)
  | completionRecord (s : SId)
  | hostStallTimeout (s : SId)
  | hostCompletionTimeout (s : SId)
  | readIssue (s : SId)
  | fillHalfGrant (n : CoreId)
  | halfSwap (n : CoreId)
  | chasePass (n : CoreId)
  | cellGrant
  | enq (q : Qid) (words : List W64) (last : Bool) (poison : BitVec 4) (upsets : List GalUpset)
  | read (q : Qid) (upsets : List GalUpset)
  | mark (q : Qid) (upsets : List GalUpset)
  | rewind (q : Qid) (upsets : List GalUpset)
  | release (q : Qid) (upsets : List GalUpset)
  | releaseMark (q : Qid) (upsets : List GalUpset)
  | trim (q : Qid) (upsets : List GalUpset)
  | reset (q : Qid)
  | quoinPeriod
  | arbitrationEpoch
  | readDataReturn (c : Ch) (errs : List SymErr)
  | ceWriteBack (c : Ch)
  | memCeSummary (c : Ch)
  | wcbWriteBack (c : Ch)
  | channelDropSummary (c : Ch)
  | mr4Read (c : Ch) (rank : Fin 3) (temp : Byte) (mult : Fin 3)
  | powerStateEvaluate
  | idleEntry (d : Dom)
  | dozeEntry
  | deepEntry
  | dozeWake (syncFail quickFail fullFail : List Ch)
  | deepWake (quickFail fullFail : List Ch)
  | dcoTrim (d : Dom) (measured : Nat)
  | avsStep (leastMv : Nat)
  | avsCommandRetry (iface : Fin 2) (acked : Bool)
  | temperatureSample (stackT logicT : List Byte)
  | thermalThrottleStep
  | checkerPass (r : Region) (flips : List (Nat × W32))
  | cpWatchdogReset (sram : Bool)
  | onamanRestart (intact : Bool)
  | cpRestartStartTimeout
  | fwSessionTimeout
  | eventPost (logs : List LogId) (r : EvRec)
  | lostSummary
  | norWrite
  | norBucketRefill
  | colophonUpdate
  | patrolScrubGroup (c : Ch) (errs : List (Nat × SymErr))
  | scrubBatch
  | scrubRateLoop
  | galleyScrub (upsets : List GalUpset)
  | calibrationSlot (c : Ch)
  | retrainPiece (c : Ch)
  | marginSlot (c : Ch) (kind : Fin 4) (left right : Nat)
  | linkEqStep (l : Lnk) (knob : Fin 3) (up : Bool) (uncRise : Bool)
  | agingSample (pairs : List (Nat × Nat))
  | telemetryFrame (powerMw : W32) (energyMj : W64)
  | frameTransmit (l : Lnk)
  | frameReceive (l : Lnk) (f : Frame)
  | linkFailure (l : Lnk) (cause : LinkCause)
  | linkRetrainDone (l : Lnk) (full : Bool) (obs : TrainObs) (peerAck : BitVec 12)
  | linkDozeEntry (l : Lnk) (peerIdle : Bool)
  | linkWake (l : Lnk)
  | linkStopNotice (l : Lnk)
  | messageRoute (inLink : Option Lnk)
  | podSummary
  | unknownMtype (h : MsgHdr) (mtype : Byte)
  | linkCreditTimeout (reqId : W32)
  | transitCreditTimeout (l : Lnk)
  | xkeepSend (src : Dev) (reqId : W32)
  | memberLost (d : Dev)
  | grantReq (h : MsgHdr) (reqId handle descCheck : W32)
  | grantAns (h : MsgHdr) (reqId : W32) (ok placed : Bool)
  | gpReq (h : MsgHdr) (b : GpReq)
  | gpChunk (h : MsgHdr) (b : GpChunk)
  | gpValue (h : MsgHdr) (b : GpValue)
  | saClaim (h : MsgHdr) (b : SaClaim)
  | saApply (h : MsgHdr) (reqId : W32)
  | saUnclaim (h : MsgHdr) (reqId : W32)
  | saClaimed (h : MsgHdr) (reqId : W32)
  | saWaiting (h : MsgHdr) (reqId : W32) (why : BitVec 2)
  | saFolded (h : MsgHdr) (reqId : W32)
  | saApplied (h : MsgHdr) (reqId : W32)
  | saDenied (h : MsgHdr) (reqId : W32)
  | saClaimResend (reqId : W32)
  | ledgerWaitTimeout (s : SId)
  | cpRd (h : MsgHdr) (reqId : W32) (addr len : Nat)
  | cpData (h : MsgHdr) (reqId : W32) (detail : Nat) (bytes : List Byte) (poison : List Bool)
  | cpWr (h : MsgHdr) (reqId : W32) (addr : Nat) (bytes : List Byte) (poison : List Bool)
  | cpWack (h : MsgHdr) (reqId : W32) (detail : Nat)
  | lkAcq (h : MsgHdr) (reqId : W32) (lock : Fin 1024) (stream : SId) (prio : Fin 8)
  | lkGrant (h : MsgHdr) (reqId : W32) (abandoned : Bool)
  | lkWait (h : MsgHdr) (reqId : W32)
  | lkRel (h : MsgHdr) (reqId : W32) (lock : Fin 1024)
  | lkRelack (h : MsgHdr) (reqId : W32) (notHeld : Bool)
  | lkRenew (h : MsgHdr) (reqIds : List W32)
  | lkRenewed (h : MsgHdr) (reqIds : List W32)
  | lkAbandon (h : MsgHdr) (reqId : W32)
  | lkWithdraw (h : MsgHdr) (reqId : W32)
  | lkDenied (h : MsgHdr) (reqId : W32)
  | lkPrio (h : MsgHdr) (reqId : W32) (prio : Fin 8)
  | leaseRenewSend
  | leaseEndOwner (lock : Fin 1024)
  | leaseEndHolder (reqId : W32)
  | abandonedGrantHoldEnd (lock : Fin 1024)
  | xkeep (h : MsgHdr) (reqId : W32)
  | joinHello (l : Lnk) (h : MsgHdr) (b : JoinHello)
  | lostNotice (h : MsgHdr) (member : Dev)
  | leaveNotice (h : MsgHdr)
  | rejoin (h : MsgHdr)
  | placeQuery (h : MsgHdr) (reqId : W32) (target : Nat) (handles : List W32)
  | placeAns (h : MsgHdr) (b : PlaceAns)
  | mgmtRelayReq (h : MsgHdr) (cmd : Byte) (params : List Byte)
  | mgmtRelayAns (h : MsgHdr) (code : Byte) (data : List Byte)
  | getInterface (f : Fn)
  | getCaps (f : Fn)
  | enableCaps (f : Fn)
  | getCommandInfo (f : Fn)
  | getLimits (f : Fn)
  | opStatus (f : Fn)
  | opCancel (f : Fn)
  | partitionCreate (f : Fn)
  | partitionSetQuota (f : Fn)
  | partitionAssignStream (f : Fn)
  | partitionReleaseStream (f : Fn)
  | partitionWipe (f : Fn)
  | partitionDestroy (f : Fn)
  | partitionQuery (f : Fn)
  | tableCreate (f : Fn)
  | tableLoad (f : Fn)
  | tableDestroy (f : Fn)
  | tableQuery (f : Fn)
  | tableMapShared (f : Fn)
  | tableUnmapShared (f : Fn)
  | tableRegisterGolden (f : Fn)
  | placePlan (f : Fn)
  | placeCommit (f : Fn)
  | tableRequantize (f : Fn)
  | adapterLoad (f : Fn)
  | adapterBind (f : Fn)
  | profileLoad (f : Fn)
  | profileUnload (f : Fn)
  | grammarLoad (f : Fn)
  | grammarUnload (f : Fn)
  | stopStringsSet (f : Fn)
  | pageRetire (f : Fn)
  | channelMapOutEvacuate (f : Fn)
  | channelMapOutDiscard (f : Fn)
  | channelMapOutRecord (f : Fn)
  | hellboxRead (f : Fn)
  | marginStart (f : Fn)
  | marginResult (f : Fn)
  | rowRepair (f : Fn)
  | setPowerPermit (f : Fn)
  | setLoopBounds (f : Fn)
  | getLoopBounds (f : Fn)
  | podJoin (f : Fn)
  | podLeave (f : Fn)
  | linkControlDisable (f : Fn)
  | linkControlEnable (f : Fn)
  | linkControlRelease (f : Fn)
  | linkControlWidth2 (f : Fn)
  | linkControlWidth4 (f : Fn)
  | podQuery (f : Fn)
  | fwQuery (f : Fn)
  | fwUpdateBegin (f : Fn)
  | fwUpdateData (f : Fn)
  | fwUpdateEnd (f : Fn)
  | fwUpdateCancel (f : Fn)
  | fwActivate (f : Fn)
  | cpRestart (f : Fn)
  | fwCommitSvn (f : Fn)
  | fwRevokeKey (f : Fn)
  | colophonRead (f : Fn)
  | getBound (path : MgmtPath) (device word : Byte)
  | setBound (path : MgmtPath) (device word : Byte) (value : W32)
  | telRead (path : MgmtPath) (device : Byte)
  | evtNorRead (path : MgmtPath) (device : Byte) (boot : W32) (firstSeq : W64) (count : Byte)
  | mgmtColophonRead (path : MgmtPath) (device : Byte)
  | setEndpointId (path : MgmtPath) (op eid : Byte)
  | getEndpointId (path : MgmtPath)
  | getEndpointUuid (path : MgmtPath)
  | getMctpVersionSupport (path : MgmtPath) (type : Byte)
  | getMessageTypeSupport (path : MgmtPath)
  | getVendorDefinedMsgSupport (path : MgmtPath) (selector : Byte)
  | getTid (path : MgmtPath)
  | getPldmVersion (path : MgmtPath) (type : Byte)
  | getPldmTypes (path : MgmtPath)
  | getPldmCommands (path : MgmtPath) (type : Byte)
  | getPdrRepositoryInfo (path : MgmtPath)
  | getPdr (path : MgmtPath) (record : W32)
  | getSensorReading (path : MgmtPath) (sensor : W16)
  | getStateSensorReadings (path : MgmtPath) (sensor : W16)
  | pollForPlatformEventMessage (path : MgmtPath)
  | queryDeviceIdentifiers (path : MgmtPath)
  | getFirmwareParameters (path : MgmtPath)
  | requestUpdate (path : MgmtPath)
  | passComponentTable (path : MgmtPath)
  | updateComponent (path : MgmtPath) (size : W32)
  | requestFirmwareData (offset : W32) (data : List Byte)
  | transferComplete (ok : Bool)
  | verifyComplete
  | applyComplete
  | activateFirmware (path : MgmtPath)
  | getStatus (path : MgmtPath)
  | cancelUpdateComponent (path : MgmtPath)
  | cancelUpdate (path : MgmtPath)
  | pwrgdAssert (podId : BitVec 6)
  | pwrgdDeassert
  | powerUpSequence (obs : BootObs)
  | initSweep (pages : Nat)
  | linkBootTraining (obs : List TrainObs)
  | pcieReady
  | perstNAssert
  | perstNDeassert
  | forceIdleNAssert
  | forceIdleNDeassert
  | globalStopNAssert
  | globalStopNDeassert
  | pinStuck (p : Pin)
  | pinStuckClear (p : Pin)
  | pinRate (p : Pin)
  | pinRateWindowEnd (p : Pin)
  | idcode
  | samplePreload
  | extest
  | clamp
  | highz
  | runbist (failed : BitVec 7)
  | extestPulse
  | extestTrain
  | bypass
  | hostReadCompletion (r : Requester) (addr : W64) (st : HostStatus)
  | atsTranslationCompletion (f : Fn) (page : BitVec 52) (granted : Bool)
  | amcFault
  | amcRestart
  | pageZeroed (page : Nat)
  | pcieLinkUp (speed : BitVec 4) (width : BitVec 6) (reversed : Bool)
  | testLogicReset
  | perBankRefresh (c : Ch) (rank : Fin 3)
  | linkPeerDetect (l : Lnk)
deriving DecidableEq, Repr

end Sys2Proof
end

