-- ==== Sys2Proof/Machine/Codes.lean ====
section
/-! DEFINITION. The codes and bit-level functions the spec states exactly: little-endian byte order (R5), CRC-32C
(R148), the Reed-Solomon code of a burst (R200), and the helpers that read fields out of words. All of it evaluates
in the kernel. -/

namespace Sys2Proof.Machine

/-- Bits [hi:lo] of a number. -/
def bits (n hi lo : Nat) : Nat := (n >>> lo) % 2 ^ (hi + 1 - lo)

/-- Bit i of a number. -/
def bitOf (n i : Nat) : Bool := (n >>> i) % 2 == 1

/-- A Bool as a bit. -/
def b2n (b : Bool) : Nat := if b then 1 else 0

/-- Round a up to a multiple of m. -/
def alignUp (a m : Nat) : Nat := (a + m - 1) / m * m

/-- The ceiling of a / b. -/
def cdiv (a b : Nat) : Nat := (a + b - 1) / b

/-- The n low bytes of a number, least significant first (R5). -/
def leBytes : Nat → Nat → List Byte
  | 0, _ => []
  | n + 1, v => BitVec.ofNat 8 v :: leBytes n (v / 256)

/-- The number that bytes spell, least significant first (R5). -/
def leNat : List Byte → Nat
  | [] => 0
  | b :: t => b.toNat + 256 * leNat t

/-- Bytes [a, a + n) of a byte string; bytes past its end read zero. -/
def slice (l : List Byte) (a n : Nat) : List Byte :=
  let r := (l.drop a).take n
  r ++ List.replicate (n - r.length) 0

/-- Unsigned field of n bytes at offset a. -/
def leAt (l : List Byte) (a n : Nat) : Nat := leNat (slice l a n)

/-- A number of n bits read as two's complement. -/
def sext (n v : Nat) : Int := if v % 2 ^ n < 2 ^ (n - 1) then (v % 2 ^ n : Nat) else (v % 2 ^ n : Nat) - (2 ^ n : Nat)

/-- An integer as an n-bit two's complement number. -/
def twos (n : Nat) (i : Int) : Nat := (i % (2 ^ n : Nat)).toNat

/-- One bit step of the reflected CRC-32C (R148). -/
def crcBit (c : W32) : W32 := if c.getLsbD 0 then (c >>> 1) ^^^ 0x82F63B78#32 else c >>> 1

/-- One byte of the CRC-32C. -/
def crcByte (c : W32) (b : Byte) : W32 :=
  crcBit (crcBit (crcBit (crcBit (crcBit (crcBit (crcBit (crcBit (c ^^^ b.setWidth 32))))))))

/-- The running CRC-32C over bytes. -/
def crcRun (c : W32) : List Byte → W32
  | [] => c
  | b :: t => crcRun (crcByte c b) t

/-- The CRC-32C of R148. -/
def crc32c (l : List Byte) : W32 := crcRun 0xFFFFFFFF#32 l ^^^ 0xFFFFFFFF#32

/-- Multiply by x in GF(2^8) modulo x^8 + x^4 + x^3 + x^2 + 1 (R200). -/
def gfX (a : Byte) : Byte := if a.getLsbD 7 then (a <<< 1) ^^^ 0x1D#8 else a <<< 1

/-- Product in GF(2^8), by the bits of b from bit 0 up. -/
def gfMulAux : Nat → Byte → Byte → Byte
  | 0, _, _ => 0
  | n + 1, a, b => (if b.getLsbD 0 then a else 0) ^^^ gfMulAux n (gfX a) (b >>> 1)

/-- Product in the field of R200. -/
def gfMul (a b : Byte) : Byte := gfMulAux 8 a b

/-- The k-th power of α = 0x02. -/
def gfPow : Nat → Byte
  | 0 => 1
  | k + 1 => gfX (gfPow k)

/-- The coefficients of x^3, x^2, x and 1 of g(x) = (x + 1)(x + α)(x + α^2)(x + α^3) (R200). -/
def rsGen : Byte × Byte × Byte × Byte := (0x0F, 0x36, 0x78, 0x40)

/-- The division of R200, one message byte at a time: the running remainder (c0, c1, c2, c3). -/
def rsDiv : Byte × Byte × Byte × Byte → List Byte → Byte × Byte × Byte × Byte
  | c, [] => c
  | (c0, c1, c2, c3), b :: t =>
    let f := b ^^^ c0
    rsDiv (c1 ^^^ gfMul f rsGen.1, c2 ^^^ gfMul f rsGen.2.1, c3 ^^^ gfMul f rsGen.2.2.1, gfMul f rsGen.2.2.2) t

/-- The four check bytes of a burst, in the order c0, c1, c2, c3 (R200). -/
def rsCheck (burst : List Byte) : List Byte :=
  let (c0, c1, c2, c3) := rsDiv (0, 0, 0, 0) burst
  [c0, c1, c2, c3]

/-- The value at α^i of the polynomial whose coefficients are the symbols, highest power first (Horner). -/
def rsEval (a : Byte) : Byte → List Byte → Byte
  | acc, [] => acc
  | acc, v :: t => rsEval a (gfMul acc a ^^^ v) t

/-- Syndrome S_i of the symbols received (R200). -/
def rsSyn (v : List Byte) (i : Nat) : Byte := rsEval (gfPow i) 0 v

/-- What the decoder of R200 makes of 68 symbols. -/
inductive RsOut where
  | clean
  /-- The symbol at this position is repaired by this difference. -/
  | corrected (pos : Nat) (err : Byte)
  | uncorrectable
deriving DecidableEq, Repr

/-- The single error position among the first n whose locator X = α^(67 - k) explains the syndromes. -/
def rsFind (s0 s1 s2 s3 : Byte) : Nat → Option Nat
  | 0 => none
  | k + 1 =>
    let x := gfPow (67 - k)
    if s1 = gfMul s0 x && s2 = gfMul s1 x && s3 = gfMul s2 x then some k else rsFind s0 s1 s2 s3 k

/-- The decoder of R200 over 68 symbols (64 burst bytes, then the four check bytes). -/
def rsDecode (v : List Byte) : RsOut :=
  let s0 := rsSyn v 0; let s1 := rsSyn v 1; let s2 := rsSyn v 2; let s3 := rsSyn v 3
  if s0 = 0 && s1 = 0 && s2 = 0 && s3 = 0 then .clean
  else if s0 = 0 then .uncorrectable
  else
    match rsFind s0 s1 s2 s3 68 with
    | some k => .corrected k s0
    | none => .uncorrectable

/-- XOR a difference into the byte at position k. -/
def xorAt : List Byte → Nat → Byte → List Byte
  | [], _, _ => []
  | b :: t, 0, e => (b ^^^ e) :: t
  | b :: t, k + 1, e => b :: xorAt t k e

end Sys2Proof.Machine
end

