-- ==== Sys2Proof/Machine/Float.lean ====
section
/-! DEFINITION. IEEE 754 arithmetic exactly (R12, R231, R232, R315, R319, 11.4): binary32, with binary16 and bfloat16
as storage formats. A value is unpacked to an exact integer times a power of two, computed on exactly, and rounded
once to nearest even. Subnormals are kept; every NaN is the canonical quiet NaN of its format. -/

namespace Sys2Proof.Machine

/-- A floating-point format by its fraction and exponent widths. -/
structure Fmt where
  frac : Nat
  exp : Nat
deriving DecidableEq, Repr

/-- binary32, binary16, bfloat16. -/
def fmt32 : Fmt := ⟨23, 8⟩
def fmt16 : Fmt := ⟨10, 5⟩
def fmtB16 : Fmt := ⟨7, 8⟩

/-- An unpacked value: NaN, an infinity, or (−1)^neg × m × 2^e. -/
inductive FV where
  | nan
  | inf (neg : Bool)
  | fin (neg : Bool) (m : Nat) (e : Int)
deriving DecidableEq, Repr

/-- The exponent of the last place of the subnormals. -/
def Fmt.emin (f : Fmt) : Int := 2 - 2 ^ (f.exp - 1) - f.frac

/-- The bits of +infinity, of the canonical quiet NaN, and of the sign. -/
def Fmt.infBits (f : Fmt) : Nat := (2 ^ f.exp - 1) * 2 ^ f.frac
def Fmt.nanBits (f : Fmt) : Nat := f.infBits + 2 ^ (f.frac - 1)
def Fmt.signBit (f : Fmt) : Nat := 2 ^ (f.frac + f.exp)

/-- Unpack the bits of a format. -/
def fUnpack (f : Fmt) (b : Nat) : FV :=
  let s := bitOf b (f.frac + f.exp)
  let e := (b / 2 ^ f.frac) % 2 ^ f.exp
  let m := b % 2 ^ f.frac
  if e = 2 ^ f.exp - 1 then (if m = 0 then .inf s else .nan)
  else if e = 0 then .fin s m f.emin
  else .fin s (2 ^ f.frac + m) (f.emin + (e - 1 : Nat))

/-- Bit length. -/
def bitLen (m : Nat) : Nat := if m = 0 then 0 else Nat.log2 m + 1

/-- Round m × 2^(−k), plus a sticky excess below it, to the nearest integer, ties to even. -/
def rne (m k : Nat) (sticky : Bool) : Nat :=
  let q := m / 2 ^ k
  let r := m % 2 ^ k
  let h := 2 ^ k / 2
  if k = 0 then m
  else if r > h || (r = h && (sticky || q % 2 = 1)) then q + 1 else q

/-- Round (m plus a sticky excess) × 2^e to the format, to nearest even; overflow gives an infinity. -/
def fPack (f : Fmt) (neg : Bool) (m : Nat) (e : Int) (sticky : Bool) : Nat :=
  let sg := if neg then f.signBit else 0
  let q := max (e + bitLen m - (f.frac + 1)) f.emin
  let r := if q ≤ e then m * 2 ^ (e - q).toNat else rne m (q - e).toNat sticky
  let b := (q - f.emin).toNat * 2 ^ f.frac + r
  if m = 0 then sg else if b ≥ f.infBits then sg + f.infBits else sg + b

/-- Round an unpacked exact value to the format. -/
def fRound (f : Fmt) : FV → Nat
  | .nan => f.nanBits
  | .inf s => (if s then f.signBit else 0) + f.infBits
  | .fin s m e => fPack f s m e false

/-- The exact sum of two unpacked values; an exact zero of unlike signs is +0. -/
def fvAdd : FV → FV → FV
  | .nan, _ => .nan
  | _, .nan => .nan
  | .inf a, .inf b => if a = b then .inf a else .nan
  | .inf a, _ => .inf a
  | _, .inf b => .inf b
  | .fin s1 m1 e1, .fin s2 m2 e2 =>
    let e := min e1 e2
    let a : Int := (m1 * 2 ^ (e1 - e).toNat : Nat)
    let b : Int := (m2 * 2 ^ (e2 - e).toNat : Nat)
    let t := (if s1 then -a else a) + (if s2 then -b else b)
    if t = 0 then .fin (s1 && s2) 0 e else .fin (decide (t < 0)) t.natAbs e

/-- The exact product of two unpacked values. -/
def fvMul : FV → FV → FV
  | .nan, _ => .nan
  | _, .nan => .nan
  | .inf a, .inf b => .inf (a != b)
  | .inf a, .fin s m _ => if m = 0 then .nan else .inf (a != s)
  | .fin s m _, .inf b => if m = 0 then .nan else .inf (s != b)
  | .fin s1 m1 e1, .fin s2 m2 e2 => .fin (s1 != s2) (m1 * m2) (e1 + e2)

/-- Negate. -/
def fvNeg : FV → FV
  | .nan => .nan
  | .inf s => .inf (!s)
  | .fin s m e => .fin (!s) m e

/-- a < b of two unpacked values; false where either is a NaN. -/
def fvLt : FV → FV → Bool
  | .nan, _ => false
  | _, .nan => false
  | .inf a, .inf b => a && !b
  | .inf a, _ => a
  | _, .inf b => !b
  | .fin s1 m1 e1, .fin s2 m2 e2 =>
    let e := min e1 e2
    let a : Int := (m1 * 2 ^ (e1 - e).toNat : Nat)
    let b : Int := (m2 * 2 ^ (e2 - e).toNat : Nat)
    decide ((if s1 then -a else a) < (if s2 then -b else b))

/-- Neither a NaN nor an infinity. -/
def fvFinite : FV → Bool
  | .fin _ _ _ => true
  | _ => false

/-- Unpack binary32 bits. -/
def f32 (b : W32) : FV := fUnpack fmt32 b.toNat
/-- Round to binary32. -/
def r32 (v : FV) : W32 := BitVec.ofNat 32 (fRound fmt32 v)

/-- binary32 sum, difference, product, fused multiply-add: one rounding each. -/
def fAdd (a b : W32) : W32 := r32 (fvAdd (f32 a) (f32 b))
def fSub (a b : W32) : W32 := r32 (fvAdd (f32 a) (fvNeg (f32 b)))
def fMul (a b : W32) : W32 := r32 (fvMul (f32 a) (f32 b))
def fFma (a b c : W32) : W32 := r32 (fvAdd (fvMul (f32 a) (f32 b)) (f32 c))

/-- binary32 quotient: 64 more bits of quotient than the operands hold, and a sticky remainder. -/
def fDiv (a b : W32) : W32 :=
  match f32 a, f32 b with
  | .nan, _ => r32 .nan
  | _, .nan => r32 .nan
  | .inf _, .inf _ => r32 .nan
  | .inf s, .fin t _ _ => r32 (.inf (s != t))
  | .fin s _ _, .inf t => r32 (.fin (s != t) 0 0)
  | .fin s m e, .fin t n g =>
    if n = 0 then (if m = 0 then r32 .nan else r32 (.inf (s != t)))
    else BitVec.ofNat 32 (fPack fmt32 (s != t) (m * 2 ^ 64 / n) (e - g - 64) (m * 2 ^ 64 % n != 0))

/-- Integer square root, one result bit at a time from bit k − 1 down. -/
def isqrtAux (n : Nat) : Nat → Nat → Nat
  | 0, r => r
  | k + 1, r => let c := r + 2 ^ k; if c * c ≤ n then isqrtAux n k c else isqrtAux n k r

/-- The integer square root of a number below 2^128. -/
def isqrt (n : Nat) : Nat := isqrtAux n 64 0

/-- binary32 square root. -/
def fSqrt (a : W32) : W32 :=
  match f32 a with
  | .nan => r32 .nan
  | .inf s => if s then r32 .nan else r32 (.inf false)
  | .fin s m e =>
    if m = 0 then r32 (.fin s 0 0)
    else if s then r32 .nan
    else
      let x := if e % 2 = 0 then m * 2 ^ 64 else m * 2 ^ 65
      let g := if e % 2 = 0 then (e - 64) / 2 else (e - 65) / 2
      let r := isqrt x
      BitVec.ofNat 32 (fPack fmt32 false r g (r * r != x))

/-- Compare binary32 values. -/
def fLt (a b : W32) : Bool := fvLt (f32 a) (f32 b)
def fMin (a b : W32) : W32 := if fLt b a then b else a
def fMax (a b : W32) : W32 := if fLt a b then b else a
def fIsFinite (a : W32) : Bool := fvFinite (f32 a)
def fIsNan (a : W32) : Bool := f32 a == .nan

/-- Widen binary16 and bfloat16 exactly (R231, 11.4). -/
def f16to32 (h : W16) : W32 := r32 (fUnpack fmt16 h.toNat)
def bf16to32 (h : W16) : W32 := r32 (fUnpack fmtB16 h.toNat)

/-- Round binary32 to binary16 and to bfloat16 (R231, R319). -/
def f32to16 (a : W32) : W16 := BitVec.ofNat 16 (fRound fmt16 (f32 a))
def f32tob16 (a : W32) : W16 := BitVec.ofNat 16 (fRound fmtB16 (f32 a))

/-- An integer rounded to binary32. -/
def f32ofInt (i : Int) : W32 := BitVec.ofNat 32 (fPack fmt32 (decide (i < 0)) i.natAbs 0 false)

/-- A finite value rounded to the nearest integer, ties to even. -/
def fvToInt : FV → Int
  | .fin s m e =>
    let n : Int := (if 0 ≤ e then m * 2 ^ e.toNat else rne m (-e).toNat false : Nat)
    if s then -n else n
  | _ => 0

/-- The canonical NaN of OUT_FMT as bytes, and a value stored under OUT_FMT (R319, R320): 0 fp32, 1 bf16, 2 fp16. -/
def outBytes (fmt : Nat) (v : W32) : List Byte :=
  match fmt with
  | 0 => leBytes 4 (if fIsNan v then fmt32.nanBits else v.toNat)
  | 1 => leBytes 2 (f32tob16 v).toNat
  | _ => leBytes 2 (f32to16 v).toNat

/-- Bytes of one element of a float format: 0 fp32, 1 bf16, 2 fp16. -/
def fmtSize (fmt : Nat) : Nat := if fmt = 0 then 4 else 2

/-- Read one element of a float format: 0 fp32, 1 bf16, 2 fp16, widened exactly. -/
def inVal (fmt : Nat) (b : List Byte) : W32 :=
  match fmt with
  | 0 => BitVec.ofNat 32 (leNat b)
  | 1 => bf16to32 (BitVec.ofNat 16 (leNat b))
  | _ => f16to32 (BitVec.ofNat 16 (leNat b))

end Sys2Proof.Machine
end

