-- ==== Sys2Proof/Config.lean ====
section
/-! DEFINITION. What the spec leaves open as a value: opaque constants, with no body, that nothing in Lean can
evaluate (log entry 3), and the two cryptographic functions that R122 names and whose definitions lie outside the
spec (log entry 4). What an ordering code or a strap fixes is data of State (`Ident`). -/

namespace Sys2Proof.Config

/-- The n-th free byte: an undefined byte of an output (R91, R104, R299). -/
opaque freeByte : Nat → Byte
/-- The n-th free 32-bit word. -/
opaque freeW32 : Nat → W32
/-- The n-th free 64-bit word. -/
opaque freeW64 : Nat → W64
/-- SHA-384 (R122 names it; its definition is not in the spec), as 48 bytes in output order. -/
opaque sha384 : List Byte → List Byte
/-- ECDSA verification over P-384 (R122): key x, key y, r, s as big-endian octet strings, and the digest. -/
opaque ecdsaP384 : List Byte → List Byte → List Byte → List Byte → List Byte → Bool
/-- Whether a swept margin point passes is the silicon's own; this is the n-th observation no operand gives. -/
opaque freeBit : Nat → Bool

end Sys2Proof.Config
end

