-- ==== Sys2Proof/Machine/Tab.lean ====
section
/-! DEFINITION. Sparse tables: lists of (key, value) pairs with strictly rising keys. They hold memory, register
copies, counters and every table of objects in `State`. `setD` keeps the canonical form of a table whose unlisted
keys read as a default: writing the default removes the entry, so equal contents are equal lists. -/

namespace Sys2Proof.Machine

/-- A table of values by key, keys strictly rising. -/
abbrev Tab (α : Type) := List (Nat × α)

/-- The entry of key `k`, if one is listed. -/
def lk {α : Type} : Tab α → Nat → Option α
  | [], _ => none
  | (k', v) :: t, k => if k' = k then some v else lk t k

/-- The value of key `k` in a table whose unlisted keys read as `d`. -/
def lkD {α : Type} (t : Tab α) (k : Nat) (d : α) : α := (lk t k).getD d

/-- List `v` at key `k`. -/
def put {α : Type} : Tab α → Nat → α → Tab α
  | [], k, v => [(k, v)]
  | (k', v') :: t, k, v =>
    if k < k' then (k, v) :: (k', v') :: t
    else if k' = k then (k, v) :: t
    else (k', v') :: put t k v

/-- Remove the entry of key `k`. -/
def del {α : Type} (t : Tab α) (k : Nat) : Tab α := t.filter (fun e => e.1 != k)

/-- Give key `k` the value `v` in a table whose unlisted keys read as `d`. -/
def setD {α : Type} [DecidableEq α] (t : Tab α) (k : Nat) (v d : α) : Tab α :=
  if v = d then del t k else put t k v

/-- Change the value of key `k` by `f`, in a table whose unlisted keys read as `d`. -/
def updD {α : Type} [DecidableEq α] (t : Tab α) (k : Nat) (d : α) (f : α → α) : Tab α :=
  setD t k (f (lkD t k d)) d

/-- Change the entry of key `k` by `f` where one is listed. -/
def adj {α : Type} (t : Tab α) (k : Nat) (f : α → α) : Tab α :=
  match lk t k with
  | some v => put t k (f v)
  | none => t

/-- Whether key `k` is listed. -/
def has {α : Type} (t : Tab α) (k : Nat) : Bool := (lk t k).isSome

/-- Remove every entry whose key lies in [a, b). -/
def delRange {α : Type} (t : Tab α) (a b : Nat) : Tab α := t.filter (fun e => e.1 < a || b ≤ e.1)

/-- Keys strictly rise. -/
def Tab.sorted {α : Type} : Tab α → Bool
  | [] => true
  | [_] => true
  | (k, _) :: (k', v') :: t => decide (k < k') && Tab.sorted ((k', v') :: t)

/-- The canonical form: keys strictly rise and no entry equals what an unlisted key reads as. -/
def Tab.wf {α : Type} [DecidableEq α] (d : α) (t : Tab α) : Bool :=
  Tab.sorted t && t.all (fun e => decide (e.2 ≠ d))

/-- List the given pairs into the table, in order. -/
def putAll {α : Type} (t : Tab α) : List (Nat × α) → Tab α
  | [] => t
  | (k, v) :: r => putAll (put t k v) r

end Sys2Proof.Machine
end

