-- ==== Sys2Proof/Machine/State.lean ====
section
/-! DEFINITION. The whole state of a Cerrel as plain data, the stops of a step, and the machine right after a cold
reset. INVENTORY.md lists every field with the rule of spec/ that names it and its reset value. Quantities that
software never sees as a word are Nat; tables are sparse lists in one canonical form (`Tab`). -/

namespace Sys2Proof.Machine

/-- The machine stops with a fault: no command or event of the spec stops a Cerrel, so there is none. -/
inductive Fault where
deriving DecidableEq, Repr

/-- A step with no meaning. -/
inductive Refusal where
  /-- Raised by an arm of `exec` for a row that has no meaning yet. Safe: no step follows. -/
  | notModelled (mnemonic : String)
deriving DecidableEq, Repr

/-! ### Identity and time -/

/-- What the ordering code, the stepping and the straps fix (R17, Table 3.7, R385). -/
structure Ident where
  /-- 1 for CRL-9256, 2 for CRL-9384. -/
  ordering : Nat
  /-- POD_ID[5:0] as sampled at PWRGD. -/
  podId : Nat
  /-- What manufacture writes: SERIAL, UUID, the PCI vendor ID and FIRST_SHIP (Table 19.5). -/
  serial : List Byte
  uuid : List Byte
  vendor : Nat
  firstShip : Nat
deriving DecidableEq, Repr

/-- AON time (R41, R559): periods of 40 ns since cold reset, and the count the timers run on, which stands still
under GLOBAL_STOP_N (R52). -/
structure Clk where
  aon : Nat
  timer : Nat
  /-- When each periodic event is next due (R559), by the event's number; first due at count 0. -/
  due : Tab Nat
deriving DecidableEq, Repr

/-! ### The event log (1.4.3, 18.6) -/

/-- A record with what the sequencer stamps on it (Table 18.7). -/
structure EvStored where
  seq : Nat
  lidx : Nat
  global : Bool
  boot : Nat
  time : Nat
  device : Nat
  r : EvRec
deriving DecidableEq, Repr

/-- One log: records posted, records lost, the window ring by slot, and the losses not yet summarised (R499). -/
structure LogSt where
  posted : Nat
  lost : Nat
  slots : Tab EvStored
  lossCnt : Nat
  lossFirst : Nat
  lossLast : Nat
  lossFirstSeq : Nat
  lossLastSeq : Nat
deriving DecidableEq, Repr

/-- A block of the NOR log ring (R512, Table 19.8). -/
structure NorBlock where
  erases : Nat
  boot : Nat
  firstSeq : Nat
  recs : List EvStored
deriving DecidableEq, Repr

/-- The event sequencer, its staging buffer of global records not yet durable, and the NOR log. -/
structure Evt where
  seq : Nat
  logs : Tab LogSt
  staged : List EvStored
  /-- Cold resets counted in NOR. -/
  boot : Nat
  /-- The NOR ring: blocks by number, the current block, the tokens of R513 and its accumulator. -/
  ring : Tab NorBlock
  cur : Nat
  bucket : Nat
  acc : Nat
  /-- The filter of R487: handle, row, time reported; newest first. -/
  rowFilter : List (Nat × Nat × Nat)
deriving DecidableEq, Repr

/-! ### Registers and configuration (chapter 5) -/

/-- A commit in progress: the frozen image, the frozen reference and the AON time of the freeze (R152). -/
structure Frozen where
  image : Tab W32
  ref : W32
  at_ : Nat
deriving DecidableEq, Repr

/-- Configuration and observation registers by register key (`rk`), and the commit state of each region. -/
structure Cfg where
  /-- The most recently written value (R132), where it differs from Reset. -/
  staged : Tab W32
  /-- The committed copy (R147), where it differs from Reset. -/
  committed : Tab W32
  /-- The value the governed block acts on (R134, R154), where it differs from Reset. -/
  effective : Tab W32
  /-- Live counters (Tables 3.9, 7.6 and so on) by register key. -/
  cnt : Tab Nat
  /-- AON time of the last accepted commit, by region. -/
  commitAt : Tab Nat
  busy : Tab Frozen
  /-- Staged and committed references and the last pass, by region; an unlisted region has the check value of its
  reset image. -/
  refStaged : Tab W32
  refCommitted : Tab W32
  live : Tab W32
  result : Tab W32
  seq : Tab W32
  /-- Regions whose mismatch has begun and not ended (R155). -/
  mismatch : Tab Bool
  /-- The firmware region's configuration RAM, words that differ from zero: what corruption has turned (R147). -/
  fwRam : Tab W32
  /-- Management words staged and committed (R561), where they differ from their defaults. -/
  mgmtStaged : Tab Nat
  mgmtCommitted : Tab Nat
  /-- The management words in effect, where they differ from their defaults. -/
  mgmtEff : Tab Nat
deriving DecidableEq, Repr

/-- The snapshot engine of one function (R142, R145). -/
structure Snap where
  pending : Option W16
  /-- TOKEN of the last capture, captures completed, edge time, domains captured through the retention path. -/
  token : W16
  count : W16
  time : Nat
  domains : Nat
  /-- Holding registers by word offset. -/
  hold : Tab W32
deriving DecidableEq, Repr

/-! ### Host interface (chapter 3) -/

/-- A posted write the Cerrel has issued to host memory. -/
structure HostWrite where
  fn : Nat
  addr : Nat
  bytes : List Byte
deriving DecidableEq, Repr

/-- A bus read the Cerrel has completed, with its value; or a configuration request completed with or without
retry status. -/
inductive BusOut where
  | value (fn : Nat) (bar2 : Bool) (off : Nat) (v : W32)
  | config (fn : Nat) (retry : Bool)
  | invalidated (fn : Nat) (page : Nat)
deriving DecidableEq, Repr

/-- Refused BAR accesses of one function (R563). -/
structure BarErr where
  /-- AON time of the last record. -/
  lastAt : Option Nat
  count : Nat
  /-- P0 of the last counted access. -/
  p0 : W64
deriving DecidableEq, Repr

/-- The host interface. -/
structure Hif where
  vfEnable : Bool
  numVfs : Nat
  /-- PCIe link: DL_Active, speed code, width, lane reversal, ASPM L1 enabled (Table 3.12). -/
  dlActive : Bool
  speed : Nat
  width : Nat
  reversed : Bool
  aspmL1 : Bool
  recovery : Nat
  /-- Configuration requests complete successfully (R531). -/
  pcieReady : Bool
  d3 : Tab Bool
  /-- Functions whose admission has stopped and resumes at the next quoin period. -/
  held : Tab Bool
  atsEnable : Tab Bool
  /-- Translations held, by function × 2^52 + page: granted or not. -/
  ats : Tab Bool
  atsAsked : List (Nat × Nat)
  barErr : Tab BarErr
  /-- Reads that stall: function, BAR2, offset, when they arrived (R158, R159). -/
  stalled : List (Nat × Bool × Nat × Nat)
  /-- LCK_RESULT by function (Table 14.7). -/
  lckResult : Tab W32
  snap : Tab Snap
  writes : List HostWrite
  bus : List BusOut
deriving DecidableEq, Repr

/-! ### Mailbox, long operations, control processor (chapter 4) -/

/-- A request latched at acceptance (R103). -/
structure MbxReq where
  bytes : List Byte
  seq : W32
  at_ : Nat
deriving DecidableEq, Repr

/-- One function's mailbox (Table 4.1). -/
structure Mbx where
  reqSeq : W32
  rspSeq : W32
  latched : Option MbxReq
  /-- An accepted command of a function that has been reset still runs (R98, R113). -/
  orphan : Option MbxReq
  discard : Nat
  reqArea : Tab Byte
  rspArea : Tab Byte
  /-- Capability sets (R117). -/
  permitted : BitVec 256
  enabled : BitVec 256
  /-- Deprecated opcodes already recorded (R121). -/
  deprecated : List Nat
deriving DecidableEq, Repr

/-- An exchange with another device that is owed an answer (R391): the pod message sent, when anything for it last
arrived, and the answers accepted so far. -/
structure Exch where
  reqId : Nat
  dst : Nat
  body : MsgBody
  last : Nat
  answers : List MsgBody
  /-- Why the exchange is owed nothing more: 0 it is owed, 1 the link-credit timeout, 2 a lost member, 3 answered. -/
  why : Nat
deriving DecidableEq, Repr

/-- State of a long operation (R111). -/
inductive OpSt where
  | running
  | done
  | failed
  | cancelled
  | interrupted
deriving DecidableEq, Repr

/-- A long-operation record (R110, Table 4.6) and the operation's progress; `key` numbers the operations of the
device in the order they began, and an ID of 0 is of an operation whose record nobody reads. -/
structure Op where
  key : Nat
  id : Nat
  opcode : Nat
  fn : Nat
  st : OpSt
  finalMs : Nat
  finalDetail : Nat
  unitsDone : Nat
  unitsTotal : Nat
  req : List Byte
  at_ : Nat
  /-- Host reads landed and outstanding: address × 8192 + length. -/
  land : Tab HostStatus
  asked : List Nat
  ex : Tab Exch
  /-- What the operation keeps besides, by its command. -/
  acc : List Nat
deriving DecidableEq, Repr

/-- An image slot (R122, Table 4.7): the bytes programmed, and whether the slot has verified. -/
structure ImgSlot where
  bytes : Tab Byte
  valid : Bool
  ver : W32
  svn : Nat
  keySlot : Nat
  oil : Nat
  handover : Nat
deriving DecidableEq, Repr

/-- Who holds the update session (R125, R516). -/
inductive SessPath where
  | mailbox
  | pldm
deriving DecidableEq, Repr

/-- The open update session. -/
structure Sess where
  path : SessPath
  len : Nat
  lastAt : Nat
  /-- Bytes programmed. -/
  bytes : Nat
deriving DecidableEq, Repr

/-- The control processor, the image store and the fuses. -/
structure Fw where
  cpDown : Bool
  recovery : Bool
  /-- Running slot, marked slot: 0 A, 1 B. -/
  running : Nat
  marked : Nat
  fallback : Bool
  slotA : ImgSlot
  slotB : ImgSlot
  sess : Option Sess
  /-- Fused rollback counter and key revocation (R123, R124). -/
  rollback : Nat
  revoked : Tab Bool
  keyHash : Tab (List Byte)
  /-- CP_RESTART waits for the image to report: the earlier slot, the trigger time and the issuer (R127). -/
  restart : Option (Nat × Nat)
  /-- Boot outcome (Table 20.6). -/
  bootPhase : Nat
  haltCause : Nat
  slotOutA : Nat
  slotOutB : Nat
  bistBad : Nat
  readyUs : Nat
  doneUs : Nat
  chFail : Nat
  initCursor : Nat
  initDone : Bool
deriving DecidableEq, Repr

/-! ### Memory (chapter 7) -/

/-- A write-combining entry (R207): its burst and device-physical address, the bytes that are valid, whether its source marked it poisoned, and
when its wait ends. -/
structure Wcb where
  burst : Nat
  pa : Nat
  bytes : Tab Byte
  poison : Bool
  due : Nat
deriving DecidableEq, Repr

/-- An entry of a channel's reorder queue (R205): the stream read it serves. -/
structure Reorder where
  stream : Nat
  seqNo : Nat
  pa : Nat
  bursts : Nat
deriving DecidableEq, Repr

/-- A Hellbox entry (Table 7.7). -/
structure HbEntry where
  kind : Nat
  reason : Nat
  channel : Nat
  mode : Nat
  page : Nat
  seq : Nat
deriving DecidableEq, Repr

/-- A CHANNEL_MAP_OUT sweep (R216). -/
structure Sweep where
  channel : Nat
  discard : Bool
  cursor : Nat
  op : Nat
deriving DecidableEq, Repr

/-- One margin result (R221). -/
structure Margin where
  left : Nat
  right : Nat
  limitL : Bool
  limitR : Bool
deriving DecidableEq, Repr

/-- The memory tier. Cells are keyed by (channel × 2^25 + raw slug) × 256 + byte; check slugs and poison maps lie in
them as R198 and R199 place them. -/
structure Mem where
  cells : Tab Byte
  wcb : Tab (List Wcb)
  reorder : Tab (List Reorder)
  /-- Scheduled write-backs of repaired bursts (R203): burst key and due time. -/
  ceBack : List (Nat × Nat)
  /-- Channel states of R214 by channel; 0 LIVE. -/
  chState : Tab Nat
  mr4Temp : Tab Nat
  /-- Refresh multiplier each rank's last MR4 reading requires: 0 x1, 1 x2, 2 x4, by channel × 4 + rank. -/
  mr4Mult : Tab Nat
  /-- Corrections and drops of the running second, by channel. -/
  ceRun : Tab Nat
  ceLast : Tab Nat
  dropRun : Tab Nat
  pmax : Nat
  /-- Bit s: stripe s is spread. -/
  spread : BitVec 256
  /-- Bit c: channel c is mapped out; and those recorded for the next cold reset. -/
  mapped : W64
  recorded : W64
  sweep : Option Sweep
  burstCap : Nat
  issued : Tab Nat
  hellbox : List HbEntry
  marginRes : Tab Margin
  marginOp : Option Nat
  /-- Time of the last margin slot by channel. -/
  marginAt : Tab Nat
  /-- Per-bank refreshes issued, by channel × 4 + rank. -/
  refreshAt : Tab Nat
deriving DecidableEq, Repr

/-! ### Partitions, pages and tables (chapters 6, 8, 11) -/

/-- What a usable device page is for (R175). -/
inductive PageUse where
  | free
  | dtt
  | repair
  | retired
  /-- Awaiting zeroing; released by this owner (0 to 31, 32 driver domain). -/
  | zeroing (owner : Nat)
  /-- Page `vpn` of a partition's buffer window. -/
  | buffer (part vpn : Nat)
  /-- A buffer page unmapped while the tasks in flight then, of these streams, may still reach it (6.7.3). -/
  | heldBuffer (part vpn : Nat) (by_ : List Nat)
  /-- Table storage, ledger, adapter, profile or grammar of an owner. -/
  | object (owner : Nat)
deriving DecidableEq, Repr

/-- A lock range (Table 6.1). -/
structure LockRange where
  base : Nat
  count : Nat
deriving DecidableEq, Repr

/-- The quota block (Table 6.3). -/
structure Quota where
  memPages : Nat
  bufPages : Nat
  galRes : Nat
  galMax : Nat
  maxTables : Nat
  quoRate : Nat
  quoBurst : Nat
  linkShare : Nat
  locks : List LockRange
deriving DecidableEq, Repr

/-- Partition states (R168). -/
inductive PartSt where
  | absent
  | active
  | wiping
  | destroying
deriving DecidableEq, Repr

/-- A partition. -/
structure Part where
  st : PartSt
  q : Quota
  gen : Nat
deriving DecidableEq, Repr

/-- A shard entry (Table 8.2). -/
structure ShardEnt where
  device : Nat
  replicaValid : Bool
  replica : Nat
  start : Nat
deriving DecidableEq, Repr

/-- Where a local page of a shard lies: a device page, or spilled at a host address of a function (R248). -/
inductive PLoc where
  | dev (page : Nat)
  | host (fn addr : Nat)
deriving DecidableEq, Repr

/-- Storage of one shard that this device holds, as owner or as replica. -/
structure Store where
  shard : Nat
  replica : Bool
  pages : List PLoc
deriving DecidableEq, Repr

/-- A registered golden copy (R241). -/
structure Golden where
  fn : Nat
  first : Nat
  count : Nat
  src : Nat
  stride : Nat
  fmt : Nat
deriving DecidableEq, Repr

/-- A fold that aborted or is to be re-issued (R358): the descriptor bytes 0x0C to 0x27 it must repeat. -/
structure FoldPend where
  key : List Byte
deriving DecidableEq, Repr

/-- A contribution a Platen has converted (R339): its row, the elements and their bound. -/
structure SaAdd where
  row : Nat
  a : List W32
  m : Nat
deriving DecidableEq, Repr

/-- A bag claimed here and neither applied nor unclaimed (R344): its requester, request and contributions. -/
structure Claim where
  dev : Nat
  req : Nat
  adds : List SaAdd
deriving DecidableEq, Repr

/-- The code and storage a table had when the tasks now in flight on these streams were admitted (R115, R250). -/
structure OldView where
  by_ : List Nat
  code : Nat
  stores : List Store
deriving DecidableEq, Repr

/-- A table descriptor and its state on this device (R225 to R228, R240, R241, chapter 12). -/
structure Table where
  handle : Nat
  dim16m1 : Nat
  code : Nat
  policy : Nat
  train : Nat
  shardMode : Nat
  rows : Nat
  frac : Nat
  ledgerLog2 : Nat
  rowfmt : Nat
  epoch : Nat
  shards : List ShardEnt
  placed : Bool
  stores : List Store
  ledger : List Nat
  foldCount : Nat
  clamped : Nat
  incomplete : Option (Nat × Nat)
  /-- Partitions it is mapped into (R178). -/
  mapped : List Nat
  golden : Option Golden
  /-- Ledger entries in use, gate closed, fold pending (R340, R352, R358). -/
  used : Nat
  gateClosed : Bool
  pend : Option FoldPend
  /-- The stream whose FOLD has closed the gate, bags claimed, and the devices told to wait (R352, R433). -/
  fold : Option Nat
  claims : List Claim
  mask : W64
  /-- What tasks admitted before an unmap or a switch of code still use (R179, R250). -/
  olds : List OldView
deriving DecidableEq, Repr

/-- An adapter image (R327). -/
structure Adapter where
  din : Nat
  dout : Nat
  bias : Bool
  pages : List Nat
deriving DecidableEq, Repr

/-! ### Streams and tasks (chapters 3, 10) -/

/-- A completion record's fields (Table 3.4). -/
structure Rec where
  status : Nat
  detail : Nat
  empty : Bool
  dropped : Bool
  poison : Bool
  forced : Bool
  sat : Bool
  count : Nat
  position : Nat
  coord : Nat
  result : Nat
deriving DecidableEq, Repr

/-- A descriptor copied into the device: its index, its bytes, whether CANCEL was set when it was read, and the
status and detail of a fetch that failed. -/
structure Fetched where
  idx : Nat
  bytes : List Byte
  cancel : Bool
  bad : Option (Nat × Nat)
deriving DecidableEq, Repr

/-- The task in flight on a stream. -/
structure TaskRun where
  idx : Nat
  desc : List Byte
  admitted : Nat
  land : Tab HostStatus
  asked : List Nat
  ex : Tab Exch
  /-- How many reads of the task's walks have been issued, the numbers of those that have returned, and how many belong to
  units already finished. -/
  issued : Nat
  returned : List Nat
  base : Nat
  /-- Segments granted to cores so far, and chase passes made. -/
  granted : Nat
  passes : Nat
  /-- HOST_STALL timer: when it last restarted (R87). -/
  stallAt : Option Nat
  /-- Ledger-wait timer: when it started (R347). -/
  waitAt : Option Nat
  /-- The adapter bound at admission (R328). -/
  adapter : Option Adapter
  /-- SCATTER_ADD bags applied here, claims held; FOLD slots done; COPY elements written. -/
  progress : Nat
  /-- A lock request, barrier arrival or remote lock exchange stands. -/
  waiting : Bool
  result : Nat
  /-- What an add or an element of the task has met, and contributions added (R342, R299). -/
  sat : Bool
  poison : Bool
  total : Nat
  /-- The task has ended with this record, not yet written. -/
  done : Option Rec
  /-- It was admitted to run: not turned away by R88, CANCEL, DEP or a descriptor that could not be read. -/
  ran : Bool
deriving DecidableEq, Repr

/-- Text state of a stream (R466): the Proof state and the Forme state, each with a mark that an uncorrectable word has
made it invalid; the stop strings set, and those the task in flight was admitted with (R467). -/
structure TextSt where
  asm : List Byte
  held : List Byte
  stopped : Bool
  stopIdx : Nat
  stops : List (List Byte)
  stopsNow : List (List Byte)
  grammar : Option Nat
  q : Nat
  stack : List Nat
  proofBad : Bool
  formeBad : Bool
deriving DecidableEq, Repr

/-- A stream (Tables 3.8 and 10.4; its RW registers lie in `Cfg`). -/
structure Stream where
  /-- The function and slot it is assigned to. -/
  slot : Option (Nat × Nat)
  tail : W32
  head : W32
  cpl : W32
  tailInvalid : Bool
  stallHold : Bool
  fetchAsked : Option (Nat × Nat)
  fetched : List Fetched
  task : Option TaskRun
  lastBad : Bool
  /-- Token bucket level (R288). -/
  level : Nat
  /-- MEMC demand of PREFETCH_HINT holds until this time (R300). -/
  holdUntil : Nat
  text : TextSt
deriving DecidableEq, Repr

/-! ### Links (chapter 13) -/

/-- A message on its way through a link: its bytes, virtual channel, dateline class, pool, ends, requester's
partition, whether it is in transit, its priority, when it was queued, and the flits already sent. -/
structure LMsg where
  bytes : List Byte
  vc : Nat
  cls : Nat
  pool : Nat
  src : Nat
  dst : Nat
  part : Nat
  transit : Bool
  prio : Nat
  at_ : Nat
  sent : Nat
deriving DecidableEq, Repr

/-- A frame kept until it is acknowledged (R376): FSEQ, slot map, flits, and how often it was resent. -/
structure TxFrame where
  fseq : Nat
  slots : List Nat
  flits : List (List Byte)
  resent : Nat
deriving DecidableEq, Repr

/-- A link (Table 13.10) and its two directions. -/
structure Link where
  st : Nat
  width : Nat
  pair : Bool
  open_ : Bool
  peerDev : Nat
  peerLink : Nat
  miswired : Bool
  narrow : Bool
  /-- AON times of the flaps of the last second. -/
  flaps : List Nat
  role : Nat
  port : Nat
  rolePeer : Nat
  fullFails : Nat
  /-- Timer count since which the link is not in UP, and since which it is idle. -/
  downAt : Nat
  idleAt : Nat
  fseq : Nat
  unacked : List TxFrame
  unackedAt : Nat
  resendFrom : Option Nat
  lreq : Nat
  ackSeq : Nat
  nak : Bool
  badRun : Nat
  credits : List Nat
  freed : List Nat
  seen : List Nat
  queue : List LMsg
  /-- Messages wholly sent, with the FSEQ of the frame of their last flit. -/
  sentMsgs : List (Nat × LMsg)
  rx : Tab (List Byte)
  /-- Channels whose last message sent was in transit, by VC × 2 + class; the turn of REQ before MGMT. -/
  lastTransit : Tab Bool
  turn : Bool
  /-- Flits injected by partition in each of the last 64 frames: VC × 64 + partition. -/
  shares : List (Tab Nat)
  out : List Frame
  /-- The peer's JOIN_HELLO since the link last reached UP, with its sender (R395). -/
  hello : Option (Nat × JoinHello)
deriving DecidableEq, Repr

/-- A whole message delivered here, or one in transit with the link and class it came by. -/
structure RawMsg where
  link : Nat
  cls : Nat
  at_ : Nat
  bytes : List Byte
deriving DecidableEq, Repr

/-! ### The pod (chapter 13) -/

/-- A request of a pod member that this device works on: reads of spilled rows landed and asked for, and the reads that
its partition's bucket has admitted (R287). -/
structure OwnerReq where
  msg : Msg
  land : Tab HostStatus
  asked : List Nat
  issued : Nat
deriving DecidableEq, Repr

/-- Pod membership, the exchanges' sequence numbers, and messages between the engines and the links. -/
structure Pod where
  joined : Bool
  /-- A POD_LEAVE runs since this AON time (R396). -/
  leaving : Option Nat
  nx : Nat
  ny : Nat
  nz : Nat
  key : W32
  members : W64
  lost : W64
  nextReq : Nat
  /-- MSEQ last sent and last accepted, by device × 8 + VC × 2 + pool (R372). -/
  mseqTx : Tab Nat
  mseqRx : Tab Nat
  /-- Messages of this device that wait to be routed. -/
  outbox : List Msg
  /-- Messages delivered to this device whose row has not run yet, and messages in transit. -/
  inbox : List RawMsg
  transit : List RawMsg
  links : Tab Link
  nextTrain : Nat
  /-- Messages discarded in the running second: unroutable, unknown MTYPE. -/
  runUnroutable : Nat
  runUnknown : Nat
  /-- Answers this device owes, with when the next XKEEP falls due: source × 2^32 + request. -/
  owes : Tab Nat
  ownerReqs : List OwnerReq
  /-- Grants held here for tasks of other devices: requester × 2^32 + handle, and when it last asked for work (R325). -/
  grants : Tab Nat
deriving DecidableEq, Repr

/-! ### Power, pins, background work, management, boot and test (chapters 2, 19, 20, 21) -/

/-- An adaptive loop's report (R61, R62): 0 not pinned, 1 pinned at the lower bound, 2 at the upper; the reason of a
crossing, 0 for none; and the two counts. -/
structure Loop where
  pinned : Nat
  crossed : Nat
  pinCnt : Nat
  ovrCnt : Nat
deriving DecidableEq, Repr

/-- An AVSBus interface (R549): fault, failures in a row, and when a faulted interface is next tried. -/
structure Avs where
  fault : Bool
  fails : Nat
  due : Nat
  /-- The value last confirmed by the regulator, mV. -/
  conf : Nat
deriving DecidableEq, Repr

/-- The power-state controller, the clocks and the voltage and thermal loops. -/
structure Pwr where
  /-- PWRGD is not asserted: the device is in OFF. -/
  off : Bool
  /-- Domain conditions by domain: 0 running, 1 gated, 2 stopped, 3 powered down (Table 2.11). -/
  dom : Tab Nat
  /-- The domains whose wake from DOZE or DEEP has its trigger and has not run to its end. -/
  waking : List Nat
  /-- AON time of the last demand on each domain, and when DOZE was entered. -/
  demandAt : Tab Nat
  dozeAt : Nat
  permit : Nat
  /-- CORE clock in MHz, what holds it (PWR_CORE_CLK[14:12]), and the AVS limit on it. -/
  coreClk : Nat
  clkWhy : Nat
  avsCap : Nat
  /-- VDD_CORE commanded, and the operating point kept for wakes, in mV. -/
  vdd : Nat
  vddOp : Nat
  avs0 : Avs
  avs1 : Avs
  /-- Hottest stack and logic sensor of the last sample, whether it lay at or over the trip thresholds, and every
  stack's temperature. -/
  stackT : Nat
  logicT : Nat
  trip : Bool
  stackTs : List Nat
  step : Nat
  thermtrip : Bool
  loops : Tab Loop
  dcoCode : Tab Nat
  dcoErr : Tab Nat
  /-- Target lowered by 1% until the first trim (R43); extra trims run (R63). -/
  dcoLow : Tab Bool
  dcoFast : Tab Bool
  forceIdle : Bool
  globalStop : Bool
  /-- AON periods spent in each device state, and in which each domain ran. -/
  inState : Tab Nat
  ran : Tab Nat
deriving DecidableEq, Repr

/-- A pin filter (R519): accepted level, STUCK, RATE, when the level was last accepted low and
high, the times of accepted edges in the last second, and when the RATE window ends. Times are AON times of the running
boot, negative before it, since a filter keeps its state across a cold reset by PERST_N. -/
structure PinSt where
  high : Bool
  stuck : Bool
  rate : Bool
  since : Int
  highAt : Int
  edges : List Int
  windowAt : Int
deriving DecidableEq, Repr

/-- The equalisation of one link (R510). -/
structure EqSet where
  ctle : Nat
  dfe : Nat
  post : Nat
  /-- Knob pinned at a bound: bit 0 lower, bit 1 upper, per knob. -/
  pinned : Nat
  crossed : Bool
  uncAt : Nat
deriving DecidableEq, Repr

/-- Background work. -/
structure Bg where
  scrubStep : Nat
  cursor : Tab Nat
  passAt : Tab Nat
  /-- AON time of the last scrub batch. -/
  batchAt : Nat
  inBatch : Bool
  /-- Corrected bursts counted at the last hour boundary, uncorrectable records then, and hours in a row. -/
  ceBase : Nat
  ueBase : Nat
  hoursLow : Nat
  hoursHigh : Nat
  hoursClean : Nat
  /-- Galley-scrub cursor: cells read in the pass. -/
  galCursor : Nat
  galAt : Nat
  /-- Running time of MEMC at the last tracking slot and retrain of each channel, temperatures then, pieces left of
  a retrain, and when a due slot was first deferred. -/
  trackAt : Tab Nat
  retrainAt : Tab Nat
  trackTemp : Tab Nat
  retrainTemp : Tab Nat
  pieces : Tab Nat
  pieceAt : Tab Nat
  deferAt : Tab Nat
  eq : Tab EqSet
  agingG : Nat
  agingD : Nat
  agingLimit : Bool
  telSeq : Nat
  telFrame : Tab Byte
  colVersion : Nat
  colDerived : List Byte
deriving DecidableEq, Repr

/-- A management request relayed to a member and not answered (R517). -/
structure Relay where
  vdm : Bool
  dst : Nat
  at_ : Nat
deriving DecidableEq, Repr

/-- An answer the AMC gives: the binding (VDM or SMBus), a completion code, and data. -/
structure MgmtOut where
  vdm : Bool
  code : Nat
  data : List Byte
deriving DecidableEq, Repr

/-- The states of a firmware device (DSP0267, Table 19.4). -/
inductive PldmSt where
  | idle | learn | readyXfer | download | verify | apply | activate
deriving DecidableEq, Repr

/-- The AMC's protocols. -/
structure Mgmt where
  amcDown : Bool
  eidSmb : Nat
  eidVdm : Nat
  relays : List Relay
  out : List MgmtOut
  pldm : PldmSt
  pldmVdm : Bool
  pldmSize : Nat
  pldmOff : Nat
  /-- How many firmware-data requests the device has originated. -/
  pldmAsked : Nat
deriving DecidableEq, Repr

/-- The test access port (R535, R536, R538). -/
structure Jtag where
  instr : Nat
  bist : Nat
  outOfService : Bool
  perst : Bool
deriving DecidableEq, Repr

/-! ### The galley (chapter 9) -/

/-- A galley queue: the eight values of R272 in their primary and shadow copies (a shadow is written here as the value
whose inverse it stores), the positions' end of the list being 65,536; its class, owner and reserve charges; cells
granted and not linked; and the counts that cross domains with what the other side last received. -/
structure GQueue where
  prim : List Nat
  shad : List Nat
  markValid : Bool
  cls : Nat
  owner : Nat
  clsCharged : Nat
  headroom : List Nat
  aborted : Bool
  trimmed : Bool
  wcount : Nat
  fcount : Nat
  rcount : Nat
  seenW : Nat
  seenF : Nat
deriving DecidableEq, Repr

/-- A cell request that waits (R257). -/
structure GReq where
  q : Nat
  prio : Nat
  at_ : Nat
deriving DecidableEq, Repr

/-- A cell as a READ delivered it. -/
structure GRead where
  q : Nat
  cell : Nat
  words : List W64
  len : Nat
  last : Bool
  poison : Nat
  bad : Bool
deriving DecidableEq, Repr

/-- The galley: metadata entries of 55 stored bits, words of 72 stored bits and correction counts, the queues, the
free list's head, tail and count in both copies, and the charges. -/
structure Gal where
  entries : Tab Nat
  words : Tab Nat
  wcnt : Tab Nat
  queues : Tab GQueue
  freeP : List Nat
  freeS : List Nat
  withdrawn : List Nat
  waiting : List GReq
  resCh : Tab Nat
  clsCh : Tab Nat
  held : Tab Nat
  clsHeld : Tab Nat
  reads : List GRead
deriving DecidableEq, Repr

/-! ### Locks, leases and barriers (chapter 14) -/

/-- Who holds or waits for a lock (14.6): a function's register path, a stream here, or a stream of another member
with its partition number and the request of its lease. -/
inductive Holder where
  | reg (fn : Nat)
  | strm (i : Nat)
  | remote (dev part strm req : Nat)
deriving DecidableEq, Repr

/-- A waiting request: its level, the level asked for since (R412, R420), when it joined, and for a remote one when
its lease was last renewed. -/
structure Waiter where
  who : Holder
  prio : Nat
  want : Nat
  at_ : Nat
  renewAt : Nat
deriving DecidableEq, Repr

/-- A lock (R414): its state 0 to 3, holder, queue, the holder's last renewal, and the time before which an abandoned
lock is not granted (R421). -/
structure LockSt where
  st : Nat
  holder : Option Holder
  waiters : List Waiter
  renewAt : Nat
  notBefore : Nat
deriving DecidableEq, Repr

/-- A lease this device holds or asks for: its request, owner, lock, stream, priority sent, whether it is granted,
whether it has been dropped, the send time of the last renewal answered, and of those not yet answered. -/
structure Lease where
  req : Nat
  dev : Nat
  lock : Nat
  strm : Nat
  prio : Nat
  granted : Bool
  lost : Bool
  answered : Nat
  sents : List Nat
deriving DecidableEq, Repr

/-- An open barrier (R423): its COUNT and the streams that have arrived, first one first. -/
structure Barrier where
  count : Nat
  arrived : List Nat
deriving DecidableEq, Repr

/-- The lock unit: locks by ID, leases, barriers by owner × 64 + BARRIER_ID. -/
structure Locks where
  locks : Tab LockSt
  leases : List Lease
  barriers : Tab Barrier
deriving DecidableEq, Repr

/-! ### Compositor cores and the quoin (chapter 10) -/

/-- A segment a core holds: its stream, task index and number, the task's reads up to its end, and whether it takes
both halves (R290, R292). -/
structure Seg where
  strm : Nat
  task : Nat
  num : Nat
  need : Nat
  whole : Bool
deriving DecidableEq, Repr

/-- A core's halves, and whether the work half's result has been handed on (R291). -/
structure CoreSt where
  work : Option Seg
  fill : Option Seg
  handed : Bool
deriving DecidableEq, Repr

/-- A partition's bucket (R288, R289): rate and burst in effect, level, and whether it refused a read this period. -/
structure PQuo where
  rate : Nat
  burst : Nat
  level : Nat
  refused : Bool
deriving DecidableEq, Repr

/-- A tokenizer profile or a grammar in its slot (R439, R474): loaded or still loading, its owner, NCTX, IMG_LEN, the
pages of the image and those of the contexts. -/
structure TextImg where
  loaded : Bool
  owner : Nat
  nctx : Nat
  len : Nat
  pages : List Nat
  ctxPages : List Nat
deriving DecidableEq, Repr

/-! ### The whole state -/

/-- The state of the block, and the queue of commands that wait, first in, first out. -/
structure State where
  pending : List Instr
  ident : Ident
  clk : Clk
  evt : Evt
  cfg : Cfg
  hif : Hif
  mbx : Tab Mbx
  ops : List Op
  opNext : Nat
  fw : Fw
  mem : Mem
  parts : Tab Part
  pages : Tab PageUse
  tables : Tab Table
  /-- Adapters by owner × 256 + ADAPTER_ID; bindings by owner × 2^32 + handle. -/
  adapters : Tab Adapter
  bindings : Tab Nat
  streams : Tab Stream
  pod : Pod
  pwr : Pwr
  pins : Tab PinSt
  bg : Bg
  mgmt : Mgmt
  jtag : Jtag
  gal : Gal
  locks : Locks
  cores : Tab CoreSt
  quo : Tab PQuo
  profiles : Tab TextImg
  grammars : Tab TextImg
  /-- The stream whose task a text unit runs: Case units 0 to 3, Proof units 4 to 7, Forme units 8 and 9 (R438, R465);
  and the text tasks that wait for a unit, in their order, with the priority last sampled (R412). -/
  units : Tab Nat
  unitWait : List (Nat × Nat)
  /-- The partition each arbiter of R167 served last, by arbiter: 0 galley cells, 1 Case, 2 Proof and 3 Forme units, 4 fill
  halves. -/
  rr : Tab Nat
  /-- Stall clocks of a stream not yet a unit of 64: stream × 8 + cause (R305). -/
  stallRem : Tab Nat
  /-- The model's own: the counter that picks the next free value (log entry 3). -/
  freeCtr : Nat
deriving DecidableEq, Repr

/-! ### Reset -/

/-- An image slot with nothing programmed. -/
def ImgSlot.erased : ImgSlot := ⟨[], false, 0, 0, 0, 0, 0⟩

/-- The machine right after a cold reset whose boot has completed: every register at the value of its Reset column
(chapters 2 to 21), boot registers as of a completed boot, nothing placed, joined or enabled (log entries 1, 2, 8, 9). -/
def State.reset : State where
  pending := []
  ident := { ordering := 1, podId := 0, serial := List.replicate 16 0, uuid := List.replicate 16 0, vendor := 0, firstShip := 0 }
  clk := { aon := 0, timer := 0, due := [] }
  evt :=
    { seq := 0, logs := [], staged := [], boot := 1, ring := [], cur := 0, bucket := 65536, acc := 0, rowFilter := [] }
  cfg :=
    { staged := [], committed := [], effective := [], cnt := [], commitAt := [], busy := [], refStaged := [], refCommitted := []
      live := [], result := [], seq := [], mismatch := [], fwRam := [], mgmtStaged := [], mgmtCommitted := [], mgmtEff := [] }
  hif :=
    { vfEnable := false, numVfs := 0, dlActive := false, speed := 0, width := 0, reversed := false, aspmL1 := false
      recovery := 0, pcieReady := true, d3 := [], held := [], atsEnable := [], ats := [], atsAsked := [], barErr := []
      stalled := [], lckResult := [], snap := [], writes := [], bus := [] }
  mbx := []
  ops := []
  opNext := 0
  fw :=
    { cpDown := false, recovery := false, running := 0, marked := 0, fallback := false
      slotA := { ImgSlot.erased with valid := true, oil := 0x100 }, slotB := ImgSlot.erased, sess := none, rollback := 0
      revoked := [], keyHash := [], restart := none, bootPhase := 7, haltCause := 0, slotOutA := 1, slotOutB := 0, bistBad := 0
      readyUs := 0, doneUs := 0, chFail := 0, initCursor := 0, initDone := false }
  mem :=
    { cells := [], wcb := [], reorder := [], ceBack := [], chState := [], mr4Temp := [], mr4Mult := [], ceRun := []
      ceLast := [], dropRun := [], pmax := 3932160, spread := 0, mapped := 0, recorded := 0, sweep := none, burstCap := 0
      issued := [], hellbox := [], marginRes := [], marginOp := none, marginAt := [], refreshAt := [] }
  parts := []
  pages := []
  tables := []
  adapters := []
  bindings := []
  streams := []
  pod :=
    { joined := false, leaving := none, nx := 1, ny := 1, nz := 1, key := 0, members := 0, lost := 0, nextReq := 0
      mseqTx := [], mseqRx := [], outbox := [], inbox := [], transit := [], links := [], nextTrain := 0, runUnroutable := 0
      runUnknown := 0, owes := [], ownerReqs := [], grants := [] }
  pwr :=
    { off := false, dom := [], waking := [], demandAt := [], dozeAt := 0, permit := 2, coreClk := 1000, clkWhy := 3
      avsCap := 1400, vdd := 620, vddOp := 620
      avs0 := { fault := false, fails := 0, due := 0, conf := 0 }, avs1 := { fault := false, fails := 0, due := 0, conf := 0 }
      stackT := 0, logicT := 0, trip := false, stackTs := [], step := 0, thermtrip := false, loops := [], dcoCode := []
      dcoErr := [], dcoLow := [], dcoFast := [], forceIdle := false, globalStop := false, inState := [], ran := [] }
  pins := []
  bg :=
    { scrubStep := 0, cursor := [], passAt := [], batchAt := 0, inBatch := false, ceBase := 0, ueBase := 0, hoursLow := 0
      hoursHigh := 0, hoursClean := 0, galCursor := 0, galAt := 0, trackAt := [], retrainAt := [], trackTemp := []
      retrainTemp := [], pieces := [], pieceAt := [], deferAt := [], eq := [], agingG := 0, agingD := 0, agingLimit := false
      telSeq := 0, telFrame := [], colVersion := 0
      colDerived := [0, 0, 0x3C, 0, 0x40, 0] ++ List.replicate 26 0 ++ [1, 0, 0, 0] ++ List.replicate 24 0 }
  mgmt :=
    { amcDown := false, eidSmb := 0, eidVdm := 0, relays := [], out := [], pldm := .idle, pldmVdm := false
      pldmSize := 0, pldmOff := 0, pldmAsked := 0 }
  jtag := { instr := 1, bist := 0, outOfService := false, perst := false }
  gal :=
    { entries := [], words := [], wcnt := [], queues := [], freeP := [0, 65535, 65536], freeS := [0, 65535, 65536]
      withdrawn := [], waiting := [], resCh := [], clsCh := [], held := [], clsHeld := [], reads := [] }
  locks := { locks := [], leases := [], barriers := [] }
  cores := []
  quo := []
  profiles := []
  grammars := []
  units := []
  unitWait := []
  rr := []
  stallRem := []
  freeCtr := 0

end Sys2Proof.Machine
end

