-- ==== Sys2Proof/Machine/Ops.lean ====
section
/-! DEFINITION. Named operations that every family uses: time, counters, the event sequencer (R33, R34, R496, R499),
free values, the registers of configuration and their resets, masks and boundaries (chapter 5), and the coverage
images and checks of R148 to R150. -/

namespace Sys2Proof.Machine

/-! ### Time -/

/-- AON periods in a microsecond, a millisecond and a second (R41). -/
def usT : Nat := 25
def msT : Nat := 25000
def secT : Nat := 25000000

/-- The periodic events, by number. -/
inductive Per where
  | quoin | epoch | temp | throttle | avs | mr4 (c r : Nat) | trim (d : Nat) | ceSum (c : Nat) | drop (c : Nat)
  | scrub | scrubRate | eq (l : Nat) | aging | tele | pod | group (c : Nat) | renew
deriving DecidableEq, Repr

/-- The number of a periodic event in `Clk.due`. -/
def Per.num : Per → Nat
  | .quoin => 0 | .epoch => 1 | .temp => 2 | .throttle => 3 | .avs => 4 | .scrub => 5 | .scrubRate => 6
  | .aging => 7 | .tele => 8 | .pod => 9
  | .trim d => 16 + d
  | .eq l => 32 + l
  | .ceSum c => 64 + c
  | .drop c => 128 + c
  | .group c => 192 + c
  | .renew => 10
  | .mr4 c r => 320 + 4 * c + r

/-- Whether a periodic event is due. -/
def isDue (s : State) (p : Per) : Bool := decide (lkD s.clk.due p.num 0 ≤ s.clk.aon)

/-- The event has happened; it is next due at the following multiple of its period (R559). -/
def setDue (s : State) (p : Per) (period : Nat) : State :=
  { s with clk := { s.clk with due := put s.clk.due p.num ((s.clk.aon / period + 1) * period) } }

/-- The event is next due this long after now. -/
def setDueIn (s : State) (p : Per) (after : Nat) : State :=
  { s with clk := { s.clk with due := put s.clk.due p.num (s.clk.aon + after) } }

/-! ### Register keys and counters -/

/-- The key of a register of a function's BAR0. -/
def rk (f off : Nat) : Nat := f * 65536 + off
/-- The key of a register of PF0's BAR2. -/
def rk2 (off : Nat) : Nat := 2 ^ 24 + off

/-- A live counter rises (R140). -/
def cntAdd (s : State) (k n : Nat) : State :=
  { s with cfg := { s.cfg with cnt := updD s.cfg.cnt k 0 (· + n) } }

/-- The counters behind two fields of the telemetry frame (Table 19.7): tasks completed, bytes delivered by gathers. -/
def telTasks : Nat := rk2 0xAFF78
def telBytes : Nat := rk2 0xAFF80

/-- The value of a counter. -/
def cnt (s : State) (k : Nat) : Nat := lkD s.cfg.cnt k 0

/-- A free byte, word or doubleword, and the state that has used it up (log entry 3). -/
def freshByte (s : State) : Byte × State := (Config.freeByte s.freeCtr, { s with freeCtr := s.freeCtr + 1 })
def freshBytes : Nat → State → List Byte × State
  | 0, s => ([], s)
  | n + 1, s =>
    let (b, s) := freshByte s
    let (bs, s) := freshBytes n s
    (b :: bs, s)

/-! ### The event sequencer -/

/-- The log of a partition number (32: the driver domain), and the global log. -/
def globalLog : Nat := 33

/-- The partition number of a function: VF n is partition n − 1, PF0 the driver domain (R69). -/
def partOfFn (f : Nat) : Nat := if f = 0 then 32 else f - 1
/-- The function of a partition number. -/
def fnOfPart (p : Nat) : Nat := if p = 32 then 0 else p + 1

/-- An empty log. -/
def LogSt.empty : LogSt := ⟨0, 0, [], 0, 0, 0, 0, 0⟩

/-- Slots of a log's window (R497). -/
def logSlots (log : Nat) : Nat := if log = globalLog then 1020 else 252

/-- Records the staging buffer holds (1.7.3). -/
def stagingSize : Nat := 256

/-- Whether a record can be staged: a place in the buffer, and for a global record a token of the wear bucket, which
it takes as it is staged (R499, R513). -/
def canStage (e : Evt) (g : Bool) : Bool := decide (e.staged.length < stagingSize) && (!g || e.bucket != 0)

/-- One record posted to one log: stamped with SEQ and LIDX, placed in its window, and staged for NOR if global;
or, where it cannot be staged, counted as lost (R33, R496, R497, R499). -/
def postOne (s : State) (log : Nat) (r : EvRec) : State :=
  let e := s.evt
  let l := lkD e.logs log LogSt.empty
  let g := log == globalLog
  let x : EvStored :=
    { seq := e.seq, lidx := l.posted % 2 ^ 32, global := g, boot := if g then e.boot % 4096 else 0,
      time := s.clk.aon, device := s.ident.podId, r := r }
  if canStage e g then
    { s with evt := { e with
        seq := e.seq + 1
        logs := put e.logs log { l with posted := l.posted + 1, slots := put l.slots (l.posted % logSlots log) x }
        staged := if g then e.staged ++ [x] else e.staged
        bucket := if g then e.bucket - 1 else e.bucket } }
  else
    { s with evt := { e with
        seq := e.seq + 1
        logs := put e.logs log { l with
          posted := l.posted + 1, lost := l.lost + 1, lossCnt := l.lossCnt + 1
          lossFirst := if l.lossCnt = 0 then l.posted else l.lossFirst
          lossFirstSeq := if l.lossCnt = 0 then e.seq else l.lossFirstSeq
          lossLast := l.posted, lossLastSeq := e.seq } } }

/-- One event posts a record to each of its logs, in the order of R34: the caller names them in rising order. -/
def post (s : State) (logs : List Nat) (r : EvRec) : State := logs.foldl (fun s l => postOne s l r) s

/-- A record of a type with its severity and payload, of no stream and no task. -/
def evRec (type sev part : Nat) (p0 p1 p2 p3 : Nat) : EvRec :=
  ⟨BitVec.ofNat 16 type, sev, part, 0x3F, 0, 0, BitVec.ofNat 64 p0, BitVec.ofNat 64 p1, BitVec.ofNat 64 p2,
    BitVec.ofNat 64 p3⟩

/-- A global record of the device. -/
def postG (s : State) (type sev p0 p1 p2 p3 : Nat) : State :=
  postOne s globalLog (evRec type sev 63 p0 p1 p2 p3)

/-- A record to the log of a partition number. -/
def postP (s : State) (part type sev p0 p1 p2 p3 : Nat) : State :=
  postOne s part (evRec type sev part p0 p1 p2 p3)

/-- The 64 bytes of a record (Table 18.7). -/
def evBytes (x : EvStored) : List Byte :=
  leBytes 8 x.seq ++ leBytes 4 x.lidx ++
  leBytes 4 (x.r.type.toNat + 2 ^ 16 * (x.r.sev % 8) + 2 ^ 19 * b2n x.global + 2 ^ 20 * (x.boot % 4096)) ++
  leBytes 8 x.time ++
  leBytes 4 (x.r.part % 64 + 2 ^ 8 * (x.r.stream % 64) + 2 ^ 16 * (x.device % 64) + 2 ^ 24 * x.r.taskType.toNat) ++
  leBytes 4 x.r.tag.toNat ++ leBytes 8 x.r.p0.toNat ++ leBytes 8 x.r.p1.toNat ++ leBytes 8 x.r.p2.toNat ++
  leBytes 8 x.r.p3.toNat

/-! ### Configuration registers -/

/-- The Applies-at boundaries (Table 0.5); `ring` marks the registers of R85. -/
inductive Applies where
  | immediate | task | quoin | epoch | linkFrame | ring
deriving DecidableEq, Repr

/-- What a register table says of an RW register: its Reset value, its defined bits and its boundary. -/
structure RegInfo where
  reset : W32
  mask : W32
  applies : Applies
deriving DecidableEq, Repr

/-- The configuration registers of a stream slot by slot offset (Tables 3.8 and 10.4). A Reset of "—" is zero (log
entry 2). -/
def slotReg (o : Nat) : Option RegInfo :=
  match o with
  | 0x08 => some ⟨0, 0x7, .task⟩
  | 0x0C => some ⟨4, 0x7, .epoch⟩
  | 0x10 => some ⟨0, 0xFFFFF000, .ring⟩
  | 0x14 => some ⟨0, 0xFFFFFFFF, .ring⟩
  | 0x18 => some ⟨4, 0x1F, .ring⟩
  | 0x1C => some ⟨0, 0xFFFFF000, .ring⟩
  | 0x20 => some ⟨0, 0xFFFFFFFF, .ring⟩
  | 0x2C => some ⟨0x32, 0x3FF, .task⟩
  | 0x30 => some ⟨0x00030040, 0x000F13FF, .task⟩
  | 0x34 => some ⟨0x14D514D5, 0xFFFF1FFF, .quoin⟩
  | 0x38 => some ⟨0, 0x01FF03FF, .task⟩
  | 0x3C => some ⟨0xFFFFFFFF, 0xFFFFFFFF, .task⟩
  | _ => none

/-- The slot offsets a region covers, in image order (Table 5.3). -/
def slotOffs : List Nat := [0x08, 0x0C, 0x10, 0x14, 0x18, 0x1C, 0x20, 0x2C, 0x30, 0x34, 0x38, 0x3C]

/-- The reset map of MEM_STRIPE (R196). -/
def stripeReset (st : Nat) : Nat := 8 * (st % 8) + (st / 8) % 8 + 64 * (st / 64)

/-- The RW registers of PF0 BAR2 (R163): Tables 5.9, 7.6, 2.11, 13.10 and 9.6. -/
def bar2Reg (o : Nat) : Option RegInfo :=
  if o % 4 ≠ 0 then none
  else if o = 0x10000 then some ⟨0, 1, .epoch⟩
  else if 0x20000 ≤ o ∧ o < 0x20400 then some ⟨BitVec.ofNat 32 (stripeReset ((o - 0x20000) / 4)), 0xFF, .quoin⟩
  else if 0x21000 ≤ o ∧ o < 0x22000 then
    (if (o - 0x21000) % 0x40 = 0 then some ⟨0, 0x1FF, .quoin⟩
     else if (o - 0x21000) % 0x40 < 0x28 then some ⟨0, 0xFFFF, .quoin⟩ else none)
  else if o = 0x30008 then some ⟨0x19, 0xFFF, .quoin⟩
  else if o = 0x3000C then some ⟨0x3E8, 0xFFFFFF, .quoin⟩
  else if o = 0x30010 then some ⟨0x3E8, 0xFFFF, .quoin⟩
  else if 0x30080 ≤ o ∧ o < 0x30098 then some ⟨0, 0x80000FFF, .immediate⟩
  else if o = 0x40020 then some ⟨5, 0x7F, .task⟩
  else if o = 0x40024 then some ⟨0xA, 0x3FFF, .linkFrame⟩
  else if o = 0x40028 then some ⟨0x14, 0x3FF, .quoin⟩
  else if 0x41000 ≤ o ∧ o < 0x42000 then
    (if o % 0x100 = 0x80 then some ⟨0, 0xF, .linkFrame⟩
     else if 0x84 ≤ o % 0x100 ∧ o % 0x100 < 0x94 then some ⟨0, 0xFFFFFFFF, .linkFrame⟩ else none)
  else if o = 0x50008 then some ⟨0, 1, .quoin⟩
  else none

/-- The offsets of the RW registers of PF0 BAR2 in ascending order (Table 5.3). -/
def bar2Offs : List Nat :=
  [0x10000] ++ (List.range 256).map (fun i => 0x20000 + 4 * i) ++
  (List.range 64).flatMap (fun c => (List.range 10).map (fun w => 0x21000 + 0x40 * c + 4 * w)) ++
  [0x30008, 0x3000C, 0x30010] ++ (List.range 6).map (fun d => 0x30080 + 4 * d) ++
  [0x40020, 0x40024, 0x40028] ++
  (List.range 16).flatMap (fun l => (List.range 5).map (fun w => 0x41080 + 0x100 * l + 4 * w)) ++ [0x50008]

/-- The configuration register at an offset of a function. -/
def regInfo (bar2 : Bool) (off : Nat) : Option RegInfo :=
  if bar2 then bar2Reg off
  else if 0x2000 ≤ off ∧ off < 0x3000 then slotReg ((off - 0x2000) % 0x40) else none

/-- The key of a register. -/
def regKey (f : Nat) (bar2 : Bool) (off : Nat) : Nat := if bar2 then rk2 off else rk f off

/-- The key of a slot register. -/
def slotKey (f k o : Nat) : Nat := rk f (0x2000 + 0x40 * k + o)

/-- The Reset value of a register by key. -/
def keyReset (k : Nat) : W32 :=
  let r := if 2 ^ 24 ≤ k then bar2Reg (k - 2 ^ 24)
    else if 0x2000 ≤ k % 65536 ∧ k % 65536 < 0x3000 then slotReg ((k % 65536 - 0x2000) % 0x40) else none
  match r with
  | some i => i.reset
  | none => 0

/-- The staged, committed and effective values of a register by key. -/
def staged (s : State) (k : Nat) : W32 := lkD s.cfg.staged k (keyReset k)
def committed (s : State) (k : Nat) : W32 := lkD s.cfg.committed k (keyReset k)
def effective (s : State) (k : Nat) : W32 := lkD s.cfg.effective k (keyReset k)

/-- Write the staged, committed or effective value. -/
def setStaged (s : State) (k : Nat) (v : W32) : State :=
  { s with cfg := { s.cfg with staged := setD s.cfg.staged k v (keyReset k) } }
def setCommitted (s : State) (k : Nat) (v : W32) : State :=
  { s with cfg := { s.cfg with committed := setD s.cfg.committed k v (keyReset k) } }
def setEffective (s : State) (k : Nat) (v : W32) : State :=
  { s with cfg := { s.cfg with effective := setD s.cfg.effective k v (keyReset k) } }

/-- The effective value of a slot register of a stream's slot. -/
def slotEff (s : State) (f k o : Nat) : Nat := (effective s (slotKey f k o)).toNat
/-- The effective value of a BAR2 register. -/
def bar2Eff (s : State) (o : Nat) : Nat := (effective s (rk2 o)).toNat

/-! ### Regions (Tables 5.2, 5.3, 5.10) -/

/-- The region a function commits: the device region for PF0, its partition region for a VF. -/
def regionOfFn (f : Nat) : Nat := if f = 0 then 1 else 2 + f
/-- The function whose slots a device or partition region covers. -/
def fnOfRegion (r : Nat) : Nat := if r = 1 then 0 else r - 2

/-- The registers a device or partition region covers, in image order, by key. -/
def regionKeys (r : Nat) : List Nat :=
  (if r = 1 then bar2Offs.map rk2 else []) ++
  (List.range 64).flatMap (fun k => slotOffs.map (fun o => slotKey (fnOfRegion r) k o))

/-- The covered bits of a register (Table 5.3): STR_CTRL is covered in bit 2 only. -/
def keyMask (k : Nat) : W32 :=
  if 2 ^ 24 ≤ k then (match bar2Reg (k - 2 ^ 24) with | some i => i.mask | none => 0)
  else
    let o := (k % 65536 - 0x2000) % 0x40
    if o = 0x08 then 4 else (match slotReg o with | some i => i.mask | none => 0)

/-- The masks of the management words (Table 5.10). -/
def mgmtMask (w : Nat) : Nat :=
  ([0x3, 0x3FF, 0x3FF, 0x3FFF, 0x7F, 0x7FF, 0x7FF, 0x7, 0x7, 0xFFFF, 0xFFFF, 0x3FF, 0x7F, 0x1FF, 0x3FF, 0x1F,
    0x1F, 0x3F, 0xF, 0xFF, 0x3FF, 0x3F] : List Nat).getD w 0

/-- The CRC-32C over a run of zero bytes, continued. -/
def crcZeros (c : W32) : Nat → W32
  | 0 => c
  | n + 1 => crcZeros (crcByte c 0) n

/-- Continue the CRC over one covered word: (value xor reset) and mask (R149). -/
def crcWord (c : W32) (v : W32) : W32 := crcRun c (leBytes 4 v.toNat)

/-- The check value of a device or partition region whose registers read by `val` (R148, R149); a slot that is not
valid contributes zero words, since its values are at Reset (R150). -/
def imageCheck (val : Nat → W32) (r : Nat) : W32 :=
  (regionKeys r).foldl (fun c k => crcWord c ((val k ^^^ keyReset k) &&& keyMask k))
    (crcRun 0xFFFFFFFF#32 (leBytes 4 r)) ^^^ 0xFFFFFFFF#32

/-- The defaults of management words 0 to 21 (Tables 2.12 and 19.6), which the Colophon records as factory bounds. -/
def mgmtDefault (w : Nat) : Nat := mgmtDefaults.getD w 0
where
  /-- The default column, in word order. -/
  mgmtDefaults : List Nat := [3, 500, 800, 1000, 95, 400, 1400, 0, 7, 64, 8, 100, 10, 32, 10, 0, 31, 63, 15, 0xFF, 10, 40]

/-- The management word that its loop uses: the value in effect, or the factory bound while a mismatch of the
management region stands (R30). -/
def mgmt (s : State) (w : Nat) : Nat :=
  if lkD s.cfg.mismatch 2 false then mgmtDefault w else lkD s.cfg.mgmtEff w (mgmtDefault w)
/-- The committed management word. -/
def mgmtCommitted (s : State) (w : Nat) : Nat := lkD s.cfg.mgmtCommitted w (mgmtDefault w)

/-- The check value of the management region. -/
def mgmtCheck (val : Nat → Nat) : W32 :=
  crcZeros ((List.range 22).foldl (fun c w => crcWord c (BitVec.ofNat 32 ((val w ^^^ mgmtDefault w) &&& mgmtMask w)))
    (crcRun 0xFFFFFFFF#32 (leBytes 4 2))) (4 * 234) ^^^ 0xFFFFFFFF#32

/-- The CRC over the words of the configuration RAM that differ from zero, with the zero words between them. -/
def fwRun (c : W32) (i : Nat) : Tab W32 → W32
  | [] => crcZeros c (4 * (65536 - i))
  | (k, v) :: t => fwRun (crcWord (crcZeros c (4 * (k - i))) v) (k + 1) t

/-- The check value of the firmware region. -/
def fwCheck (ram : Tab W32) : W32 := fwRun (crcRun 0xFFFFFFFF#32 (leBytes 4 0)) 0 ram ^^^ 0xFFFFFFFF#32

/-- The check value of a region's reset image: its prefix followed by zero bytes (R149). -/
def resetCheck (r : Nat) : W32 :=
  crcZeros (crcRun 0xFFFFFFFF#32 (leBytes 4 r))
    (if r = 0 then 4 * 65536 else if r = 2 then 4 * 256 else 4 * (regionKeys r).length) ^^^ 0xFFFFFFFF#32

/-- The check value of a region's committed copy as it stands. -/
def committedCheck (s : State) (r : Nat) : W32 :=
  if r = 0 then fwCheck s.cfg.fwRam
  else if r = 2 then mgmtCheck (mgmtCommitted s)
  else imageCheck (committed s) r

/-- The check value of the staged copy of a device or partition region (CFG_CRC_STAGED). -/
def stagedCheck (s : State) (r : Nat) : W32 := imageCheck (staged s) r

/-- References and the last pass of a region. -/
def refStaged (s : State) (r : Nat) : W32 := lkD s.cfg.refStaged r (resetCheck r)
def refCommitted (s : State) (r : Nat) : W32 := lkD s.cfg.refCommitted r (resetCheck r)
def crcLive (s : State) (r : Nat) : W32 := lkD s.cfg.live r (resetCheck r)
def setRefStaged (s : State) (r : Nat) (v : W32) : State :=
  { s with cfg := { s.cfg with refStaged := put s.cfg.refStaged r v } }
def setRefCommitted (s : State) (r : Nat) (v : W32) : State :=
  { s with cfg := { s.cfg with refCommitted := put s.cfg.refCommitted r v } }
def setLive (s : State) (r : Nat) (v : W32) : State :=
  { s with cfg := { s.cfg with live := put s.cfg.live r v } }

/-- Whether a mismatch of a region stands (R155). -/
def mismatch (s : State) (r : Nat) : Bool := lkD s.cfg.mismatch r false

/-! ### Streams, partitions and functions -/

/-- A text state with nothing held (R466). -/
def TextSt.empty : TextSt := ⟨[], [], false, 0, [], [], none, 0, [], false, false⟩

/-- A stream that is not assigned. -/
def Stream.idle : Stream :=
  ⟨none, 0, 0, 0, false, false, none, [], none, false, 5333, 0, TextSt.empty⟩

/-- A stream by ID. -/
def stream (s : State) (i : Nat) : Stream := lkD s.streams i Stream.idle
/-- Replace a stream. -/
def setStream (s : State) (i : Nat) (x : Stream) : State := { s with streams := put s.streams i x }

/-- The stream in slot k of function f (R75). -/
def slotStream (s : State) (f k : Nat) : Option Nat :=
  (s.streams.find? (fun e => e.2.slot == some (f, k))).map (·.1)

/-- An absent partition's quota block. -/
def Quota.none : Quota := ⟨0, 0, 0, 0, 0, 0, 0, 0, []⟩
/-- An absent partition. -/
def Part.none : Part := ⟨.absent, Quota.none, 0⟩
/-- A partition by number. -/
def part (s : State) (p : Nat) : Part := lkD s.parts p Part.none
/-- Replace a partition. -/
def setPart (s : State) (p : Nat) (x : Part) : State := { s with parts := put s.parts p x }

/-- The function and partition number of a stream. -/
def streamFn (s : State) (i : Nat) : Nat := match (stream s i).slot with | some (f, _) => f | none => 0
def streamPart (s : State) (i : Nat) : Nat := partOfFn (streamFn s i)
/-- The effective value of a stream's slot register. -/
def strEff (s : State) (i o : Nat) : Nat :=
  match (stream s i).slot with
  | some (f, k) => slotEff s f k o
  | none => (match slotReg o with | some r => r.reset.toNat | none => 0)

/-- Usable 64 KiB pages by ordering code (Table 0.7), DTT pages (R175) and repair pages (R170). -/
def usablePages (s : State) : Nat := if s.ident.ordering = 2 then 5898240 else 3932160
def dttPages (s : State) : Nat := usablePages s * 8 / 65536
def repairPages : Nat := 1024

/-- The use of a device page: the DTT lies in the lowest pages and the repair reserve after it (log entry 10). -/
def pageUse (s : State) (p : Nat) : PageUse :=
  lkD s.pages p (if p < dttPages s then .dtt else if p < dttPages s + repairPages then .repair else .free)
/-- Give a page a use. -/
def setPage (s : State) (p : Nat) (u : PageUse) : State := { s with pages := put s.pages p u }

/-! ### Rotating order (R167) -/

/-- CFG_ARB_CTRL.PART_RR. -/
def partRr (s : State) : Bool := bitOf (bar2Eff s 0x10000) 0

/-- The place of an owner in an arbiter's rotation: partitions after the one served last, then the driver domain, then the
device. -/
def rrKey (s : State) (arb own : Nat) : Nat :=
  if own < 32 then (own + 31 - lkD s.rr arb 31 % 32) % 32 else own

/-- An arbiter has served an owner. -/
def rrServe (s : State) (arb own : Nat) : State := if own < 32 then { s with rr := put s.rr arb own } else s

/-! ### Power, stops and admission -/

/-- The condition of a fast domain: 0 running, 1 gated, 2 stopped, 3 powered down. -/
def dom (s : State) (d : Nat) : Nat := lkD s.pwr.dom d 0

/-- The device state: the shallowest of any fast domain; MEMC alone tells DOZE from DEEP (R46). -/
def devState (s : State) : Nat :=
  let l := (List.range 6).map (dom s)
  if l.contains 0 then 0 else if l.contains 1 then 1 else if dom s 1 = 3 then 3 else 2

/-- Every data-plane engine stands still: GLOBAL_STOP_N, THERMTRIP_N, OFF, a boundary-scan instruction that takes the
device out of service, or a boot that has not readied it (R52, R60, R524, R533, R538). -/
def dpStop (s : State) : Bool :=
  s.pwr.globalStop || s.pwr.thermtrip || s.pwr.off || s.jtag.outOfService || s.fw.haltCause != 0 || decide (s.fw.bootPhase < 4)

/-- A domain runs and its engines may issue work. -/
def runs (s : State) (d : Nat) : Bool := dom s d == 0 && !dpStop s

/-- The domains a task type needs besides the HOSTIF engines (R65); LINK is waited for by the exchanges themselves. -/
def typeDomains (type : Nat) : List Nat :=
  if type = 1 ∨ type = 2 ∨ type = 3 ∨ type = 4 then [0, 1]
  else if type = 5 ∨ type = 6 ∨ type = 7 then [4, 1]
  else if type = 8 ∨ type = 10 then [1]
  else if type = 9 then [0] else []

/-- A task of this type may go on: its domains run (R55). -/
def engineOk (s : State) (type : Nat) : Bool := runs s 3 && (typeDomains type).all (runs s)

/-- EVT_STOP_WHY of a function (R493). -/
def stopWhy (s : State) (f : Nat) : Nat :=
  b2n (f != 0 && mismatch s (2 + f)) + 2 * b2n (mismatch s 0 || mismatch s 1) + 4 * b2n s.pwr.forceIdle +
  8 * b2n s.pwr.globalStop + 16 * b2n (s.pwr.step == 3) + 32 * b2n (lkD s.hif.d3 f false) +
  64 * b2n (f != 0 && ((part s (f - 1)).st == .wiping || (part s (f - 1)).st == .destroying)) + 128 * b2n s.pwr.thermtrip

/-- Admission on a function's streams is open: no reason to stop stands, and none has stood since the last quoin
period (R30, R52, R72, R155). -/
def admitOpen (s : State) (f : Nat) : Bool := stopWhy s f == 0 && !lkD s.hif.held f false && !dpStop s

/-- Admission of these functions waits for a quoin period after the cause ends. -/
def hold (s : State) (fs : List Nat) : State :=
  { s with hif := { s.hif with held := fs.foldl (fun t f => put t f true) s.hif.held } }

/-- Every function. -/
def allFns : List Nat := List.range 33

/-- Whether a function exists: PF0, or a VF that VF Enable gives (R97). -/
def fnExists (s : State) (f : Nat) : Bool := f == 0 || (s.hif.vfEnable && decide (f ≤ s.hif.numVfs))

/-- The device runs a boot that has made it ready: the BARs of a function serve accesses (R98, R531, R532). -/
def barServed (s : State) (f : Nat) : Bool :=
  s.hif.pcieReady && !s.pwr.off && !s.jtag.outOfService && !s.jtag.perst && fnExists s f

end Sys2Proof.Machine
end

