-- ==== Sys2Proof/Machine/MemOps.lean ====
section
/-! DEFINITION. The memory tier (chapter 7): from a device-physical address to a channel and a cell (R195 to R198),
the check bytes and the poison map beside the data (R199 to R202), the write-combining buffer (R207, R208), reads
with their counts and records (R203), and the moves and zeroing of whole pages. -/

namespace Sys2Proof.Machine

/-! ### From address to cell -/

/-- Bits of a 64-bit mask. -/
def maskBit (m : W64) (c : Nat) : Bool := m.getLsbD c

/-- The stripe of a slug address: the XOR of its bytes (R195). -/
def stripeOf (a : Nat) : Nat :=
  (a % 256) ^^^ (a / 256 % 256) ^^^ (a / 65536 % 256) ^^^ (a / 2 ^ 24 % 128)

/-- Where a slug lies: its channel, its index within the channel, and whether the channel serves it. -/
inductive SlugLoc where
  /-- Served at this channel and usable slug index. -/
  | at_ (ch l : Nat)
  /-- The channel is FAILED: reads are poisoned, writes dropped (R214). -/
  | failed (ch : Nat)
  /-- The stripe names a MAPPED_OUT channel: reads uncorrectable, writes dropped (R218). -/
  | gone (ch : Nat)
deriving DecidableEq, Repr

/-- Channels that are out, counting one a sweep is emptying. -/
def outMask (s : State) : W64 :=
  match s.mem.sweep with
  | some w => s.mem.mapped ||| (1#64 <<< w.channel)
  | none => s.mem.mapped

/-- The live channels in ascending order, and the number out. -/
def liveChannels (s : State) : List Nat := (List.range 64).filter (fun c => !maskBit (outMask s) c)
def outCount (s : State) : Nat := 64 - (liveChannels s).length

/-- pmax with m channels out (R215). -/
def pmaxFor (s : State) (m : Nat) : Nat := usablePages s * (64 - m) / 64

/-- The effective stripe entry (R196). -/
def stripeEnt (s : State) (st : Nat) : Nat := bar2Eff s (0x20000 + 4 * st)

/-- The spread location of stripe st of page P (R197). -/
def spreadLoc (s : State) (p st : Nat) : SlugLoc :=
  let live := liveChannels s
  let m := outCount s
  let k := ((List.range st).filter (fun i => s.mem.spread.getLsbD i)).length
  let q := p * 4 * m + k
  let n := max live.length 1
  .at_ (live.getD (q % n) 0) (4 * pmaxFor s m + q / n)

/-- A stripe's own location: channel and slot of its entry, by the channel's state. -/
def stripeLoc (s : State) (p st : Nat) : SlugLoc :=
  let e := stripeEnt s st
  let ch := e % 64
  match lkD s.mem.chState ch 0 with
  | 1 => .failed ch
  | 3 => .gone ch
  | _ => .at_ ch (4 * p + e / 64 % 4)

/-- Where slug i of page P lies (R197, R214, R216, R218). -/
def slugLoc (s : State) (p i : Nat) : SlugLoc :=
  let st := stripeOf (p * 256 + i)
  if s.mem.spread.getLsbD st then
    match s.mem.sweep with
    | some w =>
      if p < w.cursor then spreadLoc s p st
      else if w.discard then .failed w.channel
      else .at_ w.channel (4 * p + stripeEnt s st / 64 % 4)
    | none => spreadLoc s p st
  else stripeLoc s p st

/-- The raw data slug of usable index l, and the raw check slug of its group (R198). -/
def rawSlug (l : Nat) : Nat := 16 * (l / 15) + l % 15
def rawCheck (l : Nat) : Nat := 16 * (l / 15) + 15

/-- The cell key of byte b of a raw slug of a channel. -/
def cellKey (ch x b : Nat) : Nat := (ch * 2 ^ 25 + x) * 256 + b

/-- The DRAM cell of a raw slug: rank, row, bank index and column unit (R198). -/
def dramCell (x : Nat) : Nat × Nat × Nat × Nat :=
  (x / 8388608, x % 8388608 / 128, x % 8388608 / 32 % 4, x % 8388608 % 32)

/-! ### Bursts -/

/-- A burst by channel, usable slug index and number j (R194). -/
structure BRef where
  ch : Nat
  l : Nat
  j : Nat
deriving DecidableEq, Repr

/-- The cell key of the first byte of a burst; a burst's own key is this over 64. -/
def BRef.base (b : BRef) : Nat := cellKey b.ch (rawSlug b.l) (64 * b.j)
def BRef.key (b : BRef) : Nat := b.base / 64

/-- The cell key of the first of a burst's four check bytes (R199). -/
def BRef.check (b : BRef) : Nat :=
  cellKey b.ch (rawCheck b.l) (64 * (b.l % 15 / 4) + 16 * (b.l % 15 % 4) + 4 * b.j)

/-- The cell key and the bit of a burst's poison bit in copy A (0) or copy B (1) (R199). -/
def BRef.poisonAt (b : BRef) (copy : Nat) : Nat × Nat :=
  let n := 4 * (b.l % 15) + b.j
  (cellKey b.ch (rawCheck b.l) (192 + 48 + 8 * copy + n / 8), n % 8)

/-- One byte of the DRAM; a location nothing has written holds the zero of the init sweep (R529). -/
def cell (s : State) (k : Nat) : Byte := lkD s.mem.cells k 0

/-- Bytes [k, k + n) of the DRAM. -/
def cellsAt (s : State) (k n : Nat) : List Byte := (List.range n).map (fun i => cell s (k + i))

/-- Store one byte, keeping the canonical form. -/
def setCell (s : State) (k : Nat) (b : Byte) : State :=
  { s with mem := { s.mem with cells := setD s.mem.cells k b 0 } }

/-- Store bytes from key k on. -/
def setCells (s : State) (k : Nat) : List Byte → State
  | [] => s
  | b :: t => setCells (setCell s k b) (k + 1) t

/-- The bit of one poison copy of a burst. -/
def poisonBit (s : State) (b : BRef) (copy : Nat) : Bool :=
  let (k, i) := b.poisonAt copy
  (cell s k).getLsbD i

/-- Set one bit of a byte. -/
def byteBit (x : Byte) (i : Nat) (v : Bool) : Byte := if v then x ||| (1#8 <<< i) else x &&& ~~~(1#8 <<< i)

/-- Set both poison bits of a burst to a value (R207). -/
def setPoison (s : State) (b : BRef) (v : Bool) : State :=
  let (k0, i0) := b.poisonAt 0
  let s := setCell s k0 (byteBit (cell s k0) i0 v)
  let (k1, i1) := b.poisonAt 1
  setCell s k1 (byteBit (cell s k1) i1 v)

/-- How a burst reads (R200, R202). -/
inductive BKind where
  | clean
  | corrected
  | uncorrectable
  | poisoned
deriving DecidableEq, Repr

/-- A burst as the channel delivers it: its bytes, and whether it is marked poisoned. -/
structure BRead where
  kind : BKind
  bytes : List Byte
deriving DecidableEq, Repr

/-- Whether a read is delivered marked as poisoned (R202). -/
def BKind.bad : BKind → Bool
  | .clean => false
  | .corrected => false
  | .uncorrectable => true
  | .poisoned => true

/-- The DRAM's own answer for a burst, before the write-combining buffer. -/
def dramRead (s : State) (b : BRef) : BRead :=
  let data := cellsAt s b.base 64
  if poisonBit s b 0 || poisonBit s b 1 then ⟨.poisoned, data⟩
  else
    match rsDecode (data ++ cellsAt s b.check 4) with
    | .clean => ⟨.clean, data⟩
    | .corrected k e => ⟨.corrected, xorAt data k e⟩
    | .uncorrectable => ⟨.uncorrectable, data⟩

/-- The write-combining entry that waits for a burst. -/
def wcbFind (s : State) (b : BRef) : Option Wcb := (lkD s.mem.wcb b.ch []).find? (fun w => w.burst == b.key)

/-- Lay the valid bytes of an entry over a burst. -/
def overlay (data : List Byte) (v : Tab Byte) : List Byte :=
  (List.range 64).map (fun i => lkD v i (data.getD i 0))

/-- A burst as a read at the channel sees it: the latest write that waits is forwarded (R206). -/
def burstRead (s : State) (b : BRef) : BRead :=
  let r := dramRead s b
  match wcbFind s b with
  | none => r
  | some w => ⟨if w.poison then .poisoned else r.kind, overlay r.bytes w.bytes⟩

/-- Store a whole burst with fresh check bytes; both poison bits take the mark (R207). A repair due for the burst is
no longer needed (R203). -/
def burstStore (s : State) (b : BRef) (data : List Byte) (poison : Bool) : State :=
  let s := setCells s b.base (slice data 0 64)
  let s := setCells s b.check (rsCheck (slice data 0 64))
  let s := setPoison s b poison
  { s with mem := { s.mem with ceBack := s.mem.ceBack.filter (fun e => e.1 != b.key) } }

/-! ### The burst cap (R210) -/

/-- Bursts a channel may issue in a quoin period at a stack step (Table 7.4), 0 for no cap. -/
def burstCapOf (step : Nat) : Nat := [0, 283, 200, 83].getD step 83

/-- A channel issues n bursts, where the cap of the period leaves room for them. -/
def issueBursts (s : State) (c n : Nat) : Option State :=
  let u := lkD s.mem.issued c 0
  if s.mem.burstCap != 0 && decide (s.mem.burstCap < u + n) then none
  else some { s with mem := { s.mem with issued := put s.mem.issued c (u + n) } }

/-- Do what takes n bursts of a channel now, or nothing where the cap holds it back. -/
def capped (s : State) (c n : Nat) (k : State → State) : State :=
  match issueBursts s c n with
  | some s => k s
  | none => s

/-- A period edge: the cap of the step in force governs the period. -/
def capEdge (s : State) : State :=
  { s with mem := { s.mem with burstCap := burstCapOf s.pwr.step, issued := [] } }

/-! ### Counts and records of reads -/

/-- Register keys of the counters of channel c (Table 7.6). -/
def ceKey (c : Nat) : Nat := rk2 (0x20600 + 16 * c)
def ueKey (c : Nat) : Nat := rk2 (0x20604 + 16 * c)
def poisonKey (c : Nat) : Nat := rk2 (0x20608 + 16 * c)
def dropKey (c : Nat) : Nat := rk2 (0x2060C + 16 * c)

/-- Where a read comes from, as MEM_UE names it (R501). -/
inductive RdSrc where
  | task | scrub | merge | retirement | platen
deriving DecidableEq, Repr
def RdSrc.num : RdSrc → Nat
  | .task => 0 | .scrub => 1 | .merge => 2 | .retirement => 3 | .platen => 4

/-- A corrected burst: counted, remembered for the summary, and its write-back scheduled (R203). -/
def noteCorrected (s : State) (b : BRef) (pa : Nat) : State :=
  let s := cntAdd s (ceKey b.ch) 1
  let d := s.clk.aon + 100 * usT
  { s with mem := { s.mem with
      ceRun := updD s.mem.ceRun b.ch 0 (· + 1), ceLast := put s.mem.ceLast b.ch pa
      ceBack := if s.mem.ceBack.any (fun e => e.1 == b.key) then s.mem.ceBack else s.mem.ceBack ++ [(b.key, d)] } }

/-- An uncorrectable burst: counted and recorded (R203). -/
def noteUncorrectable (s : State) (c j pa : Nat) (src : RdSrc) : State :=
  postG (cntAdd s (ueKey c) 1) 0x0401 4 pa (c + 256 * j + 65536 * src.num) 0 0

/-- What the delivery of a burst of page P, slug i, number j counts and records (R202, R203, R214, R218). -/
def noteBurst (s : State) (p i j : Nat) (src : RdSrc) : State :=
  let pa := (p * 256 + i) * 256 + 64 * j
  match slugLoc s p i with
  | .failed c => cntAdd s (poisonKey c) 1
  | .gone c => noteUncorrectable s c j pa src
  | .at_ c l =>
    match (burstRead s ⟨c, l, j⟩).kind with
    | .clean => s
    | .corrected => noteCorrected s ⟨c, l, j⟩ pa
    | .uncorrectable => noteUncorrectable s c j pa src
    | .poisoned => cntAdd s (poisonKey c) 1

/-- A burst of page P, slug i, number j as its requester receives it. -/
def pageBurst (s : State) (p i j : Nat) : BRead :=
  match slugLoc s p i with
  | .failed _ => ⟨.poisoned, List.replicate 64 0⟩
  | .gone _ => ⟨.uncorrectable, List.replicate 64 0⟩
  | .at_ c l => burstRead s ⟨c, l, j⟩

/-! ### Writes -/

/-- Entries of a channel's write-combining buffer (R207). -/
def wcbSize : Nat := 32

/-- Replace the entries of a channel. -/
def setWcb (s : State) (c : Nat) (l : List Wcb) : State := { s with mem := { s.mem with wcb := setD s.mem.wcb c l [] } }

/-- The burst of a key within a channel. -/
def BRef.ofKey (k : Nat) : BRef :=
  let x := k / 4 % 2 ^ 25
  ⟨k / 4 / 2 ^ 25, x / 16 * 15 + x % 16, k % 4⟩

/-- Merge a waiting entry into its burst and write the burst (R207): a damaged burst takes both poison bits. -/
def wcbMerge (s : State) (c : Nat) (w : Wcb) : State :=
  let b := BRef.ofKey w.burst
  let s := setWcb s c ((lkD s.mem.wcb c []).filter (fun e => e.burst != w.burst))
  let r := dramRead s b
  let s := match r.kind with
    | .clean => s
    | .corrected => noteCorrected s b w.pa
    | .uncorrectable => noteUncorrectable s c b.j w.pa .merge
    | .poisoned => cntAdd s (poisonKey c) 1
  burstStore s b (overlay r.bytes w.bytes) (w.poison || r.kind.bad)

/-- Write bytes of one burst: a whole burst is stored at once; a part waits in an entry for up to 2 us for the rest,
and the oldest entry is written back where the buffer is full (R207, R208). -/
def burstWrite (s : State) (b : BRef) (pa : Nat) (v : Tab Byte) (poison : Bool) : State :=
  let l := lkD s.mem.wcb b.ch []
  let old := wcbFind s b
  let bytes := match old with | some w => putAll w.bytes v | none => v
  let mark := poison || (match old with | some w => w.poison && v.length < 64 | none => false)
  if bytes.length = 64 then
    burstStore (setWcb s b.ch (l.filter (fun e => e.burst != b.key))) b (overlay [] bytes) mark
  else
    match old with
    | some w => setWcb s b.ch (l.map (fun e => if e.burst == b.key then { w with bytes := bytes, poison := mark } else e))
    | none =>
      let s := match l with
        | w :: _ => if wcbSize ≤ l.length then wcbMerge s b.ch w else s
        | [] => s
      setWcb s b.ch (lkD s.mem.wcb b.ch [] ++ [⟨b.key, pa, bytes, poison, s.clk.aon + 2 * usT⟩])

/-- Write bytes into a burst of page P, slug i; a channel that does not serve it drops and counts the write (R214,
R218). -/
def pageBurstWrite (s : State) (p i j : Nat) (v : Tab Byte) (poison : Bool) : State :=
  match slugLoc s p i with
  | .at_ c l => burstWrite s ⟨c, l, j⟩ ((p * 256 + i) * 256 + 64 * j) v poison
  | .failed c =>
    let s := cntAdd s (dropKey c) 1
    { s with mem := { s.mem with dropRun := updD s.mem.dropRun c 0 (· + 1) } }
  | .gone c => cntAdd s (dropKey c) 1

/-! ### Byte ranges of device-physical memory -/

/-- The bursts an access of n bytes at a device-physical address touches: page, slug, burst number. -/
def touched (pa n : Nat) : List (Nat × Nat × Nat) :=
  if n = 0 then []
  else (List.range ((pa + n - 1) / 64 - pa / 64 + 1)).map (fun i =>
    let b := pa / 64 + i
    (b / 1024, b / 4 % 256, b % 4))

/-- Read n bytes at a device-physical address: the bytes, and whether any burst is delivered poisoned. -/
def memRead (s : State) (pa n : Nat) : List Byte × Bool :=
  let rs := (touched pa n).map (fun (p, i, j) => pageBurst s p i j)
  (slice (rs.flatMap (·.bytes)) (pa % 64) n, rs.any (·.kind.bad))

/-- Count and record the bursts of an access. -/
def noteRead (s : State) (pa n : Nat) (src : RdSrc) : State :=
  (touched pa n).foldl (fun s (p, i, j) => noteBurst s p i j src) s

/-- Write bytes at a device-physical address. -/
def memWrite (s : State) (pa : Nat) (bytes : List Byte) (poison : Bool) : State :=
  (touched pa bytes.length).foldl (fun s (p, i, j) =>
    let b0 := (p * 1024 + i * 4 + j) * 64
    let v := ((List.range 64).filter (fun o => pa ≤ b0 + o && b0 + o < pa + bytes.length)).map
      (fun o => (o, bytes.getD (b0 + o - pa) 0))
    pageBurstWrite s p i j v poison) s

/-- Write back every entry of every channel (R208). -/
def wcbFlush (s : State) : State :=
  s.mem.wcb.foldl (fun s (c, l) => l.foldl (fun s w => wcbMerge s c w) s) s

/-! ### Whole pages -/

/-- A whole burst of zeros, as an entry's bytes. -/
def zeroBurst : Tab Byte := (List.range 64).map (fun i => (i, 0))

/-- The 1,024 bursts of a page: slug and burst number. -/
def pageBursts : List (Nat × Nat) := (List.range 1024).map (fun n => (n / 4, n % 4))

/-- Zero a page with valid check storage (R177). -/
def zeroPage (s : State) (p : Nat) : State :=
  pageBursts.foldl (fun s (i, j) => pageBurstWrite s p i j zeroBurst false) s

/-- Copy a page burst by burst, with correction; a damaged burst is written poisoned (R211). -/
def copyPage (s : State) (p q : Nat) : State :=
  pageBursts.foldl (fun s (i, j) =>
    let r := pageBurst s p i j
    let s := noteBurst s p i j .retirement
    pageBurstWrite s q i j ((List.range 64).map (fun o => (o, r.bytes.getD o 0))) r.kind.bad) s

/-- The lowest free page at or after p among the next n. -/
def findFree (s : State) (lim : Nat) : Nat → Nat → Option Nat
  | 0, _ => none
  | n + 1, p =>
    if p ≥ lim then none
    else if pageUse s p = .free then some p else findFree s lim n (p + 1)

/-- The limit of allocation: pmax, or the new pmax a sweep has announced (R216), and what the init sweep has written
(R529). -/
def allocLimit (s : State) : Nat :=
  let lim := if s.mem.sweep.isSome then pmaxFor s (outCount s) else s.mem.pmax
  if s.fw.initDone then lim else min lim s.fw.initCursor

/-- The lowest free page, if one exists: past the pages that are in use by default, at most the listed pages stand
before it. -/
def freePage (s : State) : Option Nat :=
  findFree s (allocLimit s) (s.pages.length + 1) (dttPages s + repairPages)

/-- Take n free pages, lowest first, and give them a use; none where too few are free (log entry 10). -/
def takePages (s : State) (use : Nat → PageUse) : Nat → Option (List Nat × State)
  | 0 => some ([], s)
  | n + 1 =>
    match takePages s use n with
    | none => none
    | some (l, s) =>
      match freePage s with
      | none => none
      | some p => some (l ++ [p], setPage s p (use n))

/-- Release pages of an owner: they await zeroing (R177). -/
def releasePages (s : State) (owner : Nat) (l : List Nat) : State :=
  l.foldl (fun s p => setPage s p (.zeroing owner)) s

/-- Pages of each kind that differ from the default layout, and the free pages of the device. -/
def listedFree (s : State) : Nat := (s.pages.filter (fun e => e.2 == .free)).length

/-- Free, zeroed pages below the allocation limit (R244): the default free pages, less the listed ones that are in
use, plus the listed ones that are free again. -/
def freeCount (s : State) : Nat :=
  let base := dttPages s + repairPages
  let lim := allocLimit s
  (lim - base) - (s.pages.filter (fun e => base ≤ e.1 && e.1 < lim && e.2 != .free)).length +
    (s.pages.filter (fun e => e.1 < base && e.2 == .free)).length

/-- Pages in the repair reserve (R170). -/
def repairCount (s : State) : Nat :=
  repairPages - (s.pages.filter (fun e => dttPages s ≤ e.1 && e.1 < dttPages s + repairPages && e.2 != .repair)).length +
    (s.pages.filter (fun e => dttPages s + repairPages ≤ e.1 && e.2 == .repair)).length

/-- The device page of virtual page vpn of a partition's buffer window (R174). -/
def bufferPage (s : State) (p vpn : Nat) : Option Nat :=
  (s.pages.find? (fun e => e.2 == .buffer p vpn)).map (·.1)

/-- The device page that the task of stream i, in flight when the page was unmapped, may still reach (6.7.3). -/
def heldPage (s : State) (i p vpn : Nat) : Option Nat :=
  (s.pages.find? (fun e => match e.2 with
    | .heldBuffer q v l => q == p && v == vpn && l.contains i
    | _ => false)).map (·.1)

end Sys2Proof.Machine
end

