-- ==== Sys2Proof/Machine/Rows.lean ====
section
/-! DEFINITION. Tables and rows (chapter 8): the geometry of slots and shards (R229, R230, R235, R236), the descriptor
check (R226), the row codes to the bit (R231, R232), and where a row of this device lies. -/

namespace Sys2Proof.Machine

/-- The padding sentinel (R233). -/
def sentinel : Nat := 2 ^ 40 - 1

/-- D, EXT, ROW_BYTES, SLOT_BYTES and ROWS_PER_PAGE of a table (R229, R230). -/
def Table.d (t : Table) : Nat := 16 * (t.dim16m1 + 1)
def Table.ext (t : Table) : Nat := if t.train = 2 then 4 else 0
def rowBytesOf (d ext code : Nat) : Nat := alignUp (4 + ext + if code = 1 then d / 2 else d) 64
def Table.rowBytes (t : Table) : Nat := rowBytesOf t.d t.ext t.code
def slotBytesOf (rb : Nat) : Nat := if rb ≤ 64 then 64 else if rb ≤ 128 then 128 else 256 * cdiv rb 256
def Table.slotBytes (t : Table) : Nat := slotBytesOf t.rowBytes
def Table.rowsPerPage (t : Table) : Nat := 65536 / t.slotBytes
def Table.nshard (t : Table) : Nat := t.shards.length

/-- The owner number in a handle (R224). -/
def handleOwner (h : Nat) : Nat := h / 2 ^ 26
def Table.owner (t : Table) : Nat := handleOwner t.handle

/-- An absent shard entry. -/
def ShardEnt.none : ShardEnt := ⟨0, false, 0, 0⟩
def Table.shardEnt (t : Table) (i : Nat) : ShardEnt := t.shards.getD i ShardEnt.none

/-- The first row of shard i under row range, and the end of the last (R235). -/
def Table.startOf (t : Table) (i : Nat) : Nat := if i < t.nshard then (t.shardEnt i).start else t.rows

/-- The last shard among the first n whose START is at or below r. -/
def rangeShard (t : Table) (r : Nat) : Nat → Nat
  | 0 => 0
  | n + 1 => if t.startOf n ≤ r then n else rangeShard t r n

/-- The shard and the local index of row r (R235, R236). -/
def Table.place (t : Table) (r : Nat) : Nat × Nat :=
  if t.shardMode = 0 then
    let i := rangeShard t r t.nshard
    (i, r - t.startOf i)
  else
    let n := max t.nshard 1
    let b := r / n
    let g := (b * 0xA3B195F42C6D7E19 % 2 ^ 64) / 2 ^ 32 % n
    ((r % n + g) % n, b)

/-- Rows a shard holds (R235, R236). -/
def Table.shardRows (t : Table) (i : Nat) : Nat :=
  if t.shardMode = 0 then t.startOf (i + 1) - t.startOf i else cdiv t.rows (max t.nshard 1)

/-- The global row that local row l of shard i stores, if one exists. -/
def Table.globalRow (t : Table) (i l : Nat) : Option Nat :=
  if t.shardMode = 0 then (if l < t.shardRows i then some (t.startOf i + l) else none)
  else
    let n := max t.nshard 1
    let g := (l * 0xA3B195F42C6D7E19 % 2 ^ 64) / 2 ^ 32 % n
    let r := l * n + (i + n - g) % n
    if r < t.rows then some r else none

/-- The bytes 0x08 to 0x20 + 8 × NSHARD − 1 of TABLE_CREATE (Tables 8.1 and 8.2), with the given EPOCH. -/
def Table.descBytes (t : Table) (epoch : Nat) : List Byte :=
  leBytes 4 t.handle ++
  leBytes 4 (t.dim16m1 + 2 ^ 8 * t.code + 2 ^ 9 * t.policy + 2 ^ 10 * t.train + 2 ^ 12 * t.shardMode + 2 ^ 16 * t.nshard) ++
  leBytes 5 t.rows ++ leBytes 3 (t.frac % 32 + 2 ^ 8 * t.ledgerLog2 + 2 ^ 16 * t.rowfmt) ++
  leBytes 4 epoch ++ leBytes 4 0 ++
  t.shards.flatMap (fun e => leBytes 8 (e.start + 2 ^ 40 * e.device + 2 ^ 46 * e.replica + 2 ^ 52 * b2n e.replicaValid))

/-- DESC_CHECK (R226). -/
def Table.descCheck (t : Table) : W32 := crc32c (t.descBytes 0)

/-- Ledger entry bytes (R243). -/
def Table.leb (t : Table) : Nat := 64 * cdiv (16 + 4 * t.d) 64
def Table.ledgerPages (t : Table) : Nat := if t.train = 0 then 0 else cdiv (2 ^ t.ledgerLog2 * t.leb) 65536

/-- The storage this device holds of a shard. -/
def Table.storeOf (t : Table) (shard : Nat) : Option Store := t.stores.find? (fun x => x.shard == shard)

/-- Where slot l of a store lies: its page's place and the byte within the page (R230). -/
def slotAt (t : Table) (x : Store) (l : Nat) : Option (PLoc × Nat) :=
  (x.pages[l / max t.rowsPerPage 1]?).map (fun p => (p, l % max t.rowsPerPage 1 * t.slotBytes))

/-! ### Row codes -/

/-- The code range of a table (R231). -/
def qMin (code : Nat) : Int := if code = 1 then -8 else -128
def qMax (code : Nat) : Int := if code = 1 then 7 else 127

/-- Code k of a row (R229). -/
def codeAt (code ext : Nat) (row : List Byte) (k : Nat) : Int :=
  if code = 1 then
    let b := (row.getD (4 + ext + k / 2) 0).toNat
    sext 4 (if k % 2 = 0 then b % 16 else b / 16)
  else sext 8 (row.getD (4 + ext + k) 0).toNat

/-- SCALE and OFFSET of a row, widened (R229). -/
def rowScale (row : List Byte) : W32 := f16to32 (BitVec.ofNat 16 (leAt row 0 2))
def rowOffset (row : List Byte) : W32 := f16to32 (BitVec.ofNat 16 (leAt row 2 2))

/-- The D values of a row (R232). -/
def dequant (d ext code : Nat) (row : List Byte) : List W32 :=
  (List.range d).map (fun k => fFma (rowScale row) (f32ofInt (codeAt code ext row k)) (rowOffset row))

/-- Clamp a value to the range of fp16, and whether that changed it (R231). -/
def clamp16 (v : W32) : W32 × Bool :=
  if fLt v 0xC77FE000#32 then (0xC77FE000#32, true)
  else if fLt 0x477FE000#32 v then (0x477FE000#32, true)
  else (v, false)

/-- Clamp an integer. -/
def clampI (x lo hi : Int) : Int := if x < lo then lo else if hi < x then hi else x

/-- Pack codes (R229). -/
def packCodes (code : Nat) : List Int → List Byte
  | [] => []
  | [a] => if code = 1 then [BitVec.ofNat 8 (twos 4 a)] else [BitVec.ofNat 8 (twos 8 a)]
  | a :: b :: t =>
    if code = 1 then BitVec.ofNat 8 (twos 4 a + 16 * twos 4 b) :: packCodes code t
    else BitVec.ofNat 8 (twos 8 a) :: packCodes code (b :: t)

/-- Quantize values that are all finite, carrying the header extension (R231), with the code of element k taken from
y = (w − offset) / s by `codeOf`: the ROW_BYTES bytes of the row, and how many values were clamped. -/
def quantizeBy (codeOf : Nat → W32 → Int) (code : Nat) (ext : List Byte) (v : List W32) : List Byte × Nat :=
  let c := v.map clamp16
  let w := c.map (·.1)
  let lo := w.foldl fMin (w.headD 0)
  let hi := w.foldl fMax (w.headD 0)
  let s := f16to32 (f32to16 (fDiv (fSub hi lo) (f32ofInt (qMax code - qMin code))))
  let zero := f32 s == .fin false 0 fmt32.emin || f32 s == .fin true 0 fmt32.emin
  let off := if zero then f32to16 lo else f32to16 (fSub lo (fMul s (f32ofInt (qMin code))))
  let q := w.zipIdx.map (fun (x, k) =>
    if zero then 0
    else clampI (codeOf k (fDiv (fSub x (f16to32 off)) s)) (qMin code) (qMax code))
  let body := leBytes 2 (if zero then 0 else (f32to16 s).toNat) ++ leBytes 2 off.toNat ++ ext ++ packCodes code q
  (slice body 0 (rowBytesOf v.length ext.length code), (c.filter (·.2)).length)

/-- Codes rounded to nearest (R231). -/
def quantize (code : Nat) (ext : List Byte) (v : List W32) : List Byte × Nat :=
  quantizeBy (fun _ y => fvToInt (f32 y)) code ext v

/-! ### Which tables a task reaches -/

/-- Whether a partition number (32: the driver domain) reaches a table (R227). -/
def reaches (t : Table) (p : Nat) : Bool := t.owner == p || (p < 32 && t.mapped.contains p)

/-- The table a task of partition number p reaches under a handle. -/
def tableFor (s : State) (p h : Nat) : Option Table :=
  match lk s.tables h with
  | some t => if reaches t p then some t else none
  | none => none

/-- The pod device ID of this device (R385). -/
def me (s : State) : Nat := s.ident.podId

/-- The table an owner serves to a partition number under a DESC_CHECK (R180, R226). -/
def servedTable (s : State) (p h : Nat) (check : W32) : Option Table :=
  match tableFor s p h with
  | some t => if t.descCheck = check then some t else none
  | none => none

/-- Replace a table. -/
def setTable (s : State) (t : Table) : State := { s with tables := put s.tables t.handle t }

end Sys2Proof.Machine
end

