-- ==== Sys2Proof/Machine/PodOps.lean ====
section
/-! DEFINITION. Messages between devices (Table 13.6): the virtual channel and pool of each, sequence numbers (R372),
the device's own outbox, and the exchanges that an engine owes or is owed (R391, R392). How messages are routed and
framed stands in Links.lean. -/

namespace Sys2Proof.Machine

/-- The virtual channel of a message by what it carries: 0 REQ, 1 RSP, 2 ATOM, 3 MGMT (Table 13.6, Table 12.4, Table
14.6). -/
def bodyVc : MsgBody → Nat
  | .grantReq .. => 0 | .grantAns .. => 1 | .gpReq _ => 0 | .gpChunk _ => 1 | .gpValue _ => 1
  | .saClaim _ => 2 | .saApply _ => 2 | .saUnclaim _ => 2
  | .saClaimed _ => 1 | .saWaiting .. => 1 | .saFolded _ => 1 | .saApplied _ => 1 | .saDenied _ => 1
  | .cpRd .. => 0 | .cpData .. => 1 | .cpWr .. => 2 | .cpWack .. => 1
  | .lkAcq .. => 2 | .lkGrant .. => 1 | .lkWait _ => 1 | .lkRel .. => 2 | .lkRelack .. => 1
  | .lkRenew _ => 2 | .lkRenewed _ => 1 | .lkAbandon _ => 2 | .lkWithdraw _ => 2 | .lkDenied _ => 1
  | .lkPrio .. => 2 | .xkeep _ => 1
  | .joinHello _ => 3 | .lostNotice _ => 3 | .leaveNotice => 3 | .rejoin => 3 | .placeQuery .. => 3
  | .placeAns _ => 3 | .mgmtReq .. => 3 | .mgmtAns .. => 3 | .unknown _ => 3

/-- The pool of the MGMT channel: 0 control, 1 management (R22). -/
def bodyPool : MsgBody → Nat
  | .mgmtReq .. => 1
  | .mgmtAns .. => 1
  | _ => 0

/-- The request a message belongs to, where it carries one. -/
def bodyReq : MsgBody → Nat
  | .grantReq r _ _ => r.toNat | .grantAns r _ _ => r.toNat | .gpReq b => b.reqId.toNat
  | .gpChunk b => b.reqId.toNat | .gpValue b => b.reqId.toNat | .saClaim b => b.reqId.toNat
  | .saApply r => r.toNat | .saUnclaim r => r.toNat | .saClaimed r => r.toNat | .saWaiting r _ => r.toNat
  | .saFolded r => r.toNat | .saApplied r => r.toNat | .saDenied r => r.toNat
  | .cpRd r _ _ => r.toNat | .cpData r _ _ _ => r.toNat | .cpWr r _ _ _ => r.toNat | .cpWack r _ => r.toNat
  | .lkAcq r _ _ _ => r.toNat | .lkGrant r _ => r.toNat | .lkWait r => r.toNat | .lkRel r _ => r.toNat
  | .lkRelack r _ => r.toNat | .lkAbandon r => r.toNat | .lkWithdraw r => r.toNat | .lkDenied r => r.toNat
  | .lkPrio r _ => r.toNat | .xkeep r => r.toNat | .placeQuery r _ _ => r.toNat | .placeAns b => b.reqId.toNat
  | _ => 0

/-- A request with its identifier set. -/
def bodyWithReq (i : Nat) : MsgBody → MsgBody
  | .grantReq _ h c => .grantReq (BitVec.ofNat 32 i) h c
  | .gpReq b => .gpReq { b with reqId := BitVec.ofNat 32 i }
  | .saClaim b => .saClaim { b with reqId := BitVec.ofNat 32 i }
  | .cpRd _ a n => .cpRd (BitVec.ofNat 32 i) a n
  | .cpWr _ a b p => .cpWr (BitVec.ofNat 32 i) a b p
  | .lkAcq _ l st pr => .lkAcq (BitVec.ofNat 32 i) l st pr
  | .lkRel _ l => .lkRel (BitVec.ofNat 32 i) l
  | .placeQuery _ t h => .placeQuery (BitVec.ofNat 32 i) t h
  | b => b

/-! ### Messages as bytes -/

/-- MTYPE (Table 13.6, Table 14.3). -/
def mtypeOf : MsgBody → Nat
  | .grantReq .. => 1 | .grantAns .. => 2 | .gpReq _ => 3 | .gpChunk _ => 4 | .gpValue _ => 5
  | .saClaim _ => 0x10 | .saApply _ => 0x11 | .saUnclaim _ => 0x12 | .saClaimed _ => 0x13 | .saWaiting .. => 0x14
  | .saFolded _ => 0x15 | .saApplied _ => 0x16 | .saDenied _ => 0x17
  | .cpRd .. => 0x20 | .cpData .. => 0x21 | .cpWr .. => 0x22 | .cpWack .. => 0x23
  | .lkAcq .. => 0x30 | .lkGrant .. => 0x31 | .lkWait _ => 0x32 | .lkRel .. => 0x33 | .lkRelack .. => 0x34
  | .lkRenew _ => 0x35 | .lkRenewed _ => 0x36 | .lkAbandon _ => 0x37 | .lkWithdraw _ => 0x38 | .lkDenied _ => 0x39
  | .lkPrio .. => 0x3A | .xkeep _ => 0x40
  | .joinHello _ => 0x50 | .lostNotice _ => 0x51 | .leaveNotice => 0x52 | .rejoin => 0x53 | .placeQuery .. => 0x54
  | .placeAns _ => 0x55 | .mgmtReq .. => 0x60 | .mgmtAns .. => 0x61 | .unknown m => m.toNat

/-- The payload of a message: Tables 11.4, 11.5 and 13.6 where they lay it out; else its fields in the order the
spec names them (log entry 14). -/
def bodyBytes : MsgBody → List Byte
  | .grantReq r h c => leBytes 4 r.toNat ++ leBytes 4 h.toNat ++ leBytes 4 c.toNat
  | .grantAns r ok p => leBytes 4 r.toNat ++ leBytes 4 (b2n ok + 2 * b2n p)
  | .gpReq b =>
    leBytes 4 b.reqId.toNat ++ leBytes 4 b.handle.toNat ++ leBytes 4 b.descCheck.toNat ++
    leBytes 4 (256 * b.mode + 1024 * b2n b.raw + 65536 * b.home) ++ leBytes 8 b.rows.length ++
    b.rows.flatMap (leBytes 8) ++ b.wts.flatMap (fun w => leBytes 2 w.toNat)
  | .gpChunk b =>
    leBytes 4 b.reqId.toNat ++
    leBytes 4 (b.pooled + 2 ^ 17 * b.chunk + 2 ^ 24 * b2n b.poisoned + 2 ^ 25 * b.kind + 2 ^ 28 * b.detail) ++
    leBytes 4 b.dropped ++ leBytes 4 b.faultPos ++ b.vals.flatMap (fun v => leBytes 4 v.toNat)
  | .gpValue b =>
    leBytes 4 b.reqId.toNat ++ leBytes 4 (b.pos + 2 ^ 24 * b2n b.poisoned + 2 ^ 25 * b.kind) ++ b.bytes
  | .saClaim b =>
    leBytes 4 b.reqId.toNat ++ leBytes 4 b.handle.toNat ++ leBytes 4 b.descCheck.toNat ++
    leBytes 4 (b.mode + 16 * b.gradFmt) ++ leBytes 4 b.pooled ++ leBytes 4 b.rows.length ++
    b.rows.flatMap (leBytes 8) ++ b.wts.flatMap (fun w => leBytes 2 w.toNat) ++ b.grad
  | .saApply r => leBytes 4 r.toNat | .saUnclaim r => leBytes 4 r.toNat | .saClaimed r => leBytes 4 r.toNat
  | .saWaiting r w => leBytes 4 r.toNat ++ leBytes 4 w.toNat
  | .saFolded r => leBytes 4 r.toNat | .saApplied r => leBytes 4 r.toNat | .saDenied r => leBytes 4 r.toNat
  | .cpRd r a n => leBytes 4 r.toNat ++ leBytes 8 a ++ leBytes 4 n
  | .cpData r d b p => leBytes 4 r.toNat ++ leBytes 4 d ++ leBytes 2 p.length ++ p.map (fun x => BitVec.ofNat 8 (b2n x)) ++ b
  | .cpWr r a b p => leBytes 4 r.toNat ++ leBytes 8 a ++ leBytes 4 p.length ++ p.map (fun x => BitVec.ofNat 8 (b2n x)) ++ b
  | .cpWack r d => leBytes 4 r.toNat ++ leBytes 4 d
  | .lkAcq r l st pr => leBytes 4 r.toNat ++ leBytes 4 (l.val + 2 ^ 16 * st.val + 2 ^ 24 * pr.val)
  | .lkGrant r a => leBytes 4 r.toNat ++ leBytes 4 (b2n a)
  | .lkWait r => leBytes 4 r.toNat
  | .lkRel r l => leBytes 4 r.toNat ++ leBytes 4 l.val
  | .lkRelack r n => leBytes 4 r.toNat ++ leBytes 4 (2 * b2n n)
  | .lkRenew l => l.flatMap (fun r => leBytes 4 r.toNat)
  | .lkRenewed l => l.flatMap (fun r => leBytes 4 r.toNat)
  | .lkAbandon r => leBytes 4 r.toNat | .lkWithdraw r => leBytes 4 r.toNat | .lkDenied r => leBytes 4 r.toNat
  | .lkPrio r p => leBytes 4 r.toNat ++ leBytes 4 p.val
  | .xkeep r => leBytes 4 r.toNat
  | .joinHello b => leBytes 4 b.link.val ++ leBytes 4 b.key.toNat ++ leBytes 4 (b.nx + 16 * b.ny + 256 * b.nz) ++ leBytes 8 b.mask.toNat
  | .lostNotice m => leBytes 4 m.val
  | .leaveNotice => [] | .rejoin => []
  | .placeQuery r t hs => leBytes 4 r.toNat ++ leBytes 4 t ++ hs.flatMap (fun h => leBytes 4 h.toNat)
  | .placeAns b =>
    leBytes 4 b.reqId.toNat ++ leBytes 8 b.avail ++ leBytes 4 b.checks.length ++
    b.checks.flatMap (fun (h, c) => leBytes 4 h.toNat ++ leBytes 4 (b2n c.isSome) ++ leBytes 4 (c.getD 0).toNat) ++
    b.placed.flatMap (fun h => leBytes 4 h.toNat)
  | .mgmtReq c p => leBytes 1 c.toNat ++ p
  | .mgmtAns c d => leBytes 1 c.toNat ++ d
  | .unknown _ => []

/-- The key of a sequence number: device, virtual channel, pool. -/
def mseqKey (dev : Nat) (b : MsgBody) : Nat := dev * 8 + bodyVc b * 2 + bodyPool b

/-- A device as a message field. -/
def dev6 (d : Nat) : Dev := ⟨d % 64, Nat.mod_lt _ (by decide)⟩
/-- A partition number as a message field. -/
def part33 (p : Nat) : Fin 33 := ⟨p % 33, Nat.mod_lt _ (by decide)⟩

/-- How many messages carry a body: one, or the segments of a train (13.3). -/
def segCount (b : MsgBody) : Nat := max 1 (cdiv (bodyBytes b).length 2032)

/-- Send a message to a device: it takes the next MSEQ of its channel, or a train the next of each of its segments
(R372), and waits to be routed. -/
def sendMsg (s : State) (dst part : Nat) (b : MsgBody) : State :=
  let k := mseqKey dst b
  let q := lkD s.pod.mseqTx k 0 + segCount b
  { s with pod := { s.pod with
      mseqTx := put s.pod.mseqTx k q
      outbox := s.pod.outbox ++ [⟨⟨dev6 dst, dev6 (me s), BitVec.ofNat 16 q, part33 part⟩, b⟩] } }

/-- Answer a message: to its sender, for its partition. -/
def replyMsg (s : State) (h : MsgHdr) (b : MsgBody) : State := sendMsg s h.src.val h.part.val b

/-- A fresh request identifier. -/
def newReq (s : State) : Nat × State :=
  (s.pod.nextReq, { s with pod := { s.pod with nextReq := (s.pod.nextReq + 1) % 2 ^ 32 } })

/-- Open an exchange: send a request under a fresh identifier. -/
def openExch (s : State) (dst part : Nat) (b : MsgBody) : Exch × State :=
  let (i, s) := newReq s
  let b := bodyWithReq i b
  (⟨i, dst, b, s.clk.timer, [], 0⟩, sendMsg s dst part b)

/-- Whether a member of the pod is reachable: this device, or a member not lost (R385, R393). -/
def isMember (s : State) (d : Nat) : Bool := s.pod.joined && maskBit s.pod.members d && !maskBit s.pod.lost d

/-- Whether work begun at AON time t may open an exchange with a device: it is reachable, and no POD_LEAVE has begun since
(R396). -/
def mayOpen (s : State) (d t : Nat) : Bool :=
  isMember s d && (match s.pod.leaving with | some u => decide (t < u) | none => true)

/-! ### Arrival -/

/-- Take a message that FRAME_RECEIVE has delivered out of the inbox: its row runs now. -/
def takeInbox (s : State) (h : MsgHdr) (b : MsgBody) : State :=
  let same (r : RawMsg) : Bool :=
    leAt r.bytes 0 2 % 64 == h.dst.val && leAt r.bytes 0 2 / 64 % 64 == h.src.val && leAt r.bytes 2 1 == mtypeOf b &&
    leAt r.bytes 4 2 == h.mseq.toNat
  match s.pod.inbox.find? same with
  | some r => { s with pod := { s.pod with inbox := s.pod.inbox.erase r } }
  | none => s

/-- Register keys of the link block (Table 13.10). -/
def lnkKey (o : Nat) : Nat := rk2 (0x40000 + o)

/-- A message of a member arrives at its destination: it leaves the inbox, and its sequence number is checked (R372);
none where it is not for this device, its sender is lost, or it is a duplicate. -/
def acceptMsg (s : State) (h : MsgHdr) (b : MsgBody) : Option State :=
  let s := takeInbox s h b
  let k := mseqKey h.src.val b
  let d := (h.mseq.toNat + 65536 - lkD s.pod.mseqRx k 0 % 65536) % 65536
  if h.dst.val ≠ me s then none
  else if bodyVc b ≠ 3 && maskBit s.pod.lost h.src.val then none
  else if d = 0 || decide (32768 ≤ d) then none
  else some { s with pod := { s.pod with mseqRx := put s.pod.mseqRx k h.mseq.toNat } }

/-- A message row: what follows where the message is accepted, and the state where it is not, with a duplicate
counted (R372). -/
def onMsg (s : State) (h : MsgHdr) (b : MsgBody) (run : State → State) : State :=
  if s.pwr.off then s
  else match acceptMsg s h b with
  | some s => run s
  | none =>
    let d := (h.mseq.toNat + 65536 - lkD s.pod.mseqRx (mseqKey h.src.val b) 0 % 65536) % 65536
    let s := takeInbox s h b
    if h.dst.val = me s && (d == 0 || decide (32768 ≤ d)) then cntAdd s (lnkKey 0x34) 1 else s

end Sys2Proof.Machine
end

