-- ==== Sys2Proof/Machine/Task.lean ====
section
/-! DEFINITION. How a task runs (chapter 10): evaluation of its walks over what has landed so far, which either ends
with a result, stops at the lowest faulting point (R301), or names what it still needs (host reads, translations,
messages to pod members). The reads of device memory it has made are its trace. -/

namespace Sys2Proof.Machine

/-- What an evaluation waits for. -/
inductive Need where
  /-- A read of host memory. -/
  | host (addr len : Nat)
  /-- A translation of a 4 KiB page. -/
  | ats (fn page : Nat)
  /-- An exchange with a pod member under a key of the task. -/
  | msg (key dst : Nat) (b : MsgBody)
deriving DecidableEq, Repr

/-- Where an evaluation stops: a status and DETAIL, the unit, the POSITION and the COORD of the record. A fault
inside an access carries the byte offset in `pos` until its walk places it. -/
structure Stop where
  status : Nat
  detail : Nat
  unit : Nat
  pos : Nat
  coord : Nat
deriving DecidableEq, Repr

/-- An access to device-physical memory in an evaluation's trace. -/
structure Acc where
  pa : Nat
  len : Nat
deriving DecidableEq, Repr

/-- The outcome of an evaluation. -/
inductive Ev (α : Type) where
  | ok (a : α) (tr : List Acc)
  | need (l : List Need)
  | stop (x : Stop) (tr : List Acc)
deriving Repr

/-- A value without an access. -/
def Ev.pure {α : Type} (a : α) : Ev α := .ok a []

/-- One evaluation after another. -/
def Ev.bind {α β : Type} (x : Ev α) (f : α → Ev β) : Ev β :=
  match x with
  | .ok a tr =>
    (match f a with
     | .ok b tr' => .ok b (tr ++ tr')
     | .need l => .need l
     | .stop e tr' => .stop e (tr ++ tr'))
  | .need l => .need l
  | .stop e tr => .stop e tr

/-- Place a raw fault at a point of its walk (R302): the unit, and POSITION and COORD from the byte offset. -/
def Ev.at_ {α : Type} (x : Ev α) (unit : Nat) (f : Nat → Nat × Nat) : Ev α :=
  match x with
  | .stop e tr => .stop { e with unit := unit, pos := (f e.pos).1, coord := (f e.pos).2 } tr
  | y => y

/-- Evaluations in task order. Everything below the first stop is completed before the stop is reported (R301), so
needs below it come first, together. -/
def Ev.all {α : Type} : List (Ev α) → Ev (List α)
  | [] => .ok [] []
  | x :: t =>
    match x with
    | .ok a tr =>
      (match Ev.all t with
       | .ok l tr' => .ok (a :: l) (tr ++ tr')
       | .need l => .need l
       | .stop e tr' => .stop e (tr ++ tr'))
    | .need l =>
      (match Ev.all t with
       | .need l' => .need (l ++ l')
       | _ => .need l)
    | .stop e tr => .stop e tr

/-- A raw fault of a walk: TS_ABORTED_FAULT with its DETAIL at a byte offset (R301). -/
def walkFault {α : Type} (detail off : Nat) : Ev α := .stop ⟨0x13, detail, 0, off, 0⟩ []

/-- Add an offset to a raw fault. -/
def Ev.shift {α : Type} (x : Ev α) (n : Nat) : Ev α :=
  match x with
  | .stop e tr => .stop { e with pos := e.pos + n } tr
  | y => y

/-- A byte with its poison mark. -/
structure PB where
  b : Byte
  bad : Bool
deriving DecidableEq, Repr

/-- What an evaluation may look at: the state, the function and partition number it acts for, what has landed, and
when it was admitted. -/
structure Ctx where
  s : State
  /-- The stream of the task; 64 where there is none. -/
  strm : Nat
  fn : Nat
  part : Nat
  land : Tab HostStatus
  ex : Tab Exch

/-- The key of a host read among what has landed. -/
def landKey (addr len : Nat) : Nat := addr % 2 ^ 64 * 8192 + len

/-- Whether a function's host accesses go through ATS (R71). -/
def atsOn (s : State) (f : Nat) : Bool := lkD s.hif.atsEnable f false

/-- The translation key of a 4 KiB page of a function. -/
def atsKey (f page : Nat) : Nat := f * 2 ^ 52 + page

/-- The translation an access to a host page needs (R71). -/
def hostPage (c : Ctx) (addr : Nat) : Ev Unit :=
  if atsOn c.s c.fn then
    match lk c.s.hif.ats (atsKey c.fn (addr / 4096)) with
    | none => .need [.ats c.fn (addr / 4096)]
    | some true => .pure ()
    | some false => walkFault 1 0
  else .pure ()

/-- Cut [addr, addr + n) at multiples of m: pieces with their offsets. -/
def cuts (m : Nat) : Nat → Nat → Nat → Nat → List (Nat × Nat × Nat)
  | 0, _, _, _ => []
  | k + 1, off, addr, n =>
    if n = 0 then []
    else
      let l := min n (m - addr % m)
      (off, addr, l) :: cuts m k (off + l) (addr + l) (n - l)

/-- The pieces of an access that do not cross a multiple of m. -/
def pieces (m addr n : Nat) : List (Nat × Nat × Nat) := cuts m (n / m + 2) 0 addr n

/-- A host read within one 4 KiB page (R71, R87, R485, R301). -/
def hostPiece (c : Ctx) (addr n : Nat) : Ev (List PB) :=
  (hostPage c addr).bind fun _ =>
    match lk c.land (landKey addr n) with
    | none => .need [.host addr n]
    | some (.data b) => .pure ((slice b 0 n).map (fun x => ⟨x, false⟩))
    | some _ => walkFault 3 0

/-- A read of host memory through the function. -/
def hostRead (c : Ctx) (addr n : Nat) : Ev (List PB) :=
  (Ev.all ((pieces 4096 addr n).map (fun (off, a, l) => (hostPiece c a l).shift off))).bind
    fun l => .pure l.flatten

/-- A read of device-physical memory, each byte with the mark of its burst (R202). -/
def devRead (s : State) (pa n : Nat) : List PB :=
  let l := (touched pa n).flatMap (fun (p, i, j) =>
    let r := pageBurst s p i j
    (slice r.bytes 0 64).map (fun b => (⟨b, r.kind.bad⟩ : PB)))
  (l.drop (pa % 64)).take n

/-- The page of a virtual page of a partition's buffer window (R174, R175, 6.7.3). -/
def windowPage (s : State) (i p vpn : Nat) : Option Nat :=
  if p < 32 then
    (match bufferPage s p vpn with
     | some q => some q
     | none => heldPage s i p vpn)
  else none

/-- A read of the buffer window within one 64 KiB page (R175). -/
def windowPiece (c : Ctx) (va n : Nat) : Ev (List PB) :=
  match windowPage c.s c.strm c.part (va / 65536) with
  | none => walkFault 2 0
  | some p => .ok (devRead c.s (p * 65536 + va % 65536) n) [⟨p * 65536 + va % 65536, n⟩]

/-- A read of the buffer window. -/
def windowRead (c : Ctx) (va n : Nat) : Ev (List PB) :=
  (Ev.all ((pieces 65536 va n).map (fun (off, a, l) => (windowPiece c a l).shift off))).bind
    fun l => .pure l.flatten

/-- Whether a 64-bit address selects the buffer window, and its 40 bits (R174). -/
def isWindow (a : Nat) : Bool := bitOf a 63
def windowVa (a : Nat) : Nat := a % 2 ^ 40

/-- A read at a 64-bit address of a descriptor: host memory or the buffer window (R174). -/
def readAt (c : Ctx) (a n : Nat) : Ev (List PB) :=
  if isWindow a then windowRead c (windowVa a) n else hostRead c a n

/-- The address i bytes past a 64-bit address, in its own space. -/
def addrAdd (a i : Nat) : Nat := if isWindow a then 2 ^ 63 + (windowVa a + i) else a + i

/-- One write of a task's output. -/
inductive OutW where
  | host (addr : Nat) (bytes : List Byte)
  | dev (pa : Nat) (bytes : List Byte) (poison : Bool)
deriving DecidableEq, Repr

/-- A write of host memory alone (R71). -/
def hostWrite (c : Ctx) (a : Nat) (bytes : List Byte) (_poison : Bool) : Ev (List OutW) :=
  Ev.all ((pieces 4096 a bytes.length).map (fun (off, ha, l) =>
    ((hostPage c ha).shift off).bind fun _ => .pure (OutW.host ha (slice bytes off l))))

/-- A write at a 64-bit address: the writes it makes, or the fault of its walk (R301). -/
def writeAt (c : Ctx) (a : Nat) (bytes : List Byte) (poison : Bool) : Ev (List OutW) :=
  if isWindow a then
    Ev.all ((pieces 65536 (windowVa a) bytes.length).map (fun (off, va, l) =>
      match windowPage c.s c.strm c.part (va / 65536) with
      | none => walkFault 2 off
      | some p => .pure (OutW.dev (p * 65536 + va % 65536) (slice bytes off l) poison)))
  else hostWrite c a bytes poison

/-- Perform a task's writes, for a function (R83). -/
def doWrites (s : State) (f : Nat) : List OutW → State
  | [] => s
  | .host a b :: t => doWrites { s with hif := { s.hif with writes := s.hif.writes ++ [⟨f, a, b⟩] } } f t
  | .dev pa b p :: t => doWrites (memWrite s pa b p) f t

/-- Bytes of marked bytes, and whether any is marked. -/
def pbBytes (l : List PB) : List Byte := l.map (·.b)
def pbBad (l : List PB) : Bool := l.any (·.bad)

/-- Accesses at or above this address are reads of spilled pages, which lie in host memory (R248). -/
def spillBase : Nat := 2 ^ 64

/-- The reads of a trace: its accesses cut at slug boundaries (10.3). -/
def readsOf (tr : List Acc) : List Acc := tr.flatMap (fun a => (pieces 256 a.pa a.len).map (fun (_, p, n) => ⟨p, n⟩))

/-- Count and record the device reads of a trace (R203), but for those counted as their data returned. -/
def noteTrace (s : State) (src : RdSrc) (done : List Nat) (tr : List Acc) : State :=
  (readsOf tr).zipIdx.foldl (fun s (a, k) =>
    if spillBase ≤ a.pa || done.contains k then s else noteRead s a.pa a.len src) s

/-- A record that ran to its end. -/
def Rec.ok (count result coord : Nat) : Rec := ⟨0, 0, false, false, false, false, false, count, 0, coord, result⟩
/-- A record of an abort. -/
def Rec.abort (status detail count pos coord : Nat) : Rec :=
  ⟨status, detail, false, false, false, false, false, count, pos, coord, 0⟩

/-! ### The task in flight -/

/-- A task just admitted. -/
def TaskRun.start (idx : Nat) (desc : List Byte) (now : Nat) (ad : Option Adapter) : TaskRun :=
  ⟨idx, desc, now, [], [], [], 0, [], 0, 0, 0, none, none, ad, 0, false, 0, false, false, 0, none, true⟩

/-- Descriptor fields. -/
def TaskRun.type (t : TaskRun) : Nat := leAt t.desc 0 1
def TaskRun.tag (t : TaskRun) : Nat := leAt t.desc 4 4
def TaskRun.u32 (t : TaskRun) (o : Nat) : Nat := leAt t.desc o 4
def TaskRun.u64 (t : TaskRun) (o : Nat) : Nat := leAt t.desc o 8

/-- Replace the task of a stream. -/
def setTask (s : State) (i : Nat) (t : TaskRun) : State := setStream s i { stream s i with task := some t }

/-- The task of a stream that still runs, if its type is the given one and the domains it needs run (R55). -/
def runningTask (s : State) (i type : Nat) : Option TaskRun :=
  match (stream s i).task with
  | some t => if t.done.isNone && t.type == type && engineOk s type then some t else none
  | none => none

/-- The context of a stream's task. -/
def taskCtx (s : State) (i : Nat) (t : TaskRun) : Ctx := ⟨s, i, streamFn s i, streamPart s i, t.land, t.ex⟩

/-- A core as the spec leaves it at reset: it holds no segment. -/
def CoreSt.free : CoreSt := ⟨none, none, false⟩

/-- The table a task names (R242): a gather, SCATTER_ADD or FOLD, or a space-1 end of a COPY. -/
def TaskRun.table (t : TaskRun) : Option Nat :=
  if 1 ≤ t.type ∧ t.type ≤ 4 then some (t.u32 8)
  else if t.type = 8 ∧ (t.u32 8 % 4 = 1 ∨ t.u32 8 / 4 % 4 = 1) then some (t.u32 0x0C) else none

/-- The streams whose task in flight names a table. -/
def naming (s : State) (h : Nat) : List Nat :=
  (s.streams.filter (fun e => match e.2.task with
    | some t => t.done.isNone && t.table == some h
    | none => false)).map (·.1)

/-- Whether the task in flight on stream i keeps an earlier view of a table, and the table as it uses it. -/
def keepsOld (t : Table) (i : Nat) : Bool := t.olds.any (·.by_.contains i)
def viewOf (t : Table) (i : Nat) : Table :=
  match t.olds.find? (·.by_.contains i) with
  | some o => { t with code := o.code, stores := o.stores }
  | none => t

/-- The table that the task in flight on stream i, of partition number p, reaches under a handle (R115, R227, R250). -/
def taskTable (s : State) (i p h : Nat) : Option Table :=
  match lk s.tables h with
  | some t => if keepsOld t i || reaches t p then some (viewOf t i) else none
  | none => none

/-- Device pages of stores. -/
def devPages (l : List Store) : List Nat :=
  l.flatMap (fun x => x.pages.filterMap (fun q => match q with | .dev p => some p | .host .. => none))

/-- A table's earlier views lose stream i; the pages that no view keeps await zeroing (R250). -/
def dropOld (s : State) (i : Nat) : State :=
  s.tables.foldl (fun s (h, t) =>
    if !keepsOld t i then s
    else
      let l := (t.olds.map (fun o => { o with by_ := o.by_.filter (· != i) })).filter (fun o => !o.by_.isEmpty)
      let kept := devPages t.stores ++ l.flatMap (fun o => devPages o.stores)
      let gone := (t.olds.flatMap (fun o => devPages o.stores)).filter (fun p => !kept.contains p)
      releasePages { s with tables := put s.tables h { t with olds := l } } t.owner gone) s

/-- Whether a page holds an adapter that is loaded or that a task in flight, but for stream i's, was admitted with
(R327, R328). -/
def adapterUses (s : State) (i p : Nat) : Bool :=
  s.adapters.any (fun e => e.2.pages.contains p) ||
  s.streams.any (fun e => e.1 != i && (match e.2.task with
    | some t => t.done.isNone && (match t.adapter with | some a => a.pages.contains p | none => false)
    | none => false))

/-- The pages of an adapter that nothing uses any more await zeroing, released by their owner (R327). -/
def freeAdapter (s : State) (i : Nat) (a : Adapter) : State :=
  a.pages.foldl (fun s p =>
    if adapterUses s i p then s
    else match pageUse s p with
    | .object o => setPage s p (.zeroing o)
    | _ => s) s

/-- The task of stream i gives up the adapter it was admitted with. -/
def dropAdapter (s : State) (i : Nat) : State :=
  match (stream s i).task with
  | some t => (match t.adapter with | some a => freeAdapter s i a | none => s)
  | none => s

/-- No core holds a segment of a stream's task any more (R292). -/
def dropSegs (s : State) (i : Nat) : State :=
  let keep (x : Option Seg) : Option Seg := match x with | some g => if g.strm == i then none else some g | none => none
  let cs := s.cores.map (fun e => (e.1, { e.2 with work := keep e.2.work, fill := keep e.2.fill }))
  { s with cores := cs.filter (fun e => e.2.work.isSome || e.2.fill.isSome) }

/-- A function's refused translations are forgotten: a later task asks again (R71). -/
def dropRefused (s : State) (f : Nat) : State :=
  { s with hif := { s.hif with ats := s.hif.ats.filter (fun e => e.2 || e.1 / 2 ^ 52 != f) } }

/-- A FOLD of a stream ends: below 0x10 its ledger's gate opens and FOLD_PENDING ends; else the ledger keeps the
gate closed and the bytes that a later FOLD must repeat (R352, R358). -/
def endFold (s : State) (i : Nat) (t : TaskRun) (status : Nat) : State :=
  { s with tables := s.tables.map (fun e =>
      if e.2.fold == some i then
        (e.1, if status < 16 then { e.2 with fold := none, gateClosed := false, pend := none }
          else { e.2 with fold := none, pend := some ⟨slice t.desc 0x0C 28⟩ })
      else e) }

/-- A stream's task holds no text unit and waits for none (R438). -/
def dropUnit (s : State) (i : Nat) : State :=
  { s with units := s.units.filter (fun e => e.2 != i), unitWait := s.unitWait.filter (fun e => e.1 != i) }

/-- Buffer pages held for the task of a stream are held for it no longer; one that is held for none awaits zeroing
(6.7.3). -/
def dropHeld (s : State) (i : Nat) : State :=
  let s := dropAdapter (dropOld s i) i
  { s with pages := s.pages.map (fun e => match e.2 with
      | .heldBuffer p v l =>
        if l.contains i then (e.1, if (l.erase i).isEmpty then .zeroing p else .heldBuffer p v (l.erase i)) else e
      | _ => e) }

/-- The task ends with a record; what had landed for it is dropped. -/
def endTask (s : State) (i : Nat) (t : TaskRun) (r : Rec) : State :=
  let s := endFold (dropRefused (dropHeld (dropUnit (dropSegs s i) i) i) (streamFn s i)) i t r.status
  setTask s i { t with land := [], asked := [], stallAt := none, waitAt := none, waiting := false, done := some r }

/-- Issue what an evaluation needs: host reads and translations not yet asked for, exchanges not yet opened. The
HOST_STALL timer starts with the first host read outstanding (R87). -/
def issueNeeds (s : State) (i : Nat) (t : TaskRun) : List Need → State
  | [] => setTask s i t
  | .host a n :: l =>
    if t.asked.contains (landKey a n) then issueNeeds s i t l
    else issueNeeds s i { t with
      asked := t.asked ++ [landKey a n], stallAt := some (t.stallAt.getD s.clk.timer) } l
  | .ats f p :: l =>
    let k := (f, p)
    if s.hif.atsAsked.contains k then issueNeeds s i t l
    else issueNeeds { s with hif := { s.hif with atsAsked := s.hif.atsAsked ++ [k] } } i t l
  | .msg key dst b :: l =>
    if has t.ex key then issueNeeds s i t l
    else
      let (e, s) := if mayOpen s dst t.admitted then openExch s dst (streamPart s i) b
        else (⟨0, dst, b, s.clk.timer, [], 2⟩, s)
      issueNeeds s i { t with ex := put t.ex key e } l

/-- A record to a task's log, with the task's stream, type and TAG (Table 18.7). -/
def postTask (s : State) (i : Nat) (t : TaskRun) (type sev p0 p1 p2 p3 : Nat) : State :=
  let p := streamPart s i
  postOne s p { evRec type sev p p0 p1 p2 p3 with
    stream := i, taskType := BitVec.ofNat 8 t.type, tag := BitVec.ofNat 32 t.tag }

/-- The slot of a stream within its function. -/
def streamSlot (s : State) (i : Nat) : Nat := match (stream s i).slot with | some (_, k) => k | none => 0

/-! ### The quoin (R287, R288) -/

/-- A partition that has no bucket. -/
def PQuo.none : PQuo := ⟨0, 0, 0, false⟩

/-- The tokens that a stream's reads can take now: its own bucket's and its partition's. -/
def tokens (s : State) (i : Nat) : Nat :=
  let p := streamPart s i
  if p < 32 then min (stream s i).level (lkD s.quo p PQuo.none).level else (stream s i).level

/-- Whether a read is of a whole slug (10.3). -/
def Acc.slug (a : Acc) : Bool := a.pa % 256 == 0 && a.len == 256

/-- Reads are issued: each takes a token of every bucket that it is charged to, and is counted (Table 10.5). -/
def takeReads (s : State) (i : Nat) (l : List Acc) : State :=
  let p := streamPart s i
  let f := streamFn s i
  let k := streamSlot s i
  let n := (l.filter Acc.slug).length
  let x := stream s i
  let s := setStream s i { x with level := x.level - l.length }
  let s := { s with quo := adj s.quo p (fun q => { q with level := q.level - l.length }) }
  cntAdd (cntAdd s (rk f (0x3400 + 8 * k)) n) (rk f (0x3600 + 8 * k)) (l.length - n)

/-- Issue the reads of a trace, which begins at read number `base`, that tokens admit, from the first not yet issued;
whether all are issued now. -/
def chargeReads (s : State) (i : Nat) (t : TaskRun) (tr : List Acc) : Bool × TaskRun × State :=
  let l := (readsOf tr).drop (t.issued - t.base)
  let k := min l.length (tokens s i)
  let s := takeReads s i (l.take k)
  let s := if k < l.length then
      { s with quo := adj s.quo (streamPart s i) (fun q => { q with refused := q.refused || q.level == 0 }) }
    else s
  (k == l.length, { t with issued := t.issued + k }, s)

/-- What a task can do next: it needs something from outside, or, once the reads of its walks are admitted, it goes on
by `go`. `note` names the source for the records of its reads; FOLD records its own as it makes them. -/
inductive Plan where
  | need (l : List Need)
  | fin (note : Bool) (tr : List Acc) (go : TaskRun → State → State)

/-- Carry out a plan (R285, R287). -/
def runPlan (s : State) (i : Nat) (t : TaskRun) : Plan → State
  | .need l => issueNeeds s i t l
  | .fin note tr go =>
    match chargeReads s i t tr with
    | (false, t, s) => setTask s i t
    | (true, t, s) =>
      let s := if note then noteTrace s .task t.returned tr else s
      go { t with returned := List.range (readsOf tr).length } s

end Sys2Proof.Machine
end

