-- ==== Sys2Proof/Machine/Power.lean ====
section
/-! DEFINITION. Power states, voltage, clocks and heat (chapter 2): demand and the power-state controller (R31, R46 to
R57), AVS (R45, R549), DCO trim (R42, R43), the stack steps and the throttle loop (R58 to R60), and what the loops
report (R61 to R63). -/

namespace Sys2Proof.Machine

/-! ### Which domain a register lives in (Table 5.4) -/

/-- The fast domain that an RL register has as its home (Table 1.1); none for the front end, for AON, and for the
registers of other access types. -/
def homeOf (bar2 : Bool) (off : Nat) : Option Nat :=
  let o := off % 65536
  let within (a b : Nat) : Bool := decide (a ≤ o) && decide (o < b)
  if bar2 then
    match off / 65536 with
    | 2 => if o = 0x40C || within 0x500 0xA00 || o = 0xA00 || o = 0xA04 then some 1 else none
    | 4 => if within 0x10 0x18 || within 0x30 0x3C || (within 0x1000 0x2000 && o % 256 < 0x80 && o % 256 != 4) then some 2
      else none
    | 5 => if within 0 8 || within 0x30 0x200 || within 0x2000 0x6000 then some 0 else none
    | 6 => if within 0x80 0x1900 then some 0 else if within 0x2000 0x2100 then some 1 else none
    | 7 => some 1
    | 8 => some 0
    | 9 => if within 0 0x10 || within 0x100 0x110 || within 0x200 0x210 || within 0x300 0x308 || within 0x500 0x508 then some 4
      else none
    | _ => none
  else if within 0x2000 0x3000 then (if [0x04, 0x24, 0x28].contains (o % 64) then some 3 else none)
  else if within 0x3360 0x33C0 then some 4
  else if within 0x3100 0x3400 then some 0
  else if within 0x3000 0x4000 || o = 0x5014 then some 3
  else if within 0x6200 0x6400 then some 0
  else none

/-! ### Demand (R31, R53, R54) -/

/-- The domains of WAKE_SET, from its bit 0 up (R54). -/
def wakeBit (d : Nat) : Option Nat :=
  match d with | 0 => some 16 | 1 => some 17 | 2 => some 18 | 4 => some 19 | _ => none

/-- Whether a stream demands a domain. -/
def streamDemand (s : State) (x : Stream) (i d : Nat) : Bool :=
  let work := x.slot.isSome && bitOf (strEff s i 8) 0 && x.tail != x.head && admitOpen s (streamFn s i)
  let wake := match wakeBit d with | some b => bitOf (strEff s i 0x30) b | none => d == 3
  (work && wake) || (!x.fetched.isEmpty && d == 3 && admitOpen s (streamFn s i)) ||
  (match x.task with
   | some t => d == 3 || (t.done.isNone && ((typeDomains t.type).contains d || (d == 2 && !t.ex.isEmpty)))
   | none => false) ||
  (d == 1 && decide (s.clk.aon < x.holdUntil))

/-- Whether the work of pod members or of this device's exchanges demands a domain. -/
def podDemand (s : State) (d : Nat) : Bool :=
  (d == 2 && (!s.pod.outbox.isEmpty || !s.pod.inbox.isEmpty)) ||
  ((d == 0 || d == 1 || d == 3) && (!s.pod.ownerReqs.isEmpty || !s.pod.inbox.isEmpty))

/-- Whether any input demands a domain (R31). -/
def demand (s : State) (d : Nat) : Bool :=
  if dpStop s then false
  else
    s.streams.any (fun e => streamDemand s e.2 e.1 d) || podDemand s d ||
    (d == 5 && (s.mbx.any (fun e => e.2.latched.isSome || e.2.orphan.isSome) || s.fw.restart.isSome)) ||
    ((d == 5 || d == 1) && s.ops.any (fun o => o.st == .running)) ||
    (d == 3 && s.hif.snap.any (fun e => e.2.pending.isSome)) ||
    s.hif.stalled.any (fun r => homeOf r.2.1 r.2.2.1 == some d) ||
    (d == 1 && s.bg.inBatch)

/-- The deepest state in effect (R49). -/
def deepest (s : State) : Nat := min s.pwr.permit (mgmt s 0)

/-- Change a domain. -/
def setDom (s : State) (d v : Nat) : State := { s with pwr := { s.pwr with dom := setD s.pwr.dom d v 0 } }

/-- A demand on a domain: a gated one runs again; one stopped or powered down has the trigger of its wake (R47, R51). The
other domains stay as they are (R53, R56, R142, 5.10.2). -/
def demandOn (s : State) (d : Nat) : State :=
  let s := { s with pwr := { s.pwr with demandAt := put s.pwr.demandAt d s.clk.aon } }
  if dom s d = 0 then s
  else if dom s d = 1 then setDom s d 0
  else { s with pwr := { s.pwr with waking := if s.pwr.waking.contains d then s.pwr.waking else s.pwr.waking ++ [d] } }

/-- The device leaves a state deeper than the deepest now in effect (R562). -/
def enforceDeepest (s : State) : State :=
  if 2 ≤ devState s && decide (deepest s < devState s) && !s.pwr.globalStop && !s.pwr.thermtrip then
    { s with pwr := { s.pwr with waking := List.range 6 } }
  else s

/-- POWER_STATE_EVALUATE: one evaluation of every input (R31). -/
def execPowerStateEvaluate (s : State) : Host.Outcome State Fault Refusal :=
  .next (if s.pwr.off || s.pwr.thermtrip || s.pwr.globalStop then s
    else enforceDeepest (((List.range 6).filter (demand s)).foldl demandOn s))

/-- IDLE_ENTRY: a domain without demand for PWR_HOLD_IDLE gates itself (R49). -/
def execIdleEntry (d : Dom) (s : State) : Host.Outcome State Fault Refusal :=
  .next (if dom s d.val = 0 && !demand s d.val && !dpStop s &&
      decide (lkD s.pwr.demandAt d.val 0 + bar2Eff s 0x30008 ≤ s.clk.aon)
    then setDom s d.val 1 else s)

/-- Either AVS interface is in fault (R549). -/
def avsFault (s : State) : Bool := s.pwr.avs0.fault || s.pwr.avs1.fault

/-- No task, remote request or completion write is in flight, and no stream has work (Table 2.7). -/
def quiet (s : State) : Bool :=
  s.streams.all (fun e => e.2.tail == e.2.head && e.2.task.isNone && e.2.fetched.isEmpty) &&
  s.pod.ownerReqs.isEmpty && s.pod.inbox.isEmpty && s.pod.outbox.isEmpty && (List.range 6).all (fun d => !demand s d)

/-- Every fast domain stops at the retention levels, after the write-combining buffers are written back (R45, R208). -/
def intoDoze (s : State) : State :=
  let s := wcbFlush s
  { s with pwr := { s.pwr with
      dom := (List.range 6).map (fun d => (d, max 2 (dom s d))), vdd := 500, dozeAt := s.clk.aon, waking := []
      vddOp := if 2 ≤ devState s then s.pwr.vddOp else s.pwr.vdd } }

/-- DOZE_ENTRY (R49, R51): a demand before the self-refresh command cancels the entry. -/
def execDozeEntry (s : State) : Host.Outcome State Fault Refusal :=
  let last := ((List.range 6).map (fun d => lkD s.pwr.demandAt d 0)).foldl max 0
  let h := max 100 (bar2Eff s 0x3000C)
  .next (if devState s = 1 && 2 ≤ deepest s && !avsFault s && !dpStop s && quiet s &&
      decide (last + h * usT ≤ s.clk.aon) then intoDoze s else s)

/-- DEEP_ENTRY (R49, R51). -/
def execDeepEntry (s : State) : Host.Outcome State Fault Refusal :=
  let h := max 10 (bar2Eff s 0x30010)
  .next (if devState s = 2 && 3 ≤ deepest s && !avsFault s && !dpStop s && quiet s && s.pwr.waking.isEmpty &&
      decide (s.pwr.dozeAt + h * msT ≤ s.clk.aon) then setDom s 1 3 else s)

/-- A channel enters FAILED (R214). -/
def failChannel (s : State) (c : Nat) : State :=
  if lkD s.mem.chState c 0 = 0 then
    postG { s with mem := { s.mem with chState := put s.mem.chState c 1 } } 0x0404 5 c 0 0 0
  else s

/-- Full retrains of a wake: a record each, and FAILED for a channel that fails it (R48). -/
def fullRetrains (s : State) (quick full : List Nat) : State :=
  quick.foldl (fun s c =>
    let s := postG s 0x0407 2 (c + 256 * b2n (!full.contains c)) 0 0 0
    if full.contains c then failChannel s c else s) s

/-- VDD_SRAM for a VDD_CORE (R549). -/
def sramFor (v : Nat) : Nat := min 850 (max 750 (v + 50))

/-- The rails go to an operating point within the bounds before any domain runs (R45); they are there already where one
runs or is gated. -/
def railsUp (s : State) : State :=
  if devState s < 2 then s
  else
    let v := max (mgmt s 1) (min (mgmt s 2) s.pwr.vddOp)
    { s with pwr := { s.pwr with
        vdd := v, avs0 := { s.pwr.avs0 with conf := v }, avs1 := { s.pwr.avs1 with conf := sramFor v } } }

/-- Domains run again; the DCO of each starts from the code of its last trim with the target lowered until the first trim
(R43, R47). -/
def awake (s : State) (l : List Nat) : State :=
  let s := railsUp s
  { s with pwr := { s.pwr with
      dom := l.foldl (fun t d => setD t d 0 0) s.pwr.dom
      waking := s.pwr.waking.filter (fun d => !l.contains d)
      demandAt := l.foldl (fun t d => put t d s.clk.aon) s.pwr.demandAt
      dcoLow := l.foldl (fun t d => put t d true) s.pwr.dcoLow } }

/-- DOZE_WAKE (Table 2.5, R48): the channels that fail the self-refresh exit retrain quickly, and those that fail that
retrain fully. -/
def execDozeWake (sync quick full : List Ch) (s : State) : Host.Outcome State Fault Refusal :=
  let l := s.pwr.waking.filter (fun d => dom s d == 2)
  .next (if !l.isEmpty && !dpStop s then
      let s := if l.contains 1 then fullRetrains s ((quick.filter sync.contains).map (·.val)) (full.map (·.val)) else s
      awake s l
    else s)

/-- DEEP_WAKE (Table 2.6, R48). -/
def execDeepWake (quick full : List Ch) (s : State) : Host.Outcome State Fault Refusal :=
  .next (if s.pwr.waking.contains 1 && dom s 1 = 3 && !dpStop s then
      awake (fullRetrains s (quick.map (·.val)) (full.map (·.val))) (s.pwr.waking.filter (fun d => 2 ≤ dom s d))
    else s)

/-! ### What the loops report (R61, R62) -/

/-- A loop that has reported nothing. -/
def Loop.zero : Loop := ⟨0, 0, 0, 0⟩
/-- Loop n. -/
def loop (s : State) (n : Nat) : Loop := lkD s.pwr.loops n Loop.zero
/-- Replace loop n. -/
def setLoop (s : State) (n : Nat) (l : Loop) : State :=
  { s with pwr := { s.pwr with loops := setD s.pwr.loops n l Loop.zero } }

/-- PINNED follows the loop's step, and each entry counts (R61). -/
def setPinned (s : State) (n p : Nat) : State :=
  let l := loop s n
  setLoop s n { l with pinned := p, pinCnt := l.pinCnt + b2n (l.pinned == 0 && p != 0) }

/-- A loop crosses a bound: counted and recorded once (R62). -/
def crossOn (s : State) (n reason : Nat) : State :=
  let l := loop s n
  if l.crossed ≠ 0 then s
  else postG (setLoop s n { l with crossed := reason, ovrCnt := l.ovrCnt + 1 }) 0x0901 2 (n + 16 * reason + 256) 0 0 0

/-- The crossing ends with its record (R62). -/
def crossOff (s : State) (n : Nat) : State :=
  let l := loop s n
  if l.crossed = 0 then s else postG (setLoop s n { l with crossed := 0 }) 0x0901 2 (n + 16 * l.crossed) 0 0 0

/-! ### The CORE clock and its caps (R31, R58, R59, R549) -/

/-- CORE and TOKEN caps of a stack step, MHz (Table 2.8). -/
def coreCap (step : Nat) : Nat := [1400, 1000, 600, 400].getD step 400
def tokenCap (step : Nat) : Nat := [1000, 1000, 500, 250].getD step 250

/-- The highest step of Table 2.2 whose voltage a confirmed VDD_CORE serves (R549). -/
def faultCap (mv : Nat) : Nat :=
  if 780 ≤ mv then 1400 else if 690 ≤ mv then 1200 else if 620 ≤ mv then 1000 else if 570 ≤ mv then 800
  else if 530 ≤ mv then 600 else 400

/-- The cap that AVS sets. -/
def avsLimit (s : State) : Nat := if avsFault s then min s.pwr.avsCap (faultCap s.pwr.avs0.conf) else s.pwr.avsCap

/-- The lowest cap in force. -/
def clkCap (s : State) : Nat := min (min (coreCap s.pwr.step) (avsLimit s)) (mgmt s 6)

/-- What holds the clock (PWR_CORE_CLK[14:12]). -/
def whyOf (s : State) (clk : Nat) : Nat :=
  if s.pwr.globalStop then 5
  else if avsFault s then 1
  else if (loop s 2).crossed ≠ 0 || (loop s 0).crossed ≠ 0 then 4
  else if clk < clkCap s then 3
  else if avsLimit s ≤ clk && avsLimit s < mgmt s 6 then 1
  else if coreCap s.pwr.step < mgmt s 6 then 2
  else 0

/-- Set the CORE clock, never above the lowest cap. -/
def setClk (s : State) (clk : Nat) : State :=
  let c := min clk (clkCap s)
  { s with pwr := { s.pwr with coreClk := c, clkWhy := whyOf s c } }

/-- THERMAL_THROTTLE_STEP (R59, R62, R63). -/
def throttleStep (s : State) : State :=
  let clk := s.pwr.coreClk
  let fmin := mgmt s 5
  let fmax := mgmt s 6
  let hot := decide (100 ≤ s.pwr.logicT)
  if (loop s 2).crossed = 1 && !hot then
    let s := setClk s (if clk < fmin then clk + 50 else clk)
    if fmin ≤ s.pwr.coreClk then setClk (crossOff s 2) s.pwr.coreClk else s
  else if mgmt s 4 < s.pwr.logicT then
    let low := if hot then 400 else fmin
    if low + 50 ≤ clk then
      let s := setPinned (setClk s (clk - 50)) 2 0
      if clk - 50 < fmin then setClk (crossOn s 2 1) (clk - 50) else s
    else setPinned s 2 1
  else if s.pwr.logicT + 2 ≤ mgmt s 4 then
    if clk + 50 ≤ clkCap s then setPinned (setClk s (clk + 50)) 2 0
    else
      setPinned (setClk s clk) 2
        (if clk = fmax && fmax < 1400 && fmax ≤ coreCap s.pwr.step && fmax ≤ avsLimit s then 2 else 0)
  else setPinned (setClk s clk) 2 0

def execThermalThrottleStep (s : State) : Host.Outcome State Fault Refusal :=
  .next (if isDue s .throttle && !s.pwr.off && !s.pwr.thermtrip then throttleStep (setDue s .throttle 2500) else s)

/-! ### Temperature (R58, R60) -/

/-- Enter and leave temperatures of the stack steps (Table 2.8). -/
def stepEnter (t : Nat) : Nat := if 105 ≤ t then 3 else if 95 ≤ t then 2 else if 85 ≤ t then 1 else 0
def stepKeep (step t : Nat) : Nat :=
  if step = 3 ∧ 102 ≤ t then 3
  else if 2 ≤ step ∧ 92 ≤ t then 2
  else if 1 ≤ step ∧ 82 ≤ t then 1 else 0

/-- The temperature of each stack: the higher of its two sensors and its channels' MR4 readings (2.7). -/
def stackTemps (s : State) (sens : List Byte) : List Nat :=
  (List.range 8).map (fun k =>
    ((List.range 8).map (fun j => lkD s.mem.mr4Temp (8 * k + j) 0)).foldl max
      (max (sens.getD (2 * k) 0).toNat (sens.getD (2 * k + 1) 0).toNat))

/-- THERMTRIP_N asserts: every fast clock stops and every channel enters self-refresh (R60). -/
def tripNow (s : State) : State :=
  let s := intoDoze (hold s allFns)
  postG { s with pwr := { s.pwr with thermtrip := true } } 0x0902 5 (s.pwr.logicT + 256 * s.pwr.stackT) 0 0 0

/-- What a sample of every sensor leaves: the hottest stack and logic readings, whether one is past the trip point, and
the stack step. -/
def readTemps (s : State) (sens logic : List Byte) : State :=
  let st := stackTemps s sens
  let h : Nat := st.foldl max 0
  let l : Nat := (logic.map (·.toNat)).foldl max 0
  { s with pwr := { s.pwr with
      stackT := h, logicT := l, stackTs := st
      trip := decide (115 ≤ l) || (sens.any (fun b => decide (110 ≤ b.toNat)))
      step := max (stepEnter h) (stepKeep s.pwr.step h) } }

/-- A sample of every sensor. -/
def tempSample (s : State) (sens logic : List Byte) : State :=
  let was := s.pwr.trip
  let s := readTemps s sens logic
  let step := s.pwr.step
  let s := if step = 3 then hold s allFns else s
  let s := if step ≠ 0 && coreCap step < s.pwr.coreClk then setClk s s.pwr.coreClk
    else { s with pwr := { s.pwr with clkWhy := whyOf s s.pwr.coreClk } }
  if s.pwr.trip && was && !s.pwr.thermtrip then tripNow s else s

/-- TEMPERATURE_SAMPLE: sensors 2k and 2k + 1 of stack k, and the sixteen logic sensors. -/
def execTemperatureSample (stackT logicT : List Byte) (s : State) : Host.Outcome State Fault Refusal :=
  .next (if isDue s .temp && !s.pwr.off && s.fw.bootPhase != 0 then tempSample (setDue s .temp 250) stackT logicT else s)

/-! ### AVS (R45, R63, R549) -/

/-- A command of a voltage, confirmed by both regulators. -/
def command (s : State) (v : Nat) : State :=
  { s with pwr := { s.pwr with
      vdd := v, vddOp := v, avs0 := { s.pwr.avs0 with conf := v, fails := 0 }
      avs1 := { s.pwr.avs1 with conf := sramFor v, fails := 0 } } }

/-- AVS_STEP: `least` is the least voltage at which every monitor of a running domain shows positive margin. -/
def avsStep (s : State) (least : Nat) : State :=
  let lo := max 500 (mgmt s 1)
  let hi := min 800 (mgmt s 2)
  let want := cdiv (least + s.bg.agingG) 5 * 5
  let s := if avsFault s then s else command s (max lo (min hi want))
  let s := setPinned s 0 (if want < lo then 1 else if hi < want then 2 else 0)
  if hi < least then
    let clk := max 400 (s.pwr.coreClk - 50)
    let s := { s with pwr := { s.pwr with avsCap := clk } }
    let s := if clk < mgmt s 5 then crossOn s 0 2 else s
    setClk s clk
  else
    let s := { s with pwr := { s.pwr with avsCap := min 1400 (s.pwr.avsCap + 50) } }
    if (loop s 0).crossed = 2 then
      let s := setClk s (if s.pwr.coreClk < mgmt s 5 then s.pwr.coreClk + 50 else s.pwr.coreClk)
      if mgmt s 5 ≤ s.pwr.coreClk then setClk (crossOff s 0) s.pwr.coreClk else s
    else s

def execAvsStep (leastMv : Nat) (s : State) : Host.Outcome State Fault Refusal :=
  .next (if isDue s .avs && !s.pwr.off && !s.pwr.thermtrip then
      let s := setDue s .avs 2500
      if devState s = 0 then avsStep s leastMv else s
    else s)

/-- AVS_COMMAND_RETRY: a repeated command of one interface was acknowledged, or had no valid response (R549). -/
def execAvsCommandRetry (iface : Fin 2) (acked : Bool) (s : State) : Host.Outcome State Fault Refusal :=
  let a := if iface.val = 0 then s.pwr.avs0 else s.pwr.avs1
  let v := if iface.val = 0 then s.pwr.vdd else if 2 ≤ devState s then 700 else sramFor s.pwr.vdd
  let b : Avs :=
    if acked then { a with fault := false, fails := 0, conf := v }
    else { a with fault := a.fault || decide (3 ≤ a.fails + 1), fails := a.fails + 1, due := s.clk.aon + msT }
  .next (if s.pwr.off || (a.fault && decide (s.clk.aon < a.due)) then s
    else
      let s := { s with pwr := if iface.val = 0 then { s.pwr with avs0 := b } else { s.pwr with avs1 := b } }
      setClk s s.pwr.coreClk)

/-! ### DCO trim (R42, R43, R63) -/

/-- The expected count of a trim window, in eighths of a count: 320 × MHz (Table 2.1). -/
def trimExpected (s : State) (d : Nat) : Nat :=
  match d with
  | 0 => 320 * s.pwr.coreClk
  | 1 => 213340
  | 2 => 265625
  | 3 => 320000
  | 4 => 320 * tokenCap s.pwr.step
  | _ => 256000

/-- Round a ratio to the nearest integer, ties to even. -/
def roundNe (n : Int) (d : Nat) : Int :=
  let q := n / (d : Int)
  let r := 2 * (n % (d : Int))
  if r < d then q else if (d : Int) < r then q + 1 else if q % 2 = 0 then q else q + 1

/-- One trim: the error in ppm, the corrected code, and the extra trims while an error exceeds 0.5%. -/
def dcoTrim (s : State) (d measured : Nat) : State :=
  let e := trimExpected s d * (if lkD s.pwr.dcoLow d false then 99 else 100)
  let num : Int := ((measured * 800 : Nat) - (e : Int)) * 1000000
  let ppm := roundNe num (max e 1)
  let code : Int := (lkD s.pwr.dcoCode d 0 : Nat) - roundNe num (max (e * 1000) 1)
  let code := if code < 0 then 0 else if 4095 < code then 4095 else code
  let big := decide (5000 < ppm) || decide (ppm < -5000)
  let s := { s with pwr := { s.pwr with
      dcoCode := setD s.pwr.dcoCode d code.toNat 0, dcoErr := setD s.pwr.dcoErr d (twos 16 ppm) 0
      dcoLow := setD s.pwr.dcoLow d false false, dcoFast := setD s.pwr.dcoFast d big false } }
  if big then crossOn s 1 2
  else if s.pwr.dcoFast.isEmpty && (loop s 1).crossed = 2 then crossOff s 1 else s

/-- DCO_TRIM: `measured` is the count of one 40 us window; an override suspends the domain's loop. -/
def execDcoTrim (d : Dom) (measured : Nat) (s : State) : Host.Outcome State Fault Refusal :=
  let ovr := bitOf (bar2Eff s (0x30080 + 4 * d.val)) 31
  let due := isDue s (.trim d.val) || lkD s.pwr.dcoFast d.val false || lkD s.pwr.dcoLow d.val false
  .next (if due && !s.pwr.off && !s.pwr.thermtrip then
      let s := if isDue s (.trim d.val) then setDue s (.trim d.val) (25 * mgmt s 3) else s
      if dom s d.val ≤ 1 && !ovr then dcoTrim s d.val measured else s
    else s)

end Sys2Proof.Machine
end

