-- ==== Sys2Proof/Machine/Background.lean ====
section
/-! DEFINITION. Background work on memory and the NOR log (chapter 19): patrol scrub and its rate (R204, R505 to
R507), calibration and retraining (R509), aging (R511), the NOR ring and its wear bucket (R512, R513), the posting of
events and their loss summaries (R33, R499). -/

namespace Sys2Proof.Machine

/-! ### Patrol scrub -/

/-- Check groups of a channel (19.13). -/
def scrubGroups (s : State) : Nat := if s.ident.ordering = 2 then 1572864 else 1048576

/-- The pass period of a scrub step, in AON periods (Table 19.2). -/
def passPeriod (step : Nat) : Nat := [1440, 960, 720, 480, 360, 240, 180, 120].getD step 120 * 60 * secT

/-- A group of channel c is due: the cursor lies below the group that brings it to schedule (R505). -/
def groupDue (s : State) (c : Nat) : Bool :=
  decide (lkD s.bg.cursor c 0 * passPeriod s.bg.scrubStep <
    (s.clk.aon - lkD s.bg.passAt c 0) * scrubGroups s)

/-- The channel lags its due group by more than one. -/
def groupBehind (s : State) (c : Nat) : Bool :=
  decide ((lkD s.bg.cursor c 0 + 1) * passPeriod s.bg.scrubStep <
    (s.clk.aon - lkD s.bg.passAt c 0) * scrubGroups s)

/-- The slug within page P that a channel's usable index l holds, where a page holds one there. -/
def slugAt (s : State) (c l : Nat) : Option Nat :=
  (List.range 256).find? (fun i => slugLoc s (l / 4) i == .at_ c l)

/-- Turn the bits of a symbol of a burst as an upset does: a data byte or a check byte. -/
def applySymErr (s : State) (b : BRef) (sym : Nat) (err : Byte) : State :=
  let k := if sym < 64 then b.base + sym else b.check + (sym - 64) % 4
  setCell s k (cell s k ^^^ err)

/-- What scrub does with one burst (R204). -/
def scrubBurst (s : State) (b : BRef) (pa : Nat) : State :=
  let s := if poisonBit s b 0 != poisonBit s b 1 then cntAdd (setPoison s b true) (poisonKey b.ch) 1 else s
  let r := dramRead s b
  match r.kind with
  | .clean => s
  | .poisoned => s
  | .corrected =>
    let s := cntAdd s (ceKey b.ch) 1
    burstStore { s with mem := { s.mem with
      ceRun := updD s.mem.ceRun b.ch 0 (· + 1), ceLast := put s.mem.ceLast b.ch pa } } b r.bytes false
  | .uncorrectable =>
    postG (setPoison (cntAdd s (ueKey b.ch) 1) b true) 0x0403 4 pa (b.ch + 256 * b.j + 65536) 0 0

/-- Register keys of the background block (Table 19.10). -/
def telKey (o : Nat) : Nat := rk2 (0xA0000 + o)

/-- Read check group g of channel c: every burst that belongs to a page that is not retired. -/
def scrubReads (s : State) (c g : Nat) (errs : List (Nat × SymErr)) : State :=
  let s := errs.foldl (fun s (n, e) => applySymErr s ⟨c, 15 * g + n % 15, e.burst % 4⟩ (e.sym % 68) e.err) s
  (List.range 15).foldl (fun s n =>
    let l := 15 * g + n
    match slugAt s c l with
    | none => s
    | some i =>
      if pageUse s (l / 4) = .retired then s
      else (List.range 4).foldl (fun s j => scrubBurst s ⟨c, l, j⟩ ((l / 4 * 256 + i) * 256 + 64 * j)) s) s

/-- Scrub the group at a channel's cursor; the cursor goes on, and a pass that ends is counted. -/
def scrubGroup (s : State) (c : Nat) (errs : List (Nat × SymErr)) : State :=
  let g := lkD s.bg.cursor c 0
  let s := scrubReads s c g errs
  let wrap := decide (scrubGroups s ≤ g + 1)
  let late := decide (passPeriod s.bg.scrubStep * 11 < (s.clk.aon - lkD s.bg.passAt c 0) * 10)
  let s := { s with bg := { s.bg with
    cursor := setD s.bg.cursor c (if wrap then 0 else g + 1) 0
    passAt := if wrap then put s.bg.passAt c s.clk.aon else s.bg.passAt } }
  if wrap then
    let s := cntAdd s (telKey 0x804) 1
    if late then cntAdd s (telKey 0x808) 1 else s
  else s

/-- PATROL_SCRUB_GROUP: at most one a quoin period, in LIVE channels, by the reorder queue's room (R505, R506). -/
def execPatrolScrubGroup (c : Ch) (errs : List (Nat × SymErr)) (s : State) : Host.Outcome State Fault Refusal :=
  let used := (lkD s.mem.reorder c.val []).length
  let room := if groupBehind s c.val then decide (used ≤ 12) else decide (used ≤ 8)
  .next (if isDue s (.group c.val) && runs s 1 && lkD s.mem.chState c.val 0 == 0 && groupDue s c.val && room then
      capped s c.val 64 (fun s => scrubGroup (setDue s (.group c.val) 25) c.val errs)
    else s)

/-- SCRUB_BATCH: in IDLE, once per SCRUB_BATCH_MS, MEMC is demanded for the groups due, and released after (R506). -/
def execScrubBatch (s : State) : Host.Outcome State Fault Refusal :=
  let any := (List.range 64).any (fun c => lkD s.mem.chState c 0 == 0 && groupDue s c)
  .next (if s.pwr.off then s else if s.bg.inBatch then
      (if any then s else { s with bg := { s.bg with inBatch := false } })
    else if dom s 1 = 1 && !dpStop s && any && decide (s.bg.batchAt + mgmt s 11 * msT ≤ s.clk.aon) then
      { s with bg := { s.bg with inBatch := true, batchAt := s.clk.aon } }
    else s)

/-- Corrected and uncorrectable bursts of every channel since cold reset. -/
def totalCe (s : State) : Nat := ((List.range 64).map (fun c => cnt s (ceKey c))).sum
def totalUe (s : State) : Nat := ((List.range 64).map (fun c => cnt s (ueKey c))).sum

/-- SCRUB_RATE_LOOP, at each hour boundary (Table 19.3). -/
def scrubRate (s : State) : State :=
  let ceH := totalCe s - s.bg.ceBase
  let ue := decide (s.bg.ueBase < totalUe s)
  let hi := mgmt s 9
  let lo := mgmt s 10
  let fast := mgmt s 8
  let slow := mgmt s 7
  let crossing := (loop s 3).crossed == 2
  let low := if ceH ≤ lo then s.bg.hoursLow + 1 else 0
  let high := if hi < ceH && s.bg.scrubStep == fast then s.bg.hoursHigh + 1 else 0
  let clean := if !ue && decide (ceH ≤ hi) then s.bg.hoursClean + 1 else 0
  let step := s.bg.scrubStep
  let s := { s with bg := { s.bg with
    ceBase := totalCe s, ueBase := totalUe s, hoursLow := low, hoursHigh := high, hoursClean := clean } }
  if (ue || decide (4 ≤ high)) && decide (fast < 7) then
    crossOn { s with bg := { s.bg with scrubStep := 7, hoursClean := 0 } } 3 2
  else if ue then { s with bg := { s.bg with scrubStep := 7 } }
  else if crossing then
    (if 24 ≤ clean then crossOff { s with bg := { s.bg with scrubStep := fast } } 3 else s)
  else if hi < ceH then
    (if step < fast then setPinned { s with bg := { s.bg with scrubStep := step + 1 } } 3 0
     else setPinned { s with bg := { s.bg with scrubStep := fast } } 3 2)
  else if 24 ≤ low then
    (if slow < step then setPinned { s with bg := { s.bg with scrubStep := step - 1, hoursLow := 0 } } 3 0
     else setPinned s 3 (if 0 < step then 1 else 0))
  else setPinned { s with bg := { s.bg with scrubStep := max slow (min fast step) } } 3 0

def execScrubRateLoop (s : State) : Host.Outcome State Fault Refusal :=
  .next (if isDue s .scrubRate && !s.pwr.off then
      (let s' := setDue s .scrubRate (3600 * secT)
       if s.clk.aon = 0 then s' else scrubRate s')
    else s)

/-! ### Calibration and retraining (R509) -/

/-- The running time of MEMC. -/
def memcRan (s : State) : Nat := lkD s.pwr.ran 1 0

/-- Whether two temperatures differ by at least d. -/
def apart (a b d : Nat) : Bool := decide (a + d ≤ b) || decide (b + d ≤ a)

/-- A due slot or piece begins where the channel's reorder queue holds no foreground request, or after 2 ms of
deferral; otherwise its deferral starts. -/
def slotBegin (s : State) (c key : Nat) (run : State → State) : State :=
  let free := (lkD s.mem.reorder c []).isEmpty
  let forced := match lk s.bg.deferAt key with | some a => decide (a + 2 * msT ≤ s.clk.aon) | none => false
  if free || forced then
    let s := cntAdd { s with bg := { s.bg with deferAt := del s.bg.deferAt key } } (telKey 0x810) 1
    run (if free then s else cntAdd s (telKey 0x814) 1)
  else if has s.bg.deferAt key then s
  else { s with bg := { s.bg with deferAt := put s.bg.deferAt key s.clk.aon } }

/-- CALIBRATION_SLOT: a tracking slot. -/
def execCalibrationSlot (c : Ch) (s : State) : Host.Outcome State Fault Refusal :=
  let t := lkD s.mem.mr4Temp c.val 0
  let due := decide (lkD s.bg.trackAt c.val 0 + mgmt s 13 * msT ≤ memcRan s) || apart t (lkD s.bg.trackTemp c.val 0) 5
  .next (if due && runs s 1 then
      slotBegin s c.val c.val (fun s => { s with bg := { s.bg with
        trackAt := put s.bg.trackAt c.val (memcRan s), trackTemp := put s.bg.trackTemp c.val t } })
    else s)

/-- RETRAIN_PIECE: one of the 20 pieces of a retrain, at least 100 us apart. -/
def execRetrainPiece (c : Ch) (s : State) : Host.Outcome State Fault Refusal :=
  let t := lkD s.mem.mr4Temp c.val 0
  let left := lkD s.bg.pieces c.val 0
  let due := decide (lkD s.bg.retrainAt c.val 0 + mgmt s 14 * secT ≤ memcRan s) ||
    apart t (lkD s.bg.retrainTemp c.val 0) 15
  let next := if left = 0 then due else decide (lkD s.bg.pieceAt c.val 0 + 100 * usT ≤ s.clk.aon)
  .next (if next && runs s 1 then
      slotBegin s c.val (64 + c.val) (fun s =>
        let n := (if left = 0 then 20 else left) - 1
        let s := { s with bg := { s.bg with
          pieces := setD s.bg.pieces c.val n 0, pieceAt := put s.bg.pieceAt c.val s.clk.aon } }
        if n = 0 then { s with bg := { s.bg with
            retrainAt := put s.bg.retrainAt c.val (memcRan s), retrainTemp := put s.bg.retrainTemp c.val t } }
        else s)
    else s)

/-! ### Aging (R511) -/

/-- Insert into a sorted list. -/
def insertI (x : Int) : List Int → List Int
  | [] => [x]
  | y :: t => if x ≤ y then x :: y :: t else y :: insertI x t

/-- The median of a list: of an even count, the mean of the middle two, rounded down (log entry 12). -/
def median (l : List Int) : Int :=
  let m := l.foldr insertI []
  let n := m.length
  if n % 2 = 1 then m.getD (n / 2) 0 else (m.getD (n / 2 - 1) 0 + m.getD (n / 2) 0) / 2

/-- AGING_SAMPLE: (f_ref, f_stress) of each of the sixteen pairs. -/
def execAgingSample (pairs : List (Nat × Nat)) (s : State) : Host.Outcome State Fault Refusal :=
  let d := median (pairs.map (fun (r, x) => ((r : Int) - (x : Int)) * 1000000 / (max r 1 : Nat)))
  let dn := d.toNat
  let target := min 20 (cdiv dn 500)
  let g := max s.bg.agingG (min target (s.bg.agingG + 1))
  .next (if isDue s .aging && runs s 0 then
      let s := setDue s .aging (86400 * secT)
      { s with bg := { s.bg with agingG := g, agingD := dn, agingLimit := s.bg.agingLimit || target == 20 } }
    else s)

/-! ### The event log and NOR (R33, R499, R512, R513) -/

/-- The number of a log. -/
def LogId.num : LogId → Nat
  | .partition p => p.val
  | .driver => 32
  | .global => globalLog

/-- EVENT_POST: one event, to each of its logs in the order of R34. -/
def execEventPost (logs : List LogId) (r : EvRec) (s : State) : Host.Outcome State Fault Refusal :=
  let ns := logs.map LogId.num
  .next (if s.pwr.off then s else post s ((List.range 34).filter ns.contains) r)

/-- The summary of one log's losses, once it can be staged. -/
def lostOne (s : State) (log : Nat) : State :=
  let l := lkD s.evt.logs log LogSt.empty
  if l.lossCnt = 0 || !canStage s.evt (log == globalLog) then s
  else
    let s := { s with evt := { s.evt with logs := put s.evt.logs log { l with lossCnt := 0 } } }
    postOne s log (evRec 0x0F01 2 (if log = globalLog then 63 else log) l.lossCnt
      (l.lossFirst % 2 ^ 32 + 2 ^ 32 * (l.lossLast % 2 ^ 32)) l.lossFirstSeq l.lossLastSeq)

/-- LOST_SUMMARY: one summary in each affected log (R499). -/
def execLostSummary (s : State) : Host.Outcome State Fault Refusal :=
  .next (if s.pwr.off then s else (List.range 34).foldl lostOne s)

/-- An erased block. -/
def NorBlock.empty : NorBlock := ⟨0, 0, 0, []⟩

/-- Append a record to the ring: a full block gives way to the next, and the one after that is erased (R512). -/
def norAppend (s : State) (x : EvStored) : State :=
  let e := s.evt
  let b := lkD e.ring e.cur NorBlock.empty
  if b.recs.length < 1023 then
    let b := if b.recs.isEmpty then { b with boot := e.boot, firstSeq := x.seq } else b
    { s with evt := { e with ring := put e.ring e.cur { b with recs := b.recs ++ [x] } } }
  else
    let n := (e.cur + 1) % 128
    let m := (e.cur + 2) % 128
    let nb := lkD e.ring n NorBlock.empty
    let mb := lkD e.ring m NorBlock.empty
    let ring := put (put e.ring n { nb with boot := e.boot, firstSeq := x.seq, recs := [x] }) m
      { NorBlock.empty with erases := mb.erases + 1 }
    { s with evt := { e with ring := ring, cur := n } }

/-- NOR_WRITE: the oldest staged global record becomes durable (R500, R512). -/
def execNorWrite (s : State) : Host.Outcome State Fault Refusal :=
  .next (match s.evt.staged with
    | [] => s
    | x :: t => if s.pwr.off then s else norAppend { s with evt := { s.evt with staged := t } } x)

/-- NOR_BUCKET_REFILL: a token for each 25,000,000 that the accumulator has reached (R513). -/
def execNorBucketRefill (s : State) : Host.Outcome State Fault Refusal :=
  .next (if s.pwr.off then s else if 25000000 ≤ s.evt.acc then
      { s with evt := { s.evt with acc := s.evt.acc - 25000000, bucket := min 65536 (s.evt.bucket + 1) } }
    else s)

end Sys2Proof.Machine
end

