-- ==== Sys2Proof/Machine/Galley.lean ====
section
/-! DEFINITION. The galley (chapter 9): its check code (R266), cells and the free list (R253, R269, R565), accounts and
grants (R255 to R257), the seven queue operations (R260 to R265), the pointer guard and forced resets (R270 to R272),
counts that cross domains (R273 to R275), and galley scrub (R508). -/

namespace Sys2Proof.Machine

/-! ### The extended Hamming code (R266) -/

/-- The positions from 1 to m that are no power of two, upward. -/
def dataPos (m : Nat) : List Nat := (List.range (m + 1)).filter (fun p => 2 < p && p &&& (p - 1) != 0)

/-- XOR of the positions at which a word's bits are 1. -/
def xorPos (n v : Nat) (pos : List Nat) : Nat :=
  ((List.range n).zip pos).foldl (fun s (i, p) => if bitOf v i then s ^^^ p else s) 0

/-- Parity of the low n bits. -/
def parity (n v : Nat) : Bool := (List.range n).foldl (fun b i => xor b (bitOf v i)) false

/-- The stored word of n data bits with r + 1 check bits above them. -/
def hamEnc (n r v : Nat) : Nat :=
  let c := xorPos n v (dataPos (n + r))
  v + 2 ^ n * c + 2 ^ (n + r) * b2n (xor (parity n v) (parity r c))

/-- What a read makes of a stored word: the data, and whether it was corrected; none where it is uncorrectable. -/
def hamDec (n r raw : Nat) : Option (Nat × Bool) :=
  let v := raw % 2 ^ n
  let c := raw / 2 ^ n % 2 ^ r
  let s := xorPos n v (dataPos (n + r)) ^^^ c
  let e := parity (n + r + 1) raw
  if s = 0 ∧ e = false then some (v, false)
  else if e = true ∧ s ≤ n + r then
    match ((List.range n).zip (dataPos (n + r))).find? (fun x => x.2 == s) with
    | some (i, _) => some (v ^^^ 2 ^ i, true)
    | none => some (v, true)
  else none

/-! ### Cells -/

/-- A metadata entry (Table 9.3). -/
structure Entry where
  next : Nat
  qid : Nat
  acct : Nat
  last : Bool
  poison : Nat
  lenm1 : Nat
deriving DecidableEq, Repr

/-- The 48 bits of an entry, and an entry from them. -/
def Entry.toNat (m : Entry) : Nat :=
  m.next % 65536 + 2 ^ 16 * (m.qid % 4096) + 2 ^ 28 * (m.acct % 4) + 2 ^ 30 * b2n m.last + 2 ^ 31 * (m.poison % 16) +
  2 ^ 35 * (m.lenm1 % 256)
def Entry.ofNat (v : Nat) : Entry :=
  ⟨v % 65536, v / 2 ^ 16 % 4096, v / 2 ^ 28 % 4, bitOf v 30, v / 2 ^ 31 % 16, v / 2 ^ 35 % 256⟩

/-- The end of a list, as a position. -/
def qEnd : Nat := 65536

/-- The stored entry of a cell: at cold reset every cell is free and linked in ascending order. -/
def rawEntry (s : State) (c : Nat) : Nat := (lk s.gal.entries c).getD (hamEnc 48 6 (Entry.toNat ⟨c + 1, 0, 3, false, 0, 0⟩))
/-- The entry of a cell as a read delivers it. -/
def entry (s : State) (c : Nat) : Option Entry := (hamDec 48 6 (rawEntry s c)).map (fun x => Entry.ofNat x.1)
/-- Write a cell's entry. -/
def setEntry (s : State) (c : Nat) (m : Entry) : State :=
  { s with gal := { s.gal with entries := put s.gal.entries c (hamEnc 48 6 m.toNat) } }

/-- The stored word w of a cell. -/
def rawWord (s : State) (c w : Nat) : Nat := lkD s.gal.words (c * 32 + w) 0
def setRawWord (s : State) (c w v : Nat) : State :=
  { s with gal := { s.gal with words := setD s.gal.words (c * 32 + w) v 0 } }

/-- Keys of the galley's own counters (Table 9.6) and of a function's (Table 9.7). -/
def galKey (o : Nat) : Nat := rk2 (0x50000 + o)
def galFnKey (owner o : Nat) : Nat := rk (fnOfPart owner) (0x3100 + o)

/-- A count that belongs to a function's queues rises, where the owner has a function. -/
def galFnAdd (s : State) (owner o n : Nat) : State := if owner ≤ 32 then cntAdd s (galFnKey owner o) n else s

/-! ### Queues (Table 9.1) -/

/-- Class and capacity of a fixed queue, and whether it is always guarded. -/
def fixedQueue (q : Nat) : Option (Nat × Nat × Bool) :=
  let link (v : Nat) : Nat := [3, 2, 0, 3].getD v 3
  if q < 0x40 then some (4, 65536, true)
  else if q < 0x80 then some (1, 65536, false)
  else if q < 0xA0 then some (1, 64, false)
  else if q < 0xE0 then some (link ((q - 0xA0) % 4), 128, true)
  else if q < 0x120 then some (link ((q - 0xE0) % 4), 128, true)
  else if q < 0x160 then some (0, 64, true)
  else if q < 0x1A0 then some (1, 32, false)
  else if q < 0x200 then none
  else if q < 0x300 then some (4, 65536, true)
  else none

/-- The owner of a fixed queue; none while nobody uses it. -/
def fixedOwner (s : State) (q : Nat) : Option Nat :=
  let ofStream (i : Nat) : Option Nat := ((stream s i).slot).map (fun x => partOfFn x.1)
  if q < 0x80 then ofStream (q % 64)
  else if q < 0x1A0 then some 63
  else if 0x200 ≤ q ∧ q < 0x300 then ofStream ((q - 0x200) / 4)
  else none

/-- A queue of a class and owner with nothing in it. -/
def GQueue.fresh (cls owner : Nat) : GQueue :=
  ⟨[qEnd, qEnd, qEnd, qEnd, 0, 0, 0, 0], [qEnd, qEnd, qEnd, qEnd, 0, 0, 0, 0], false, cls, owner, 0, [], false, false,
    0, 0, 0, 0, 0⟩

/-- A queue by ID: as it stands, or as it is when first used; none for an ID not in use. -/
def gq (s : State) (q : Nat) : Option GQueue :=
  match lk s.gal.queues q with
  | some x => some x
  | none =>
    match fixedQueue q, fixedOwner s q with
    | some (k, _, _), some o => some (GQueue.fresh k o)
    | _, _ => none

/-- Replace a queue. -/
def setGq (s : State) (q : Nat) (x : GQueue) : State := { s with gal := { s.gal with queues := put s.gal.queues q x } }

/-- CAP, and whether the guard compares copies (R270). -/
def qCap (q : Nat) : Nat := match fixedQueue q with | some (_, c, _) => c | none => 2048
def guarded (s : State) (q : Nat) : Bool :=
  (match fixedQueue q with | some (_, _, g) => g | none => false) || bitOf (bar2Eff s 0x50008) 0

/-- A value of a queue by its code, and writing it in both copies. -/
def GQueue.val (x : GQueue) (c : Nat) : Nat := x.prim.getD c 0
def GQueue.setVal (x : GQueue) (c v : Nat) : GQueue := { x with prim := x.prim.set c v, shad := x.shad.set c v }

/-- The domains of a queue's producer and consumer (Table 9.1). -/
def prodDom (q : Nat) : Nat := if q < 0x40 then 3 else if 0xE0 ≤ q ∧ q < 0x120 then 2 else if 0x160 ≤ q ∧ q < 0x1A0 then 1 else 0
def consDom (q : Nat) : Nat :=
  if 0x40 ≤ q ∧ q < 0x80 then 3 else if 0xA0 ≤ q ∧ q < 0xE0 then 2 else if 0x120 ≤ q ∧ q < 0x160 then 1 else 0
/-- Whether its positions cross clock domains. -/
def crosses (q : Nat) : Bool := prodDom q != consDom q

/-- The Gray code of a count, and its decoding (R273). -/
def gray (b : Nat) : Nat := b ^^^ b / 2
def ungray (g : Nat) : Nat := (List.range 18).foldl (fun b k => b ^^^ g / 2 ^ k) 0 % 2 ^ 18

/-- Each side receives the other's count, in Gray code, while both domains run (R273, R275). -/
def crossSync (s : State) (q : Nat) (x : GQueue) : GQueue :=
  if dom s (prodDom q) = 0 ∧ dom s (consDom q) = 0 then { x with seenW := ungray (gray x.wcount), seenF := ungray (gray x.fcount) }
  else x

/-- FULL as the producer sees it and EMPTY as the consumer sees it (R273, R274). -/
def GQueue.full (x : GQueue) (q : Nat) : Bool :=
  if crosses q then decide (qCap q ≤ (x.wcount + 2 ^ 18 - x.seenF) % 2 ^ 18 + x.headroom.length)
  else decide (qCap q ≤ x.val 4)
def GQueue.emptySeen (x : GQueue) (q : Nat) : Bool :=
  if crosses q then (x.seenW + 2 ^ 18 - x.rcount) % 2 ^ 18 == 0 else x.val 5 == 0

/-! ### Accounts and the free list (R253, R255, R256) -/

/-- Reserve cells of a class (Table 9.4). -/
def classRes (k : Nat) : Nat := [1024, 1024, 768, 768, 512].getD k 0

/-- shared_free (R255). -/
def sharedFree (s : State) : Nat :=
  let free := s.gal.freeP.getD 2 0
  let res := ((List.range 32).map (fun p => (part s p).q.galRes - lkD s.gal.resCh p 0)).sum
  let cls := ((List.range 5).map (fun k => classRes k - lkD s.gal.clsCh k 0)).sum
  free - res - cls

/-- The account a request of queue q is charged to, by the first rule of R256 that applies; none: it waits. -/
def grantAcct (s : State) (q : Nat) (x : GQueue) : Option Nat :=
  let o := x.owner
  let isP := decide (o < 32)
  let quota := (part s o).q
  let under := !isP || decide (lkD s.gal.held o 0 < quota.galMax)
  if qCap q ≤ x.val 4 + x.headroom.length then none
  else if isP && decide (lkD s.gal.resCh o 0 < quota.galRes) then some 0
  else if decide (0 < sharedFree s) && under then some 1
  else if decide (lkD s.gal.clsCh x.cls 0 < classRes x.cls) && decide (x.clsCharged < 16) &&
      (decide (x.cls ≤ 2) || under) then some 2
  else none

/-- Charge a cell to an account, or take the charge back. -/
def charge (s : State) (o k acct : Nat) : State :=
  { s with gal := { s.gal with
      resCh := if acct = 0 then updD s.gal.resCh o 0 (· + 1) else s.gal.resCh
      clsCh := if acct = 2 then updD s.gal.clsCh k 0 (· + 1) else s.gal.clsCh
      held := if o ≤ 32 then updD s.gal.held o 0 (· + 1) else s.gal.held
      clsHeld := updD s.gal.clsHeld k 0 (· + 1) } }
def uncharge (s : State) (o k acct : Nat) : State :=
  { s with gal := { s.gal with
      resCh := if acct = 0 then updD s.gal.resCh o 0 (· - 1) else s.gal.resCh
      clsCh := if acct = 2 then updD s.gal.clsCh k 0 (· - 1) else s.gal.clsCh
      held := if o ≤ 32 then updD s.gal.held o 0 (· - 1) else s.gal.held
      clsHeld := updD s.gal.clsHeld k 0 (· - 1) } }

/-- Set the free list's head, tail and count in both copies. -/
def setFree (s : State) (h t n : Nat) : State :=
  { s with gal := { s.gal with freeP := [h, t, n], freeS := [h, t, n] } }

/-- Put a cell at the tail of the free list. -/
def freeCell (s : State) (c : Nat) : State :=
  let s := setEntry s c ⟨0, 0, 3, false, 0, 0⟩
  let n := s.gal.freeP.getD 2 0
  let t := s.gal.freeP.getD 1 0
  if n = 0 then setFree s c c 1
  else
    let s := match entry s t with
      | some m => setEntry s t { m with next := c }
      | none => s
    setFree s (s.gal.freeP.getD 0 0) c (n + 1)

/-- Recompute every charge from the entries that can be read (R565). -/
def recharge (s : State) : State :=
  let s := { s with gal := { s.gal with resCh := [], clsCh := [], held := [], clsHeld := [] } }
  let s := s.gal.entries.foldl (fun s e =>
    match entry s e.1 with
    | some m => if m.acct = 3 then s else (match gq s m.qid with | some x => charge s x.owner x.cls m.acct | none => s)
    | none => s) s
  { s with gal := { s.gal with queues := s.gal.queues.map (fun e =>
      (e.1, { e.2 with clsCharged := (s.gal.entries.filter (fun c =>
        match entry s c.1 with | some m => m.acct == 2 && m.qid == e.1 | none => false)).length })) } }

/-- Withdraw cells whose entries cannot be read (R565). -/
def withdraw (s : State) (l : List Nat) : State :=
  if l.isEmpty then s
  else recharge (cntAdd { s with gal := { s.gal with withdrawn := s.gal.withdrawn ++ l } } (galKey 0x74) l.length)

/-- The cells among the listed ones whose entry cannot be read, apart from those withdrawn already. -/
def unreadable (s : State) : List Nat :=
  (s.gal.entries.filter (fun e => (entry s e.1).isNone && !s.gal.withdrawn.contains e.1)).map (·.1)

/-- Rebuild the free list in ascending cell order (R269). -/
def rebuild (s : State) : State :=
  let out := unreadable s
  let s := withdraw s out
  let isFree (c : Nat) : Bool := !s.gal.withdrawn.contains c &&
    (match entry s c with | some m => m.acct == 3 | none => false)
  let l := (List.range 65536).filter isFree
  let s := (l.zip (l.drop 1 ++ [0])).foldl (fun s (c, n) => setEntry s c ⟨n, 0, 3, false, 0, 0⟩) s
  let s := setFree s (l.headD 0) (l.getLastD 0) l.length
  postG (cntAdd s (galKey 0x84) 1) 0x0504 2 l.length out.length 0 0

/-- The free list's copies agree and its head can be read. -/
def freeListOk (s : State) : Bool :=
  decide (s.gal.freeP = s.gal.freeS) &&
  (s.gal.freeP.getD 2 0 == 0 ||
    (match entry s (s.gal.freeP.getD 0 0) with | some m => m.acct == 3 | none => false))

/-- Take the cell at the head of the free list for a queue, charged to an account. -/
def takeCell (s : State) (q : Nat) (x : GQueue) (acct : Nat) : Option (Nat × State) :=
  let s := if freeListOk s then s else rebuild s
  let h := s.gal.freeP.getD 0 0
  let n := s.gal.freeP.getD 2 0
  if n = 0 then none
  else
    let nx := match entry s h with | some m => m.next | none => 0
    let s := setFree s nx (s.gal.freeP.getD 1 0) (n - 1)
    let s := charge (setEntry s h ⟨0, q, acct, false, 0, 0⟩) x.owner x.cls acct
    let k := galFnKey x.owner 4
    let v := lkD s.gal.held x.owner 0
    let s := if x.owner ≤ 32 && cnt s k < v then { s with cfg := { s.cfg with cnt := put s.cfg.cnt k v } } else s
    some (h, s)

/-- Grant one cell to a queue if a rule allows: it joins the cells granted and not linked. -/
def grantTo (s : State) (q : Nat) : Option State :=
  match gq s q with
  | none => none
  | some x =>
    match grantAcct s q x with
    | none => none
    | some a =>
      (takeCell s q x a).map (fun (c, s) =>
        let x := (gq s q).getD x
        let s := setGq s q { x with headroom := x.headroom ++ [c], clsCharged := x.clsCharged + b2n (a == 2) }
        { s with gal := { s.gal with waiting := s.gal.waiting.filter (fun r => r.q != q) } })

/-- The streams that produce into a chain (R295). -/
def chainMakers (s : State) (q : Nat) : List Nat :=
  (List.range 64).filter (fun i => bitOf (strEff s i 0x38) 24 && strEff s i 0x38 / 65536 % 256 == q - 0x200)

/-- The priority of the stream that a request of a queue comes from; device-owned queues rank as priority 0 (R257). -/
def reqPrio (s : State) (q : Nat) (x : GQueue) : Nat :=
  if x.owner = 63 then 0
  else if q < 0x80 then strEff s (q % 64) 0x0C
  else if 0x200 ≤ q ∧ q < 0x300 then
    match chainMakers s q with
    | i :: _ => strEff s i 0x0C
    | [] => strEff s ((q - 0x200) / 4) 0x0C
  else 4

/-- Put a request among those that wait, and count the wait (Table 9.7). -/
def waitCell (s : State) (q : Nat) (x : GQueue) : State :=
  if s.gal.waiting.any (fun r => r.q == q) then s
  else galFnAdd { s with gal := { s.gal with waiting := s.gal.waiting ++ [⟨q, reqPrio s q x, s.clk.aon⟩] } } x.owner 0x18 1

/-- Whether request a goes before request b (R257, R167). -/
def reqBefore (s : State) (a b : GReq) : Bool :=
  let cls (r : GReq) : Nat := match gq s r.q with | some x => x.cls | none => 7
  let own (r : GReq) : Nat := match gq s r.q with | some x => x.owner | none => 63
  if cls a ≠ cls b then decide (cls a < cls b)
  else if a.prio ≠ b.prio then decide (a.prio < b.prio)
  else if partRr s && own a ≠ own b then decide (rrKey s 0 (own a) < rrKey s 0 (own b))
  else decide (a.at_ < b.at_)

/-- Insert a request by that order; equal ones keep their order. -/
def insertReq (s : State) (r : GReq) : List GReq → List GReq
  | [] => [r]
  | x :: t => if reqBefore s r x then r :: x :: t else x :: insertReq s r t

/-- The first waiting request that can be granted, in order. -/
def firstGrant (s : State) : List GReq → Option State
  | [] => none
  | r :: t =>
    match grantTo s r.q with
    | some s' =>
      let o := match gq s r.q with | some x => x.owner | none => 63
      some (rrServe s' 0 o)
    | none => firstGrant s t

/-- A queue's own request: granted now where no request that waits goes before it and can be granted, else it waits. -/
def requestCell (s : State) (q : Nat) (x : GQueue) : State :=
  let r : GReq := (s.gal.waiting.find? (fun r => r.q == q)).getD ⟨q, reqPrio s q x, s.clk.aon⟩
  if s.gal.waiting.any (fun w => w.q != q && reqBefore s w r && (grantTo s w.q).isSome) then waitCell s q x
  else (grantTo s q).getD (waitCell s q x)

/-- CELL_GRANT (R257): a free-list fault found by it is rebuilt (R269). -/
def execCellGrant (s : State) : Host.Outcome State Fault Refusal :=
  .next (if !runs s 0 then s
    else
      let s := if freeListOk s then s else rebuild s
      (firstGrant s (s.gal.waiting.foldl (fun l r => insertReq s r l) [])).getD s)

/-! ### Upsets -/

/-- Turn one bit of a value in a list. -/
def flipAt (l : List Nat) (i bit : Nat) : List Nat := l.set i (l.getD i 0 ^^^ 2 ^ bit)

/-- Turn the stored bit an upset names. -/
def galUpset (s : State) (u : GalUpset) : State :=
  match u with
  | .word c w b => setRawWord s (c % 65536) (w % 32) (rawWord s (c % 65536) (w % 32) ^^^ 2 ^ (b % 72))
  | .entry c b =>
    { s with gal := { s.gal with entries := put s.gal.entries (c % 65536) (rawEntry s (c % 65536) ^^^ 2 ^ (b % 55)) } }
  | .pointer q w b sh =>
    match gq s q with
    | none => s
    | some x =>
      let n := if w % 8 < 4 then 17 else if w % 8 < 6 then 17 else 32
      setGq s q (if sh then { x with shad := flipAt x.shad (w % 8) (b % n) } else { x with prim := flipAt x.prim (w % 8) (b % n) })
  | .freeList w b sh =>
    { s with gal := if sh then { s.gal with freeS := flipAt s.gal.freeS (w % 3) (b % 17) }
        else { s.gal with freeP := flipAt s.gal.freeP (w % 3) (b % 17) } }

/-- Turn the bits that upsets name, in order. -/
def galUpsets (s : State) (l : List GalUpset) : State := l.foldl galUpset s

/-! ### Words -/

/-- Read word w of a cell: corrected words are written back and counted, and a count that reaches 3 is recorded
(R267). -/
def readWord (s : State) (owner c w : Nat) : Option W64 × State :=
  match hamDec 64 7 (rawWord s c w) with
  | none => (none, galFnAdd (cntAdd s (galKey 0x74) 1) owner 0xC 1)
  | some (v, false) => (some (BitVec.ofNat 64 v), s)
  | some (v, true) =>
    let s := galFnAdd (cntAdd (setRawWord s c w (hamEnc 64 7 v)) (galKey 0x70) 1) owner 8 1
    let n := lkD s.gal.wcnt (c * 32 + w) 0
    let s := { s with gal := { s.gal with wcnt := setD s.gal.wcnt (c * 32 + w) (min 3 (n + 1)) 0 } }
    (some (BitVec.ofNat 64 v),
      if n = 2 then postG (cntAdd s (galKey 0x78) 1) 0x0501 2 (c + 65536 * w) 0 0 0 else s)

/-- Read the first n words of a cell: the words, and the first uncorrectable one. -/
def readWords (s : State) (owner c : Nat) : Nat → List W64 × Option Nat × State
  | 0 => ([], none, s)
  | n + 1 =>
    let (l, bad, s) := readWords s owner c n
    match readWord s owner c n with
    | (some v, s) => (l ++ [v], bad, s)
    | (none, s) => (l ++ [0], bad.orElse (fun _ => some n), s)

/-! ### Tasks that a queue serves -/

/-- The streams whose tasks produce into or consume from a queue. -/
def queueStreams (s : State) (q : Nat) : List Nat :=
  if q < 0x80 then [q % 64]
  else if 0x200 ≤ q ∧ q < 0x300 then
    (List.range 64).filter (fun i =>
      let v := strEff s i 0x38
      (bitOf v 8 && v % 256 == q - 0x200) || (bitOf v 24 && v / 65536 % 256 == q - 0x200))
  else []

/-- Abort the task of a stream that still runs (R271): its units done are those it had finished. -/
def abortStream (s : State) (i status detail : Nat) : State :=
  match (stream s i).task with
  | some t => if t.done.isNone then endTask s i t (Rec.abort status detail t.progress 0 0) else s
  | none => s

/-! ### Forced reset (R265, R270 to R272) -/

/-- Sweep a queue's cells back to their accounts and set it empty; answers the cells withdrawn. -/
def sweepQueue (s : State) (q : Nat) : Nat × State :=
  match gq s q with
  | none => (0, s)
  | some x =>
    let out := unreadable s
    let mine := (s.gal.entries.filter (fun e =>
      match entry s e.1 with | some m => m.qid == q && m.acct != 3 | none => false)).map (·.1)
    let s := mine.foldl (fun s c =>
      match entry s c with
      | some m => freeCell (uncharge s x.owner x.cls m.acct) c
      | none => s) s
    let s := setGq s q { GQueue.fresh x.cls x.owner with trimmed := x.trimmed }
    let s := { s with gal := { s.gal with waiting := s.gal.waiting.filter (fun r => r.q != q) } }
    (out.length, withdraw s out)

/-- A count as the records give it: all ones where its copies disagree. -/
def countField (x : GQueue) (c : Nat) : Nat :=
  if x.prim.getD c 0 = x.shad.getD c 0 then x.val c % 2 ^ 32 else 0xFFFFFFFF

/-- A forced reset with its records (R272); the tasks of the queue abort under R271. -/
def forcedReset (s : State) (q value op : Nat) : State :=
  match gq s q with
  | none => s
  | some x =>
    let (n, s) := sweepQueue s q
    let s := cntAdd (cntAdd s (galKey 0x7C) 1) (galKey 0x80) 1
    let s := galFnAdd s x.owner 0x10 1
    let p0 := q + 2 ^ 16 * value + 2 ^ 24 * op + 2 ^ 48 * n
    let i := (queueStreams s q).headD 0x3F
    let s := if x.owner ≤ 32 then
        postOne s x.owner { evRec 0x0503 3 x.owner p0 (countField x 6) (countField x 7) 0 with stream := i }
      else s
    let s := postG s 0x0503 3 p0 (countField x 6) (countField x 7) 0
    (queueStreams s q).foldl (fun s i => abortStream s i 0x13 4) s

/-- The lowest code among the named values whose copies differ. -/
def copyFault (x : GQueue) (codes : List Nat) : Option Nat :=
  codes.find? (fun c => x.prim.getD c 0 != x.shad.getD c 0)

/-- Run an operation under the guard: a difference of the values it reads resets the queue and the operation has no
effect. -/
def guardOp (s : State) (q op : Nat) (codes : List Nat) (run : GQueue → State) : State :=
  match gq s q with
  | none => s
  | some x =>
    match (if guarded s q then copyFault x codes else none) with
    | some v => forcedReset s q v op
    | none => run x

/-- The cell an operation reaches: its entry, or the code of what is wrong with it. -/
def reach (s : State) (q c : Nat) : Except Nat Entry :=
  match entry s c with
  | none => .error 10
  | some m => if guarded s q && (m.acct == 3 || m.qid != q) then .error 8 else .ok m

/-! ### The operations (R260) -/

/-- Write a cell's words and metadata and link it after TAIL. -/
def linkCell (s : State) (q c : Nat) (words : List W64) (last : Bool) (poison : Nat) : State :=
  match gq s q with
  | none => s
  | some x =>
    let acct := match entry s c with | some m => m.acct | none => 1
    let s := (words.take 32).zipIdx.foldl (fun s (w, i) => setRawWord s c i (hamEnc 64 7 w.toNat)) s
    let n := max 1 (min 32 words.length)
    let s := setEntry s c ⟨0, q, acct, last, poison, 8 * n - 1⟩
    let t := x.val 3
    let s := if t = qEnd then s
      else (match entry s t with | some m => setEntry s t { m with next := c } | none => s)
    let x := { x with headroom := x.headroom.erase c, aborted := false, wcount := (x.wcount + 1) % 2 ^ 18 }
    let x := if x.val 0 = qEnd then x.setVal 0 c else x
    let x := if x.val 2 = qEnd then x.setVal 2 c else x
    let x := if x.markValid && x.val 1 = qEnd then x.setVal 1 c else x
    let x := ((x.setVal 3 c).setVal 4 (x.val 4 + 1)).setVal 5 (x.val 5 + 1)
    let x := if last then x.setVal 6 ((x.val 6 + 1) % 2 ^ 32) else x
    setGq s q (crossSync s q x)

/-- A cross-domain producer port asks for cells in advance, up to two (R259). -/
def fillHeadroom (s : State) (q : Nat) : State :=
  match gq s q with
  | none => s
  | some x => if crosses q && x.headroom.length < 2 && s.gal.waiting.isEmpty then (grantTo s q).getD s else s

/-- ENQ: on a granted cell, or after a grant; a request that no rule grants waits (R256, R258). -/
def enq (s : State) (q : Nat) (words : List W64) (last : Bool) (poison : Nat) : State :=
  let s := demandOn s 0
  guardOp s q 0 [3, 4, 5, 6] fun x =>
    let s := if x.headroom.isEmpty then requestCell s q x else s
    match gq s q with
    | none => s
    | some y =>
      match y.headroom with
      | [] => s
      | c :: _ =>
        if x.val 3 ≠ qEnd then
          (match reach s q (x.val 3) with
           | .error v => forcedReset s q v 0
           | .ok _ => fillHeadroom (linkCell s q c words last poison) q)
        else fillHeadroom (linkCell s q c words last poison) q

/-- READ: the cell at RD, and RD advanced; an uncorrectable word ends the task it belongs to (R268). -/
def readOp (s : State) (q : Nat) : State :=
  guardOp s q 1 [2, 3, 5] fun x =>
    let rd := x.val 2
    if guarded s q && (rd == qEnd) != (x.val 5 == 0) then forcedReset s q 9 1
    else if x.emptySeen q || rd = qEnd then setGq s q (crossSync s q x)
    else
      match reach s q rd with
      | .error v => forcedReset s q v 1
      | .ok m =>
        let (ws, bad, s) := readWords s x.owner rd ((m.lenm1 + 8) / 8)
        let x := ((x.setVal 2 (if rd = x.val 3 then qEnd else m.next)).setVal 5 (x.val 5 - 1))
        let x := { x with rcount := (x.rcount + 1) % 2 ^ 18, trimmed := false }
        let s := setGq s q (crossSync s q x)
        let s := { s with gal := { s.gal with reads := s.gal.reads ++ [⟨q, rd, ws, m.lenm1 + 1, m.last, m.poison, bad.isSome⟩] } }
        match bad with
        | none => s
        | some w =>
          let i := (queueStreams s q).headD 0x3F
          let s := if x.owner ≤ 32 then postOne s x.owner { evRec 0x0502 3 x.owner q 0 0 0 with stream := i } else s
          let s := postG s 0x0502 3 q (rd + 65536 * w) 0 0
          (queueStreams s q).foldl (fun s i => abortStream s i 0x13 5) s

/-- MARK. -/
def markOp (s : State) (q : Nat) : State :=
  guardOp s q 2 [2] fun x => setGq s q { x.setVal 1 (x.val 2) with markValid := true }

/-- The cells of a list from position a up to, and not with, position b; where the walk cannot go on, the code of why. -/
def walkCells (s : State) (q b tail : Nat) : Nat → Nat → Except Nat (List (Nat × Entry))
  | 0, _ => .error 9
  | n + 1, a =>
    if a = b then .ok []
    else if a = qEnd then .error 9
    else
      match reach s q a with
      | .error v => .error v
      | .ok m =>
        match walkCells s q b tail n (if a = tail then qEnd else m.next) with
        | .error v => .error v
        | .ok l => .ok ((a, m) :: l)

/-- REWIND. -/
def rewindOp (s : State) (q : Nat) : State :=
  guardOp s q 3 [0, 1, 2, 3, 4, 5] fun x =>
    let dst := if x.markValid then x.val 1 else x.val 0
    match walkCells s q (x.val 2) (x.val 3) 65537 dst with
    | .error v => forcedReset s q v 3
    | .ok l =>
      setGq s q (crossSync s q { (x.setVal 2 dst).setVal 5 (x.val 5 + l.length) with
        rcount := (x.rcount + 2 ^ 18 - l.length) % 2 ^ 18 })

/-- Free every cell from HEAD up to a position. -/
def freeUpTo (s : State) (q op : Nat) (x : GQueue) (dst : Nat) (keep : Bool) : State :=
  match walkCells s q dst (x.val 3) 65537 (x.val 0) with
  | .error v => forcedReset s q v op
  | .ok l =>
    let s := l.foldl (fun s (c, m) => freeCell (uncharge s x.owner x.cls m.acct) c) s
    let units := (l.filter (fun e => e.2.last)).length
    let cls := (l.filter (fun e => e.2.acct == 2)).length
    let y := ((x.setVal 0 dst).setVal 4 (x.val 4 - l.length)).setVal 7 ((x.val 7 + units) % 2 ^ 32)
    let y := if dst = qEnd then y.setVal 3 qEnd else y
    setGq s q (crossSync s q { y with
      markValid := keep && x.markValid, clsCharged := x.clsCharged - cls, fcount := (x.fcount + l.length) % 2 ^ 18 })

/-- RELEASE and RELEASE_MARK. -/
def releaseOp (s : State) (q : Nat) : State :=
  guardOp s q 4 [0, 2, 4, 7] fun x => freeUpTo s q 4 x (x.val 2) false
def releaseMarkOp (s : State) (q : Nat) : State :=
  guardOp s q 5 [0, 1, 4, 7] fun x => if x.markValid then freeUpTo s q 5 x (x.val 1) true else s

/-- Drop from the end of a list the cells after the last cell with LAST set. -/
def keptLen (l : List (Nat × Entry)) : Nat :=
  match (l.reverse).findIdx? (fun e => e.2.last) with
  | some k => l.length - k
  | none => 0

/-- TRIM for an aborting producer (R263, R264); the port's granted cells are released. -/
def trimOp (s : State) (q : Nat) : State :=
  guardOp s q 6 [0, 1, 2, 3, 4, 5] fun x =>
    match walkCells s q qEnd (x.val 3) 65537 (x.val 0) with
    | .error v => forcedReset s q v 6
    | .ok l =>
      let k := keptLen l
      let rdAt := (l.findIdx? (fun e => e.1 == x.val 2)).getD l.length
      let mkAt := (l.findIdx? (fun e => e.1 == x.val 1)).getD l.length
      let gone := l.drop k
      let s := gone.foldl (fun s (c, m) => freeCell (uncharge s x.owner x.cls m.acct) c) s
      let s := x.headroom.foldl (fun s c =>
        match entry s c with
        | some m => freeCell (uncharge s x.owner x.cls m.acct) c
        | none => s) s
      let hrCls := (x.headroom.filter (fun c => match entry s c with | some m => m.acct == 2 | none => false)).length
      let cls := (gone.filter (fun e => e.2.acct == 2)).length + hrCls
      let y := x.setVal 3 (if k = 0 then qEnd else match l[k - 1]? with | some (c, _) => c | none => qEnd)
      let y := if k = 0 then y.setVal 0 qEnd else y
      let y := if k ≤ rdAt then y.setVal 2 qEnd else y
      let y := if x.markValid && decide (k ≤ mkAt) then y.setVal 1 qEnd else y
      let y := (y.setVal 4 k).setVal 5 (k - min k rdAt)
      let s := { s with gal := { s.gal with waiting := s.gal.waiting.filter (fun r => r.q != q) } }
      setGq s q (crossSync s q { y with
        headroom := [], aborted := true, trimmed := true, clsCharged := x.clsCharged - cls
        wcount := (x.wcount + 2 ^ 18 - gone.length) % 2 ^ 18
        rcount := (x.rcount + 2 ^ 18 - (rdAt - min k rdAt)) % 2 ^ 18 })

/-- The rows of the seven operations. An operation needs CORE; ENQ demands it (R259). -/
def execEnq (q : Qid) (words : List W64) (last : Bool) (poison : BitVec 4) (upsets : List GalUpset) (s : State) :
    Host.Outcome State Fault Refusal :=
  .next (if dpStop s then s else enq (galUpsets s upsets) q.val words last poison.toNat)
def execRead (q : Qid) (upsets : List GalUpset) (s : State) : Host.Outcome State Fault Refusal :=
  .next (if runs s 0 then readOp (galUpsets s upsets) q.val else s)
def execMark (q : Qid) (upsets : List GalUpset) (s : State) : Host.Outcome State Fault Refusal :=
  .next (if runs s 0 then markOp (galUpsets s upsets) q.val else s)
def execRewind (q : Qid) (upsets : List GalUpset) (s : State) : Host.Outcome State Fault Refusal :=
  .next (if runs s 0 then rewindOp (galUpsets s upsets) q.val else s)
def execRelease (q : Qid) (upsets : List GalUpset) (s : State) : Host.Outcome State Fault Refusal :=
  .next (if runs s 0 then releaseOp (galUpsets s upsets) q.val else s)
def execReleaseMark (q : Qid) (upsets : List GalUpset) (s : State) : Host.Outcome State Fault Refusal :=
  .next (if runs s 0 then releaseMarkOp (galUpsets s upsets) q.val else s)
def execTrim (q : Qid) (upsets : List GalUpset) (s : State) : Host.Outcome State Fault Refusal :=
  .next (if runs s 0 then trimOp (galUpsets s upsets) q.val else s)
/-- RESET (R265). -/
def execReset (q : Qid) (s : State) : Host.Outcome State Fault Refusal :=
  .next (if runs s 0 then (sweepQueue s q.val).2 else s)

/-! ### Galley scrub (R508) -/

/-- The queue whose list reaches a cell, if one does. -/
def queueOf (s : State) (c : Nat) : Option Nat :=
  (s.gal.queues.find? (fun e =>
    let x := e.2
    let rec go : Nat → Nat → Bool
      | 0, _ => false
      | n + 1, a => if a = qEnd then false else if a = c then true
        else (match entry s a with | some m => go n (if a = x.val 3 then qEnd else m.next) | none => false)
    go 65537 (x.val 0) || x.headroom.contains c)).map (·.1)

/-- Read one cell's words and entry. -/
def scrubCell (s : State) (c : Nat) : State :=
  let m := entry s c
  let heldBy := match m with | some m => (if m.acct = 3 then none else some m.qid) | none => queueOf s c
  let owner := match heldBy with | some q => (match gq s q with | some x => x.owner | none => 63) | none => 63
  let s := (List.range 32).foldl (fun s w =>
    match readWord s owner c w with
    | (some _, s) => s
    | (none, s) => if heldBy.isSome then postG s 0x0502 3 (heldBy.getD 0) (c + 65536 * w) 0 0 else s) s
  if m.isNone && !s.gal.withdrawn.contains c then
    (match heldBy with
     | some q => forcedReset s q 10 9
     | none => rebuild s)
  else s

/-- GALLEY_SCRUB: the next cell of the pass, paced by GSCRUB_PERIOD_MS of CORE running time. -/
def execGalleyScrub (upsets : List GalUpset) (s : State) : Host.Outcome State Fault Refusal :=
  let s := if s.pwr.off then s else galUpsets s upsets
  let ran := lkD s.pwr.ran 0 0
  let c := s.bg.galCursor
  .next (if s.pwr.off then s else if runs s 0 && decide (c * (mgmt s 12 * msT) ≤ (ran - s.bg.galAt) * 65536) then
      let s := scrubCell s c
      if c + 1 < 65536 then { s with bg := { s.bg with galCursor := c + 1 } }
      else cntAdd { s with bg := { s.bg with galCursor := 0, galAt := ran } } (telKey 0x80C) 1
    else s)

end Sys2Proof.Machine
end

