-- ==== Sys2Proof/Machine/Pool.lean ====
section
/-! DEFINITION. Reading rows and pooling them (11.3 to 11.5, 11.8), shared by the requester and by an owner that pools
for a pod member: rows in device pages or in spilled pages (R248), block sums and the chase (R307, R315, R323), the
adapter (R330), and the output formats (R319, R320). -/

namespace Sys2Proof.Machine

/-- BLK (R307). -/
def Table.blk (t : Table) : Nat := 262144 / max t.slotBytes 1

/-- Cut a list into runs of n. -/
def chunksAux {α : Type} (n : Nat) : Nat → List α → List (List α)
  | 0, _ => []
  | k + 1, l => if l.isEmpty then [] else l.take n :: chunksAux n k (l.drop n)
def chunks {α : Type} (n : Nat) (l : List α) : List (List α) := chunksAux (max n 1) l.length l

/-- The first ROW_BYTES bytes of local row l of a store: a device page, or host memory through the function of the
table's owner (R248). -/
def rowRead (c : Ctx) (t : Table) (x : Store) (l : Nat) : Ev (List PB) :=
  match slotAt t x l with
  | none => walkFault 2 0
  | some (.dev p, o) => .ok (devRead c.s (p * 65536 + o) t.rowBytes) [⟨p * 65536 + o, t.rowBytes⟩]
  | some (.host f a, o) =>
    (hostRead { c with fn := f } (a + o) t.rowBytes).bind
      (fun l => .ok l [⟨spillBase + (a + o), t.rowBytes⟩])

/-- The store in which this device serves a shard: it owns the shard and holds it PLACED (R233, R237). -/
def servedStore (s : State) (t : Table) (shard : Nat) : Option Store :=
  if t.placed && (t.shardEnt shard).device == me s then
    t.stores.find? (fun x => x.shard == shard && !x.replica)
  else none

/-- Add one row into a running sum (R315): mode 2 is WEIGHTED_SUM. -/
def addRow (mode : Nat) (p x : List W32) (w : W32) : List W32 :=
  List.zipWith (fun a b => if mode = 2 then fFma w b a else fAdd a b) p x

/-- A block sum over the entries of a block; a dropped entry contributes nothing (R315). -/
def blockSum (mode d : Nat) (l : List (Option (List W32 × W32))) : List W32 :=
  l.foldl (fun p e => match e with | some (x, w) => addRow mode p x w | none => p) (List.replicate d 0)

/-- The shard partial: block sums added in ascending block order (R315, R323). -/
def shardSum (mode d blk : Nat) (l : List (Option (List W32 × W32))) : List W32 :=
  (chunks blk l).foldl (fun s b => List.zipWith fAdd s (blockSum mode d b)) (List.replicate d 0)

/-- A shard's part of a bag. -/
structure ShardPart where
  pooled : Nat
  dropped : Nat
  poisoned : Bool
  sum : List W32
deriving DecidableEq, Repr

/-- One vector of adapter output (R330): row o of W at o × WROW, the bias after the rows. -/
def adaptRow (img : List Byte) (a : Adapter) (x : List W32) (o : Nat) : W32 :=
  let wrow := alignUp (2 * a.din) 64
  let b := if a.bias then f16to32 (BitVec.ofNat 16 (leAt img (a.dout * wrow + 2 * o) 2)) else 0
  (List.range a.din).foldl (fun acc k =>
    fFma (f16to32 (BitVec.ofNat 16 (leAt img (o * wrow + 2 * k) 2))) (x.getD k 0) acc) b
def adapt (img : List Byte) (a : Adapter) (x : List W32) : List W32 :=
  (List.range a.dout).map (adaptRow img a x)

/-- Bytes of an adapter's image (11.8). -/
def adapterSize (a : Adapter) : Nat :=
  a.dout * alignUp (2 * a.din) 64 + if a.bias then alignUp (2 * a.dout) 256 else 0

/-- The bytes of an object that lies in device pages, in order, with the marks and the trace. -/
def pagesRead (s : State) (pages : List Nat) (n : Nat) : Ev (List PB) :=
  let ps := (pages.zipIdx.map (fun (p, i) => (p, min 65536 (n - 65536 * i)))).filter (fun e => e.2 > 0)
  .ok (ps.flatMap (fun (p, l) => devRead s (p * 65536) l)) (ps.map (fun (p, l) => ⟨p * 65536, l⟩))

/-- Write an object's bytes into its pages. -/
def pagesWrite (s : State) (pages : List Nat) (b : List Byte) : State :=
  pages.zipIdx.foldl (fun s (p, i) => memWrite s (p * 65536) ((b.drop (65536 * i)).take 65536) false) s

/-- The canonical NaN vector of OUT_FMT with n elements (R320). -/
def nanVec (fmt n : Nat) : List Byte := (List.replicate n (0x7FC00000#32)).flatMap (outBytes fmt)

/-- A vector in OUT_FMT (R319). -/
def vecBytes (fmt : Nat) (v : List W32) : List Byte := v.flatMap (outBytes fmt)

/-- Report a poisoned row, unless the filter of R487 holds the pair from less than 1 s ago. -/
def postRowPoisoned (s : State) (t : Table) (x : Store) (row l : Nat) : State :=
  let now := s.clk.aon
  let f := s.evt.rowFilter
  if f.any (fun e => e.1 == t.handle && e.2.1 == row && decide (now < e.2.2 + secT)) then s
  else
    let lp := l / max t.rowsPerPage 1
    let dp := match x.pages[lp]? with | some (.dev p) => p | _ => 0
    let s := { s with evt := { s.evt with
      rowFilter := ((t.handle, row, now) :: f.filter (fun e => !(e.1 == t.handle && e.2.1 == row))).take 64 } }
    postG s 0x0602 4 t.handle row (lp % 2 ^ 23 + 2 ^ 32 * (dp % 2 ^ 23)) 0

end Sys2Proof.Machine
end

