-- ==== Sys2Proof/Machine/Gather.lean ====
section
/-! DEFINITION. GATHER_POOL and GATHER_ROWS (chapter 11): bags, classing, shard partials in ascending shard order, the
adapter, empty bags, poison, bag status and the completion record (R307 to R330). -/

namespace Sys2Proof.Machine

/-- One entry of a bag after the sentinels are gone: its bag position, row ID and weight. -/
structure Ent where
  pos : Nat
  row : Nat
  wt : W32
deriving DecidableEq, Repr

/-- What one shard answered for a bag. -/
inductive PartRes where
  | vals (p : ShardPart)
  /-- Value records by bag position: the bytes of the vector or row, or none where the entry is dropped. -/
  | rows (l : List (Nat × Option (List Byte × Bool))) (bad : List Nat)
  /-- Bag positions of missing entries under FAULT. -/
  | missing (l : List Nat)
  | denied
deriving DecidableEq, Repr

/-- A finished bag: its writes, its counts and its flags. -/
structure BagOut where
  writes : List OutW
  pooled : Nat
  dropped : Nat
  empty : Bool
  poisoned : Bool
  split : Bool
  remote : Bool
  /-- Poisoned rows read here: row ID, shard, local row. -/
  badRows : List (Nat × Nat × Nat)
deriving DecidableEq, Repr

/-- The fields of a gather body (Table 11.1). -/
structure GBody where
  raw : Bool
  handle : Nat
  mode : Nat
  fmt : Nat
  adapt : Bool
  stride4 : Nat
  nbags : Nat
  baglen : Nat
  idx : Nat
  len : Nat
  wgt : Nat
  out : Nat
  bstat : Nat
deriving DecidableEq, Repr

/-- Read the body of a descriptor. -/
def gBody (d : List Byte) : GBody :=
  let w := leAt d 0x0C 4
  { raw := leAt d 0 1 == 2, handle := leAt d 8 4, mode := if leAt d 0 1 = 2 then 3 else w % 4, fmt := w / 4 % 4
    adapt := bitOf w 4, stride4 := w / 65536, nbags := leAt d 0x10 4 % 2 ^ 21, baglen := leAt d 0x14 4 % 2 ^ 17
    idx := leAt d 0x18 8, len := leAt d 0x20 8, wgt := leAt d 0x28 8, out := leAt d 0x30 8, bstat := leAt d 0x38 8 }

/-- The output vector's size V in bytes (R314). -/
def gVecBytes (t : Table) (b : GBody) (ad : Option Adapter) : Nat :=
  if b.raw then t.rowBytes
  else (match ad with | some a => if b.adapt then a.dout else t.d | none => t.d) * fmtSize b.fmt
def gStride (t : Table) (b : GBody) (ad : Option Adapter) : Nat :=
  if b.stride4 = 0 then gVecBytes t b ad else 4 * b.stride4

/-- COORD of a point: a WALK code and a list position (R308). -/
def coordAt (walk pos : Nat) : Nat := walk * 2 ^ 60 + pos % 2 ^ 32

/-- A list read in device memory that is delivered poisoned aborts the task, DETAIL 0x06 (Table 3.5, Table 18.2). -/
def cleanList (x : List PB) (elem : Nat) : Ev (List Byte) :=
  match x.findIdx? (·.bad) with
  | some i => .stop ⟨0x13, 6, 0, i / elem * elem, 0⟩ []
  | none => .pure (pbBytes x)

/-- The length of bag b (R310). -/
def bagLen (c : Ctx) (g : GBody) (b off : Nat) : Ev Nat :=
  if g.len = 0 then .pure g.baglen
  else
    ((((readAt c (addrAdd g.len (4 * b)) 4).bind fun x => cleanList x 4).at_ b
        (fun o => (o, coordAt 1 b))).bind fun x =>
      let v := leNat x
      if v / 2 ^ 17 ≠ 0 ∨ 65536 < v % 2 ^ 17 ∨ 2 ^ 32 - 1 < off + v then
        .stop ⟨0x12, 0, b, 0xFFFFFFFF, coordAt 1 b⟩ []
      else .pure v)

/-- The entries of a bag in bag order, sentinels removed (R311, R313), with their weights and whether a weight was
delivered poisoned. -/
def bagEnts (c : Ctx) (g : GBody) (b off n : Nat) : Ev (List Ent × Bool) :=
  (((readAt c (addrAdd g.idx (8 * off)) (8 * n)).bind fun x => cleanList x 8).at_ b
      (fun o => (o % 8, coordAt 0 (off + o / 8)))).bind fun x =>
  (if g.mode = 2 then
      (readAt c (addrAdd g.wgt (2 * off)) (2 * n)).at_ b (fun o => (o % 2, coordAt 2 (off + o / 2)))
    else .pure []).bind fun w =>
  let ents := (List.range n).map (fun i =>
    (⟨i, leAt x (8 * i) 5, f16to32 (BitVec.ofNat 16 (leAt (pbBytes w) (2 * i) 2))⟩ : Ent))
  .pure (ents.filter (fun e => e.row != sentinel), pbBad w)

/-- The sublist of a shard within a bag: the entries below ROWS that lie in it, in bag order (R313). -/
def sublist (t : Table) (l : List Ent) (shard : Nat) : List Ent :=
  l.filter (fun e => e.row < t.rows && (t.place e.row).1 == shard)

/-- Pool a sublist whose rows this device serves, or name its missing entries (R315, R317). -/
def localPart (c : Ctx) (t : Table) (g : GBody) (b off : Nat) (shard : Nat) (l : List Ent) :
    Ev (PartRes × List (Nat × Nat × Nat)) :=
  match servedStore c.s t shard with
  | none =>
    if t.policy = 1 then .pure (.missing (l.map (·.pos)), [])
    else if g.mode = 3 then .pure (.rows (l.map (fun e => (e.pos, none))) [], [])
    else .pure (.vals ⟨0, l.length, false, List.replicate t.d 0⟩, [])
  | some x =>
    (Ev.all (l.map (fun e => (rowRead c t x (t.place e.row).2).at_ b (fun o => (o, coordAt 3 (off + e.pos)))))).bind
      fun rs =>
    let z := l.zip rs
    let bad := (z.filter (fun e => pbBad e.2)).map (fun e => (e.1.row, shard, (t.place e.1.row).2))
    if g.mode = 3 then
      .pure (.rows (z.map (fun (e, r) =>
        (e.pos, some (if g.raw then pbBytes r else (dequant t.d t.ext t.code (pbBytes r)).flatMap (fun v => leBytes 4 v.toNat),
          pbBad r)))) (bad.map (·.1)), bad)
    else
      .pure (.vals ⟨l.length, 0, !bad.isEmpty,
        shardSum g.mode t.d t.blk (z.map (fun (e, r) => some (dequant t.d t.ext t.code (pbBytes r), e.wt)))⟩, bad)

/-- The key of the exchange of a shard of a bag. -/
def gpKey (b shard : Nat) : Nat := 4096 + b * 64 + shard

/-- The chunk records of an answer, in chunk order, once every chunk is there (R326). -/
def chunkVals (d : Nat) (ans : List MsgBody) : Option (List W32) :=
  let cs := ans.filterMap (fun m => match m with | .gpChunk x => some x | _ => none)
  let n := cdiv d 1024
  let l := (List.range n).filterMap (fun k => cs.find? (fun x => x.chunk == k))
  if l.length = n then some (l.flatMap (·.vals)) else none

/-- What a remote owner has answered for a sublist (R324 to R326, R303). -/
def remotePart (c : Ctx) (t : Table) (g : GBody) (b off shard : Nat) (l : List Ent) :
    Ev (PartRes × List (Nat × Nat × Nat)) :=
  let dst := (t.shardEnt shard).device
  let key := gpKey b shard
  let req : GpReq :=
    { reqId := 0, handle := BitVec.ofNat 32 g.handle, descCheck := t.descCheck, mode := if g.mode = 1 then 0 else g.mode
      raw := g.raw, home := 0, rows := l.map (·.row)
      wts := if g.mode = 2 then l.map (fun e => f32to16 e.wt) else [] }
  let again : Ev (PartRes × List (Nat × Nat × Nat)) :=
    match lk c.ex key with
    | some e => if e.why = 1 ∨ e.why = 2 then .stop ⟨0x16, e.why, b, shard, dst⟩ [] else .need [.msg key dst (.gpReq req)]
    | none => .need [.msg key dst (.gpReq req)]
  let posOf (i : Nat) : Nat := match l[i]? with | some e => e.pos | none => 0
  match lk c.ex key with
  | none => again
  | some e =>
    if g.mode = 3 then
      let vs := e.answers.filterMap (fun m => match m with | .gpValue v => some v | _ => none)
      let ks := e.answers.filterMap (fun m => match m with | .gpChunk v => some v | _ => none)
      if ks.any (fun k => k.kind == 2) || vs.any (fun v => v.kind == 2) then .pure (.denied, [])
      else if vs.length < l.length then again
      else
        match vs.find? (fun v => v.kind == 3) with
        | some v => .stop ⟨0x13, leAt v.bytes 0 1, b, 0, coordAt 3 (off + posOf v.pos)⟩ []
        | none =>
          let miss := (vs.filter (fun v => v.kind == 1)).map (fun v => posOf v.pos)
          if t.policy = 1 && !miss.isEmpty then .pure (.missing miss, [])
          else
            .pure (.rows (vs.map (fun v =>
              (posOf v.pos, if v.kind = 1 then none else some (v.bytes, v.poisoned)))) [], [])
    else
      let ks := e.answers.filterMap (fun m => match m with | .gpChunk v => some v | _ => none)
      match ks.find? (fun k => k.kind != 0) with
      | some k =>
        if k.kind = 2 then .pure (.denied, [])
        else if k.kind = 1 then .pure (.missing [posOf k.faultPos], [])
        else .stop ⟨0x13, k.detail, b, 0, coordAt 3 (off + posOf k.faultPos)⟩ []
      | none =>
        match chunkVals t.d e.answers, ks with
        | some v, k :: _ => .pure (.vals ⟨k.pooled, k.dropped, ks.any (·.poisoned), v⟩, [])
        | _, _ => again

/-- Every part of a bag has to be there before the bag is settled: the needs of all of them come first. -/
def partsOf {α : Type} (l : List (Ev α)) : Ev (List (Except Stop α)) :=
  let needs := l.flatMap (fun x => match x with | .need n => n | _ => [])
  if needs.isEmpty then
    .ok (l.filterMap (fun x => match x with
        | .ok a _ => some (.ok a) | .stop e _ => some (.error e) | .need _ => none))
      (l.flatMap (fun x => match x with | .ok _ t => t | .stop _ t => t | .need _ => []))
  else .need needs

/-- The lowest of several faulting points by COORD. -/
def lowest (l : List Stop) : Option Stop :=
  l.foldl (fun m e => match m with | none => some e | some x => if e.coord < x.coord then some e else some x) none

/-- The smallest number of a list. -/
def minOf (l : List Nat) : Option Nat :=
  l.foldl (fun m e => match m with | none => some e | some x => some (min e x)) none

/-- A bag status entry (Table 11.3). -/
def bagStatus (o : BagOut) : List Byte :=
  leBytes 4 o.pooled ++
  leBytes 4 (o.dropped + 2 ^ 24 * b2n o.empty + 2 ^ 25 * b2n o.poisoned + 2 ^ 26 * b2n o.split + 2 ^ 27 * b2n o.remote)

/-- The adapter a task applies: its image, and whether the image was delivered poisoned. -/
structure AdImg where
  a : Adapter
  img : List Byte
  bad : Bool

/-- A vector after the adapter, in OUT_FMT (R319, R330). -/
def finishVec (g : GBody) (ad : Option AdImg) (v : List W32) : List Byte :=
  vecBytes g.fmt (match ad with | some a => adapt a.img a.a v | none => v)

/-- The writes of a bag's outputs (R314 to R320). -/
def bagWrites (c : Ctx) (t : Table) (g : GBody) (ad : Option AdImg) (b off n : Nat) (wbad : Bool)
    (parts : List PartRes) (pooled : Nat) (poisoned : Bool) : Ev (List OutW) :=
  let V := gVecBytes t g (ad.map (·.a))
  let st := gStride t g (ad.map (·.a))
  let elems := V / fmtSize g.fmt
  let abad := match ad with | some a => a.bad | none => false
  if g.mode = 3 then
    let rows := parts.flatMap (fun p => match p with | .rows l _ => l | _ => [])
    (Ev.all ((List.range n).map (fun i =>
      let (bytes, bad) := match rows.find? (fun r => r.1 == i) with
        | some (_, some (x, bad)) =>
          let bad := bad || abad
          if g.raw then ((if bad then List.replicate V 0xFF else slice x 0 V), bad)
          else ((if bad then nanVec g.fmt elems
            else finishVec g ad ((chunks 4 x).map (fun w => BitVec.ofNat 32 (leNat w)))), bad)
        | _ => (List.replicate V 0, false)
      (writeAt c (addrAdd g.out ((off + i) * st)) bytes bad).at_ b (fun o => (o, coordAt 4 (off + i)))))).bind
      fun l => .pure l.flatten
  else
    let sums := parts.filterMap (fun p => match p with | .vals x => some x.sum | _ => none)
    let total := sums.foldl (fun a x => List.zipWith fAdd a x) (List.replicate t.d 0)
    let v := if g.mode = 1 then total.map (fun x => fDiv x (f32ofInt pooled)) else total
    let bad := (poisoned || wbad || abad) && pooled ≠ 0
    let bytes :=
      if pooled = 0 then List.replicate V 0
      else if bad then nanVec g.fmt elems
      else finishVec g ad v
    (writeAt c (addrAdd g.out (b * st)) bytes bad).at_ b (fun o => (o, coordAt 4 b))

/-- One bag (R313 to R321): its writes and status, once every part of it is there. -/
def gatherBag (c : Ctx) (t : Table) (g : GBody) (ad : Option AdImg) (b off n : Nat) : Ev BagOut :=
  (bagEnts c g b off n).bind fun (ents, wbad) =>
  let invalid := (ents.filter (fun e => t.rows ≤ e.row)).map (·.pos)
  let subs := ((List.range t.nshard).map (fun i => (i, sublist t ents i))).filter (fun e => !e.2.isEmpty)
  (partsOf (subs.map (fun (i, l) =>
    if (t.shardEnt i).device = me c.s then localPart c t g b off i l else remotePart c t g b off i l))).bind fun rs =>
  let parts := rs.filterMap (fun r => match r with | .ok (p, _) => some p | .error _ => none)
  let badRows := rs.flatMap (fun r => match r with | .ok (_, l) => l | .error _ => [])
  let miss := parts.flatMap (fun p => match p with | .missing l => l | _ => [])
  let faults := (if t.policy = 1 then invalid else []) ++ miss
  if parts.any (fun p => p == .denied) then .stop ⟨0x11, 1, 0, 0, 0⟩ []
  else
    match minOf faults with
    | some p => .stop ⟨0x12, 0, b, p, coordAt 0 (off + p)⟩ []
    | none =>
      match lowest (rs.filterMap (fun r => match r with | .error e => some e | .ok _ => none)) with
      | some e => .stop e []
      | none =>
        let cnt (f : ShardPart → Nat) : Nat := (parts.map (fun p => match p with | .vals x => f x | _ => 0)).sum
        let rows := parts.flatMap (fun p => match p with | .rows l _ => l | _ => [])
        let pooled := cnt (·.pooled) + (rows.filter (fun r => r.2.isSome)).length
        let dropped := invalid.length + cnt (·.dropped) + (rows.filter (fun r => r.2.isNone)).length
        let poisoned := parts.any (fun p => match p with
            | .vals x => x.poisoned
            | .rows l _ => l.any (fun r => match r.2 with | some (_, b) => b | none => false)
            | _ => false) || (pooled ≠ 0 && (wbad || (match ad with | some a => a.bad | none => false)))
        (bagWrites c t g ad b off n wbad parts pooled poisoned).bind fun ws =>
        let o : BagOut :=
          { writes := ws, pooled := pooled, dropped := dropped, empty := pooled == 0, poisoned := poisoned
            split := subs.any (fun e => t.blk < e.2.length)
            remote := subs.any (fun e => (t.shardEnt e.1).device ≠ me c.s), badRows := badRows }
        ((writeAt c (addrAdd g.bstat (8 * b)) (bagStatus o) false).at_ b (fun q => (q, coordAt 5 b))).bind fun sw =>
        .pure { o with writes := ws ++ sw }

/-- How a gather task stands: waiting, or ended after the bags it finished. -/
inductive GOut where
  | need (l : List Need)
  | fin (bags : List BagOut) (stop : Option Stop) (tr : List Acc)
deriving Repr

/-- Bags b to b + k − 1, whose entries start at list position off. -/
def gatherBags (c : Ctx) (t : Table) (g : GBody) (ad : Option AdImg) : Nat → Nat → Nat → GOut
  | 0, _, _ => .fin [] none []
  | k + 1, b, off =>
    let x := (bagLen c g b off).bind fun n => (gatherBag c t g ad b off n).bind fun o => .pure (n, o)
    match x with
    | .need l => .need l
    | .stop e tr => .fin [] (some e) tr
    | .ok (n, o) tr =>
      match gatherBags c t g ad k (b + 1) (off + n) with
      | .need l => .need l
      | .fin bs e tr' => .fin (o :: bs) e (tr ++ tr')

/-- The grants of every owner of a table that has remote shards (R325): no status, or TS_DENIED. -/
def tableGrants (c : Ctx) (t : Table) : Ev Unit :=
  let devs := ((t.shards.map (·.device)).filter (fun d => d ≠ me c.s)).eraseDups
  (partsOf (devs.map (fun d =>
    let q : Ev Bool := .need [.msg d d (.grantReq 0 (BitVec.ofNat 32 t.handle) t.descCheck)]
    match lk c.ex d with
    | none => q
    | some e =>
      match e.answers.findSome? (fun m => match m with | .grantAns _ ok _ => some ok | _ => none) with
      | some ok => .pure ok
      | none => if e.why = 1 ∨ e.why = 2 then
          .stop ⟨0x16, e.why, 0, (t.shards.findIdx? (fun x => x.device == d)).getD 0, d⟩ [] else q))).bind fun l =>
  match lowest (l.filterMap (fun r => match r with | .error e => some e | .ok _ => none)) with
  | some e => .stop e []
  | none => if l.all (fun r => match r with | .ok b => b | .error _ => false) then .pure () else .stop ⟨0x11, 1, 0, 0, 0⟩ []

/-- Evaluate a gather task (R309 to R330). -/
def gatherEval (c : Ctx) (t : Table) (d : List Byte) (ad : Option Adapter) : GOut :=
  let g := gBody d
  let img : Ev (Option AdImg) :=
    match (if g.adapt && !g.raw then ad else none) with
    | none => .pure none
    | some a => (pagesRead c.s a.pages (adapterSize a)).bind fun x => .pure (some ⟨a, pbBytes x, pbBad x⟩)
  match (tableGrants c t).bind fun _ => img with
  | .need l => .need l
  | .stop e tr => .fin [] (some e) tr
  | .ok ai tr =>
    match gatherBags c t g ai g.nbags 0 0 with
    | .need l => .need l
    | .fin bs e tr' => .fin bs e (tr ++ tr')

/-- Saturate at 2^32 − 1 (R312). -/
def sat32 (n : Nat) : Nat := min n (2 ^ 32 - 1)

/-- The record of a gather task (R312, R91, R92). -/
def gatherRec (g : GBody) (bags : List BagOut) (stop : Option Stop) : Rec :=
  let dropped := sat32 (bags.map (·.dropped)).sum
  let poison := bags.any (·.poisoned)
  let base : Rec := match stop with
    | some e => Rec.abort e.status e.detail (if e.status = 0x11 then 0 else e.unit) e.pos e.coord
    | none => { Rec.ok g.nbags 0 (bags.map (·.pooled)).sum with status := if poison then 2 else 0 }
  { base with
    empty := bags.any (·.empty), dropped := bags.any (fun b => 0 < b.dropped), poison := poison, result := dropped }

/-- POISON_DELIVERED (R486): handle, first unit that carried poison, how many did, and the first poisoned row. -/
def postPoison (s : State) (i : Nat) (t : TaskRun) (handle : Nat) (bags : List BagOut) : State :=
  match bags.findIdx? (·.poisoned) with
  | none => s
  | some k =>
    let row := match bags[k]? with
      | some b => (match b.badRows with | (r, _) :: _ => r | [] => 2 ^ 64 - 1)
      | none => 2 ^ 64 - 1
    postTask s i t 0x0601 4 handle (k % 2 ^ 32 + 2 ^ 32 * (bags.filter (·.poisoned)).length) row 0

/-- The live counters of a function's gather tasks (Table 11.7). -/
def gatherCount (s : State) (f : Nat) (bags : List BagOut) (adapted : Bool) : State :=
  let add (o n : Nat) (s : State) : State := cntAdd s (rk f o) n
  add 0x3238 (b2n adapted) (add 0x3220 (bags.filter (·.poisoned)).length (add 0x3218 (bags.filter (·.empty)).length
    (add 0x3210 (bags.map (·.dropped)).sum (add 0x3208 (bags.map (·.pooled)).sum (add 0x3200 bags.length s)))))

/-- What a gather task does next (R301, R312). -/
def gatherPlan (s : State) (i : Nat) (t : TaskRun) : Plan :=
  match taskTable s i (streamPart s i) (t.u32 8) with
  | none => .fin false [] (fun t s => endTask s i t (Rec.abort 0x11 1 0 0 0))
  | some tb =>
    match gatherEval (taskCtx s i t) tb t.desc t.adapter with
    | .need l => .need l
    | .fin bags stop tr => .fin true tr (fun t s =>
      let g := gBody t.desc
      let f := streamFn s i
      let bags := match stop with | some e => if e.status = 0x11 then [] else bags | none => bags
      let s := bags.foldl (fun s b => b.badRows.foldl (fun s (r, sh, l) =>
        match tb.storeOf sh with | some x => postRowPoisoned s tb x r l | none => s) s) s
      let ws := bags.flatMap (·.writes)
      let n := (ws.map (fun w => match w with | .host _ b => b.length | .dev _ b _ => b.length)).sum
      let s := cntAdd (doWrites s f ws) telBytes n
      let s := gatherCount s f bags (g.adapt && !g.raw && t.adapter.isSome && !bags.isEmpty)
      let s := postPoison s i t g.handle bags
      endTask s i t (gatherRec g bags stop))

/-- Bring a gather task as far as what has landed and the quoin allow. -/
def gatherRun (s : State) (i type : Nat) : State :=
  match runningTask s i type with
  | none => s
  | some t => runPlan s i t (gatherPlan s i t)

/-- GATHER_POOL (R315 to R330). -/
def execGatherPool (i : SId) (s : State) : Host.Outcome State Fault Refusal := .next (gatherRun s i.val 1)

/-- GATHER_ROWS (R317, R320). -/
def execGatherRows (i : SId) (s : State) : Host.Outcome State Fault Refusal := .next (gatherRun s i.val 2)

end Sys2Proof.Machine
end

