-- ==== Sys2Proof/Machine/Links.lean ====
section
/-! DEFINITION. Isxia links (chapter 13): frames and their control slots (R366, R368), slots and credits (R369 to
R371, R374, R375), retry and failure (R376 to R380), training outcomes (R381), doze and stop (R382 to R384), and
routing (R385 to R390). -/

namespace Sys2Proof.Machine

/-! ### Links -/

/-- Initial credits of the ten pools (Table 13.5). -/
def initCredits : List Nat := [128, 128, 128, 128, 128, 128, 32, 32, 32, 32]

/-- A link before any training: NO_PEER, the first FSEQ 1 (log entry 16). -/
def Link.fresh : Link :=
  ⟨1, 0, false, false, 0, 0, false, false, [], 0, 0, 0, 0, 0, 0, 1, [], 0, none, 0, 0, false, 0,
    List.replicate 10 0, List.replicate 10 0, List.replicate 10 0, [], [], [], [], false, [], [], none⟩

/-- Link l, and its replacement. -/
def linkOf (s : State) (l : Nat) : Link := lkD s.pod.links l Link.fresh
def setLink (s : State) (l : Nat) (k : Link) : State := { s with pod := { s.pod with links := put s.pod.links l k } }

/-- Counters of link l (Table 13.10). -/
def lnkCnt (l o : Nat) : Nat := lnkKey (0x1000 + 0x100 * l + o)

/-- A link whose port may carry messages: in UP, or in a state from which traffic wakes it or is held for it, with
its data channels open (R382 to R384, R387; log entry 17). -/
def Link.live (k : Link) : Bool := k.open_ && (k.st == 3 || k.st == 4 || k.st == 5 || k.st == 6)

/-- The pool of a flit by VC, dateline class and header POOL (Table 13.5). -/
def poolOf (vc cls pool : Nat) : Nat := if vc = 3 then 6 + 2 * (pool % 2) + cls % 2 else 2 * vc + cls % 2

/-! ### Message headers (Table 13.4) -/

/-- Header fields of message bytes. -/
def mDst (b : List Byte) : Nat := leAt b 0 2 % 64
def mSrc (b : List Byte) : Nat := leAt b 0 2 / 64 % 64
def mVc (b : List Byte) : Nat := leAt b 0 2 / 4096 % 4
def mPool (b : List Byte) : Nat := leAt b 0 2 / 16384 % 2
def mMore (b : List Byte) : Bool := bitOf (leAt b 0 2) 15
def mType (b : List Byte) : Nat := leAt b 2 1
def mPlen (b : List Byte) : Nat := leAt b 6 2 % 2048
def mPart (b : List Byte) : Nat := leAt b 6 2 / 2048
def mTrain (b : List Byte) : Nat := leAt b 8 4
def mSeg (b : List Byte) : Nat := leAt b 12 2
def mDirset (b : List Byte) : Nat := leAt b 14 2 % 8
def mDirneg (b : List Byte) : Nat := leAt b 14 2 / 8 % 8

/-- Flits of a message of n bytes. -/
def flitsOf (n : Nat) : Nat := cdiv n 32

/-- A header. -/
def mkHeader (dst src vc pool : Nat) (more : Bool) (mtype mseq plen part train seg : Nat) : List Byte :=
  leBytes 2 (dst % 64 + 64 * (src % 64) + 4096 * (vc % 4) + 16384 * (pool % 2) + 32768 * b2n more) ++
  leBytes 2 (mtype % 256) ++ leBytes 2 mseq ++ leBytes 2 (plen % 2048 + 2048 * (part % 32)) ++ leBytes 4 train ++
  leBytes 2 seg ++ leBytes 2 0

/-- Set DIRSET, DIRNEG and EXPRESS in message bytes. -/
def setDirs (b : List Byte) (dirset dirneg : Nat) (express : Bool) : List Byte :=
  slice b 0 14 ++ leBytes 2 (dirset % 8 + 8 * (dirneg % 8) + 64 * b2n express) ++ b.drop 16

/-- The messages of one pod message: one, or a train of segments (13.3). The last segment carries the message's
MSEQ. -/
def segments (m : Msg) (train : Nat) : List (List Byte) :=
  let p := bodyBytes m.body
  let cs := if p.isEmpty then [[]] else chunks 2032 p
  let n := cs.length
  cs.zipIdx.map (fun (c, i) =>
    mkHeader m.hdr.dst.val m.hdr.src.val (bodyVc m.body) (bodyPool m.body) (i + 1 < n) (mtypeOf m.body)
      ((m.hdr.mseq.toNat + 65536 - (n - 1 - i)) % 65536) c.length m.hdr.part.val (if n = 1 then 0 else train) i ++ c)

/-! ### Frames (R366, R368, Tables 13.2 and 13.3) -/

/-- The low 28 bytes of a control slot. -/
def controlHead (k : Link) (lreq : Nat) (slots : List Nat) : List Byte :=
  leBytes 2 (k.ackSeq % 4096 + 4096 * b2n k.nak) ++
  leBytes 10 (slots.zipIdx.map (fun (v, i) => v * 16 ^ i)).sum ++
  leBytes 15 (k.freed.zipIdx.map (fun (v, i) => v % 4096 * 4096 ^ i)).sum ++ leBytes 1 lreq

/-- The CRC of a frame. -/
def frameCrc (fcw : Nat) (head : List Byte) (flits : List (List Byte)) : W32 :=
  crc32c (leBytes 3 (fcw % 2 ^ 20) ++ head ++ flits.flatten)

/-- A frame with current control values: FTYPE, FSEQ, LREQ, slot map, flits. -/
def mkFrame (k : Link) (ftype fseq lreq : Nat) (slots : List Nat) (flits : List (List Byte)) : Frame :=
  let fs := (List.range 19).map (fun i => slice (flits.getD i []) 0 32)
  let fcw := ftype + 4 * fseq
  let head := controlHead k lreq slots
  ⟨BitVec.ofNat 20 fcw, head ++ leBytes 4 (frameCrc fcw head fs).toNat, fs, some 0⟩

/-- Whether a received frame is good (R368, R397). -/
def frameGood (f : Frame) : Bool :=
  let w := f.fcw.toNat
  f.decode.isSome && f.control.length == 32 && f.flits.length == 19 && f.flits.all (fun x => x.length == 32) &&
  decide (w % 4 ≤ 1) && w / 2 ^ 14 == 0 && (w % 4 == 0 || w / 4 == 0) &&
  leAt f.control 0 2 / 2 ^ 13 == 0 && leAt f.control 2 10 / 2 ^ 76 == 0 && leAt f.control 0x1B 1 / 4 == 0 &&
  leAt f.control 0x1C 4 == (frameCrc w (slice f.control 0 28) f.flits).toNat

/-! ### Choosing flits (R374, R375) -/

/-- Flits of a partition on a VC over the last 64 frames, and of everyone. -/
def shareOf (k : Link) (vc p : Nat) : Nat := (k.shares.map (fun t => lkD t (vc * 64 + p) 0)).sum
def shareAll (k : Link) (vc : Nat) : Nat :=
  (k.shares.map (fun t => ((t.filter (fun e => e.1 / 64 == vc)).map (·.2)).sum)).sum

/-- How far a waiting message's partition is below its share, scaled; zero where it is not. -/
def below (s : State) (k : Link) (m : LMsg) : Nat :=
  if m.part < 32 && (m.vc == 0 || m.vc == 2) then
    (part s m.part).q.linkShare * shareAll k m.vc - 256 * shareOf k m.vc m.part
  else 0

/-- Whether message a goes before message b among injected ones. -/
def injBefore (s : State) (k : Link) (a b : LMsg) : Bool :=
  let x := below s k a
  let y := below s k b
  if x ≠ y then decide (y < x)
  else if x ≠ 0 then decide (a.at_ < b.at_)
  else decide (a.prio < b.prio) || (a.prio == b.prio && decide (a.at_ < b.at_))

/-- The best of a list, the earlier one where neither goes before the other. -/
def bestOf {α : Type} (before : α → α → Bool) : List α → Option α
  | [] => none
  | a :: t => match bestOf before t with
    | none => some a
    | some b => if before b a then some b else some a

/-- The index of the message whose flit goes next on a VC and class: the message in progress, or the next under
R375. -/
def nextMsg (s : State) (k : Link) (vc cls : Nat) : Option Nat :=
  let q := (k.queue.zipIdx).filter (fun e => e.1.vc == vc && e.1.cls == cls)
  match q.find? (fun e => 0 < e.1.sent) with
  | some e => some e.2
  | none =>
    let tr := q.filter (·.1.transit)
    let inj := q.filter (fun e => !e.1.transit)
    let pickInj := (bestOf (fun a b => injBefore s k a.1 b.1) inj).map (·.2)
    if lkD k.lastTransit (vc * 2 + cls) false then
      (match pickInj with | some i => some i | none => tr.head?.map (·.2))
    else (match tr.head? with | some e => some e.2 | none => pickInj)

/-- A frame being filled: its link, slot map, flits, and the partitions' flits. -/
structure Fill where
  k : Link
  slots : List Nat
  flits : List (List Byte)
  share : Tab Nat
  done : List LMsg

/-- The message that can send a flit on a VC: class D0 before D1 where both can. -/
def readyMsg (s : State) (k : Link) (vc : Nat) : Option Nat :=
  let can (cls : Nat) : Option Nat :=
    match nextMsg s k vc cls with
    | none => none
    | some i => match k.queue[i]? with
      | some m => if k.credits.getD (poolOf vc cls m.pool) 0 = 0 then none else some i
      | none => none
  match can 0 with
  | some i => some i
  | none => can 1

/-- Put up to n flits of a VC into a frame. -/
def fillVc (s : State) (vc : Nat) : Nat → Fill → Fill
  | 0, f => f
  | n + 1, f =>
    if 19 ≤ f.slots.length then f
    else
      match readyMsg s f.k vc with
      | none => f
      | some i =>
        match f.k.queue[i]? with
        | none => f
        | some m =>
          let pool := poolOf m.vc m.cls m.pool
          let fin := decide (flitsOf m.bytes.length ≤ m.sent + 1)
          let k := { f.k with
            credits := f.k.credits.set pool (f.k.credits.getD pool 0 - 1)
            queue := if fin then f.k.queue.eraseIdx i else f.k.queue.set i { m with sent := m.sent + 1 }
            lastTransit := if m.sent = 0 then put f.k.lastTransit (m.vc * 2 + m.cls) m.transit else f.k.lastTransit }
          fillVc s vc n { k := k, slots := f.slots ++ [1 + 2 * m.vc + 8 * m.cls]
                          flits := f.flits ++ [slice m.bytes (32 * m.sent) 32]
                          share := if m.transit then f.share else updD f.share (m.vc * 64 + m.part % 64) 0 (· + 1)
                          done := if fin then f.done ++ [m] else f.done }

/-- The virtual channels a link carries: MGMT alone until its data channels open (13.9). -/
def openVcs (k : Link) : List Nat := if k.open_ then [0, 1, 2, 3] else [3]

/-- Fill a frame (R374). -/
def fillFrame (s : State) (k : Link) : Fill :=
  let vcs := openVcs k
  let f := vcs.foldl (fun f v => fillVc s v 2 f) ⟨k, [], [], [], []⟩
  let order := if k.turn then [2, 1, 0, 3] else [2, 1, 3, 0]
  (order.filter vcs.contains).foldl (fun f v => fillVc s v 19 f) f

/-! ### Idleness and doze (R382) -/

/-- Nothing to send, nothing partly received, nothing unacknowledged. -/
def Link.quiet (k : Link) : Bool := k.queue.isEmpty && k.unacked.isEmpty && k.rx.isEmpty

/-- A link may doze: idle for LNK_DOZE_HOLD, or at once in device DOZE and DEEP. -/
def mayDoze (s : State) (k : Link) : Bool :=
  let h := min 10000 (bar2Eff s 0x40024)
  k.st == 3 && k.quiet && (decide (2 ≤ devState s) || (h != 0 && decide (k.idleAt + h * usT ≤ s.clk.timer)))

/-- A link enters doze; its credits, retry buffer and FSEQ state stay. -/
def dozeLink (s : State) (l : Nat) : State :=
  cntAdd (setLink s l { linkOf s l with st := 4, lreq := 0, downAt := s.clk.timer }) (lnkCnt l 0x24) 1

/-! ### Failure (R377 to R380) -/

/-- The neighbour one step from this device through a port, and the ring size of the port's dimension. -/
def ringSize (s : State) (dim : Nat) : Nat := [s.pod.nx, s.pod.ny, s.pod.nz].getD dim 1
def coord (d dim : Nat) : Nat := d / 4 ^ dim % 4

/-- The links of a port: its torus links, and spare links assigned to it, in ascending number. -/
def portLinks (s : State) (p : Nat) : List Nat :=
  [2 * p, 2 * p + 1] ++ [12, 13, 14, 15].filter (fun l => (linkOf s l).role == 2 && (linkOf s l).port == p)

/-- The live set of a port (R387). -/
def liveSet (s : State) (p : Nat) : List Nat :=
  let t := [2 * p, 2 * p + 1].filter (fun l => (linkOf s l).live)
  if t.length < 2 then (portLinks s p).filter (fun l => (linkOf s l).live) else t

/-- The port a link serves: none for an express or unused one. -/
def linkPort (s : State) (l : Nat) : Option Nat :=
  if l < 12 then some (l / 2) else if (linkOf s l).role = 2 then some (linkOf s l).port else none

/-- Move every message whose last flit is unacknowledged to a live link of the port, ahead of later ones (R379). -/
def failover (s : State) (l : Nat) : State :=
  let k := linkOf s l
  match linkPort s l with
  | none => s
  | some p =>
    match (liveSet s p).filter (· != l) with
    | [] => s
    | m :: _ =>
      let moved := (k.sentMsgs.map (·.2) ++ k.queue).map (fun x => { x with sent := 0 })
      let s := setLink s l { k with sentMsgs := [], queue := [], rx := [] }
      let km := linkOf s m
      setLink s m { km with queue := moved ++ km.queue }

/-- A link leaves UP for training. -/
def toTraining (s : State) (l : Nat) : State :=
  setLink s l { linkOf s l with
    st := 2, width := 0, pair := false, badRun := 0, downAt := s.clk.timer, resendFrom := none, lreq := 0, fullFails := 0 }

/-- A failure: a flap is counted, the port fails over, and the link retrains, or is quarantined at the eighth flap
within 1 s. -/
def linkFail (s : State) (l : Nat) : State :=
  let k := linkOf s l
  let fl := (k.flaps ++ [s.clk.aon]).filter (fun t => decide (s.clk.aon < t + secT))
  let s := cntAdd (setLink s l { k with flaps := fl }) (lnkCnt l 0x20) 1
  let s := toTraining s l
  let s := failover s l
  if 8 ≤ fl.length then postG (setLink s l { linkOf s l with st := 7 }) 0x0701 4 l 0 0 0 else s

/-- The condition of a failure that the link itself finds (R377); the others come from the lanes. -/
def failsNow (s : State) (k : Link) (cause : LinkCause) : Bool :=
  match cause with
  | .badFrames => decide (8 ≤ k.badRun)
  | .resends => k.unacked.any (fun f => decide (16 ≤ f.resent))
  | .unacked => !k.unacked.isEmpty && decide (k.unackedAt + 100 * usT ≤ s.clk.timer)
  | .clock => true
  | .training => true

/-- LINK_FAILURE (R377, R379, R380). -/
def execLinkFailure (l : Lnk) (cause : LinkCause) (s : State) : Host.Outcome State Fault Refusal :=
  let k := linkOf s l.val
  .next (if s.pwr.off then s else if (k.st == 3 || k.st == 9) && failsNow s k cause then linkFail s l.val else s)

/-! ### Sending (R374, R376) -/

/-- The next frame of a link. -/
def transmit (s : State) (l : Nat) : State :=
  let k := linkOf s l
  let lreq := if k.lreq = 0 && mayDoze s k then 1 else k.lreq
  let idle (k : Link) : State :=
    let s := setLink s l { k with out := k.out ++ [mkFrame k 1 0 lreq [] []], lreq := lreq }
    if lreq = 2 then dozeLink s l else s
  match k.resendFrom with
  | some q =>
    (match k.unacked.find? (fun f => f.fseq == q) with
     | none => idle { k with resendFrom := none }
     | some f =>
       let g := { f with resent := f.resent + 1 }
       let k := { k with
         unacked := k.unacked.map (fun x => if x.fseq == q then g else x)
         resendFrom := some ((q + 1) % 4096), out := k.out ++ [mkFrame k 0 q lreq f.slots f.flits] }
       let s := cntAdd (setLink s l k) (lnkCnt l 0x1C) 1
       if 16 ≤ g.resent then linkFail s l else s)
  | none =>
    if 256 ≤ k.unacked.length then idle k
    else
      let f := fillFrame s k
      if f.slots.isEmpty then idle k
      else
        let k' := { f.k with
          unacked := k.unacked ++ [⟨k.fseq, f.slots, f.flits, 0⟩]
          unackedAt := if k.unacked.isEmpty then s.clk.timer else k.unackedAt
          sentMsgs := k.sentMsgs ++ f.done.map (fun m => (k.fseq, m))
          fseq := (k.fseq + 1) % 4096, turn := !k.turn, idleAt := s.clk.timer
          shares := (f.share :: k.shares).take 64
          out := k.out ++ [mkFrame k 0 k.fseq k.lreq f.slots f.flits] }
        setLink s l k'

/-- Whether a link's logic runs: its domain is not stopped (R55). -/
def linkRuns (s : State) : Bool := dom s 2 == 0 && !dpStop s

/-- FRAME_TRANSMIT. -/
def execFrameTransmit (l : Lnk) (s : State) : Host.Outcome State Fault Refusal :=
  let k := linkOf s l.val
  .next (if linkRuns s && (k.st == 3 || k.st == 9) then transmit s l.val else s)

/-! ### Receiving (R368, R371, R376) -/

/-- Whether FSEQ a is acknowledged by an ACK_SEQ. -/
def ackedBy (a ack : Nat) : Bool := decide ((ack + 4096 - a) % 4096 < 2048)

/-- Take an acknowledgement: frames at or before it leave the retry buffer. -/
def takeAck (s : State) (k : Link) (ack : Nat) : Link :=
  let rest := k.unacked.filter (fun f => !ackedBy f.fseq ack)
  { k with
    unacked := rest, sentMsgs := k.sentMsgs.filter (fun m => !ackedBy m.1 ack)
    unackedAt := if rest.length < k.unacked.length then s.clk.timer else k.unackedAt
    idleAt := if rest.length < k.unacked.length then s.clk.timer else k.idleAt }

/-- Take the cumulative credit counters (R371). -/
def takeCredits (k : Link) (new : List Nat) : Link :=
  { k with
    credits := (List.range 10).map (fun n => k.credits.getD n 0 + (new.getD n 0 + 4096 - k.seen.getD n 0) % 4096)
    seen := new }

/-- Flits of a message leave the receive buffer of a link (R371). -/
def freeFlits (s : State) (l vc cls pool n : Nat) : State :=
  if 16 ≤ l then s
  else
    let k := linkOf s l
    let i := poolOf vc cls pool
    setLink s l { k with freed := k.freed.set i ((k.freed.getD i 0 + n) % 4096) }

/-- The segments of a train that wait in the inbox, in order (13.3). -/
def trainParts (s : State) (b : List Byte) : List RawMsg :=
  (List.range (mSeg b)).filterMap (fun g => s.pod.inbox.find? (fun r =>
    mMore r.bytes && mSrc r.bytes == mSrc b && mVc r.bytes == mVc b && mTrain r.bytes == mTrain b && mSeg r.bytes == g))

/-- A whole message has arrived by a link and class: for this device, or on its way (R393 for lost members). -/
def deliver (s : State) (l cls : Nat) (bytes : List Byte) : State :=
  let s := freeFlits s l (mVc bytes) cls (mPool bytes) (flitsOf bytes.length)
  let b := slice bytes 0 (16 + mPlen bytes)
  if maskBit s.pod.lost (mSrc b) && mVc b ≠ 3 || maskBit s.pod.lost (mDst b) then s
  else if mDst b ≠ me s then
    { s with pod := { s.pod with transit := s.pod.transit ++ [⟨l, cls, s.clk.timer, b⟩] } }
  else if mTrain b ≠ 0 && !mMore b && mSeg b ≠ 0 then
    let ps := trainParts s b
    if ps.length ≠ mSeg b then s
    else
      let whole := slice b 0 16 ++ ps.flatMap (fun r => r.bytes.drop 16) ++ b.drop 16
      { s with pod := { s.pod with inbox := s.pod.inbox.filter (fun r => !ps.contains r) ++ [⟨l, cls, s.clk.timer, whole⟩] } }
  else { s with pod := { s.pod with inbox := s.pod.inbox ++ [⟨l, cls, s.clk.timer, b⟩] } }

/-- One accepted flit: it joins the message in progress on its VC and class (R369). -/
def takeFlit (s : State) (l slot : Nat) (flit : List Byte) : State :=
  if slot % 2 = 0 then s
  else
    let vc := slot / 2 % 4
    let cls := slot / 8 % 2
    let k := linkOf s l
    let b := lkD k.rx (vc * 2 + cls) [] ++ flit
    if flitsOf (16 + mPlen b) ≤ flitsOf b.length then
      deliver (setLink s l { k with rx := del k.rx (vc * 2 + cls) }) l cls b
    else setLink s l { k with rx := put k.rx (vc * 2 + cls) b }

/-- The control slot of a good frame, and the flits of the frame expected. -/
def takeGood (s : State) (l : Nat) (f : Frame) : State :=
  let k := linkOf s l
  let w := leAt f.control 0 2
  let ack := w % 4096
  let k := takeCredits (takeAck s k ack) ((List.range 10).map (fun n => leAt f.control 0x0C 15 / 4096 ^ n % 4096))
  let k := if bitOf w 12 && !k.unacked.isEmpty then { k with resendFrom := some ((ack + 1) % 4096) } else k
  let lreq := leAt f.control 0x1B 1
  let k := { k with badRun := 0, lreq := if lreq = 1 then (if mayDoze s k then 2 else 0) else k.lreq }
  let fseq := f.fcw.toNat / 4
  let expected := f.fcw.toNat % 4 == 0 && fseq == (k.ackSeq + 1) % 4096
  let k := if f.fcw.toNat % 4 = 0 then
      (if expected then { k with ackSeq := fseq, nak := false, idleAt := s.clk.timer } else { k with nak := true })
    else k
  let s := setLink s l k
  let s := if expected then
      (f.flits.zipIdx).foldl (fun s (b, i) => takeFlit s l (leAt f.control 2 10 / 16 ^ i % 16) b) s
    else s
  if lreq = 3 then setLink s l { linkOf s l with st := 6, downAt := s.clk.timer }
  else if lreq = 2 && (linkOf s l).lreq = 1 && mayDoze s (linkOf s l) then dozeLink s l
  else s

/-- FRAME_RECEIVE (R368): the codeword is counted; a frame that is not good sets NAK, and the eighth in a row fails
the link. -/
def receive (s : State) (l : Nat) (f : Frame) : State :=
  let s := cntAdd s (lnkCnt l 0x08) 1
  let s := match f.decode with
    | some n => cntAdd s (lnkCnt l 0x10) n
    | none => cntAdd s (lnkCnt l 0x18) 1
  if frameGood f then takeGood s l f
  else
    let k := linkOf s l
    let s := setLink s l { k with badRun := k.badRun + 1, nak := true }
    if 8 ≤ k.badRun + 1 then linkFail s l else s

def execFrameReceive (l : Lnk) (f : Frame) (s : State) : Host.Outcome State Fault Refusal :=
  let k := linkOf s l.val
  .next (if linkRuns s && (k.st == 3 || k.st == 9) then receive s l.val f else s)

/-! ### Training (R378, R381, Table 13.9) -/

/-- The width and lane pair of the lanes that pass on both ends (R381). -/
def widthOf (lanes : Nat) (narrow : Bool) : Option (Nat × Bool) :=
  if lanes % 16 = 15 && !narrow then some (2, false)
  else if lanes % 4 = 3 then some (1, false)
  else if lanes / 4 % 4 = 3 then some (1, true)
  else none

/-- JOIN_HELLO on a link (R395). -/
def helloOn (s : State) (l : Nat) : State :=
  sendMsg s (linkOf s l).peerDev 32
    (.joinHello ⟨⟨l % 16, Nat.mod_lt _ (by decide)⟩, s.pod.key, s.pod.nx, s.pod.ny, s.pod.nz, s.pod.members⟩)

/-- A link reaches UP: width, fresh credits, and the replay from the peer's ACK_SEQ + 1 (R370, R378). -/
def linkUp (s : State) (l : Nat) (w : Nat × Bool) (dev plink peerAck : Nat) : State :=
  let k := linkOf s l
  let k := takeAck s { k with
    st := 3, width := w.1, pair := w.2, peerDev := dev, peerLink := plink, fullFails := 0, badRun := 0, nak := false, hello := none
    credits := initCredits, freed := List.replicate 10 0, seen := List.replicate 10 0
    idleAt := s.clk.timer, unackedAt := s.clk.timer } peerAck
  let k := { k with resendFrom := if k.unacked.isEmpty then none else some ((peerAck + 1) % 4096)
                    unacked := k.unacked.map (fun f => { f with resent := 0 }) }
  let s := setLink s l k
  if s.pod.joined then helloOn s l else s

/-- LINK_RETRAIN_DONE: a quick retrain or a full training ends. -/
def execLinkRetrainDone (l : Lnk) (full : Bool) (obs : TrainObs) (peerAck : BitVec 12) (s : State) :
    Host.Outcome State Fault Refusal :=
  let k := linkOf s l.val
  .next (if k.st ≠ 2 || dpStop s then s
    else
      match (if obs.peerSeen then widthOf obs.lanes.toNat k.narrow else none) with
      | some w => linkUp s l.val w obs.peerDev.val obs.peerLink.val peerAck.toNat
      | none =>
        if !full then s
        else if 3 ≤ k.fullFails + 1 then
          postG (setLink s l.val { k with st := 8, fullFails := 0 }) 0x0703 4 l.val 0 0 0
        else setLink s l.val { k with fullFails := k.fullFails + 1 })

/-- LINK_PEER_DETECT (R530): a link that reads NO_PEER begins training. -/
def execLinkPeerDetect (l : Lnk) (s : State) : Host.Outcome State Fault Refusal :=
  .next (if (linkOf s l.val).st = 1 && !s.pwr.off && !s.jtag.outOfService then toTraining s l.val else s)

/-! ### Doze, wake and stop (R382 to R384) -/

/-- LINK_DOZE_ENTRY: the handshake, with whether the peer is idle too; otherwise the request lapses. -/
def execLinkDozeEntry (l : Lnk) (peerIdle : Bool) (s : State) : Host.Outcome State Fault Refusal :=
  .next (if s.pwr.off then s else if peerIdle && mayDoze s (linkOf s l.val) then dozeLink s l.val else s)

/-- LINK_WAKE: a side leaves electrical idle; demand rises on LINK, and the link is in UP once its logic runs. -/
def execLinkWake (l : Lnk) (s : State) : Host.Outcome State Fault Refusal :=
  let k := linkOf s l.val
  .next (if dpStop s || !(k.st == 4 || k.st == 5 || k.st == 6) then s
    else
      let s := demandOn s 2
      setLink s l.val { k with st := if dom s 2 = 0 then 3 else 5, idleAt := s.clk.timer, lreq := 0 })

/-- LINK_STOP_NOTICE: the peer stops; the link neither wakes nor flaps (R384). -/
def execLinkStopNotice (l : Lnk) (s : State) : Host.Outcome State Fault Refusal :=
  let k := linkOf s l.val
  .next (if s.pwr.off then s else if k.st == 3 || k.st == 4 || k.st == 5 then
      setLink s l.val { k with st := 6, downAt := s.clk.timer, lreq := 0 } else s)

/-! ### Routing (R387 to R389) -/

/-- Hops between two devices. -/
def hops (s : State) (a b : Nat) : Nat :=
  ((List.range 3).map (fun dim =>
    let n := max (ringSize s dim) 1
    let d := (coord b dim + n - coord a dim % n) % n
    min d (n - d))).sum

/-- A hop: the port, the dateline class, DIRSET and DIRNEG. -/
structure Hop where
  port : Nat
  cls : Nat
  dirset : Nat
  dirneg : Nat
deriving DecidableEq, Repr

/-- One dimension of R388: none where the message is there already. -/
def hopIn (s : State) (dst dirset dirneg cls dim : Nat) : Option Hop :=
  let n := max (ringSize s dim) 1
  let cur := coord (me s) dim
  let delta := (coord dst dim + n - cur % n) % n
  if delta = 0 then none
  else
    let first := !bitOf dirset dim
    let neg0 := decide (n - delta < delta)
    let live (neg : Bool) : Bool := !(liveSet s (2 * dim + b2n neg)).isEmpty
    let neg := if first then (if !live neg0 && n == 4 && live (!neg0) then !neg0 else neg0) else bitOf dirneg dim
    let c := if first then 0 else cls
    let crosses := (neg && cur == 0) || (!neg && cur == n - 1)
    some ⟨2 * dim + b2n neg, if crosses then 1 else c, if first then dirset + 2 ^ dim else dirset,
      if first then dirneg + 2 ^ dim * b2n neg else dirneg⟩

/-- The next hop by dimension order; none where the message has arrived. -/
def nextHop (s : State) (dst dirset dirneg cls : Nat) : Option Hop :=
  match hopIn s dst dirset dirneg cls 0 with
  | some h => some h
  | none => match hopIn s dst dirset dirneg cls 1 with
    | some h => some h
    | none => hopIn s dst dirset dirneg cls 2

/-- The express link a message may take at its source (R389). -/
def expressLink (s : State) (dst : Nat) : Option Nat :=
  let c := [12, 13, 14, 15].filter (fun l =>
    let k := linkOf s l
    k.role == 1 && k.st == 3 && k.open_ && decide (hops s k.rolePeer dst + 1 < hops s (me s) dst))
  bestOf (fun a b => decide (hops s (linkOf s a).rolePeer dst < hops s (linkOf s b).rolePeer dst)) c

/-- The live link of a port for a pair: the one that still has the pair's messages, or the (src + dst)-th (R387). -/
def pairLink (s : State) (p src dst : Nat) : Option Nat :=
  let live := liveSet s p
  let mine (m : LMsg) : Bool := m.src == src && m.dst == dst
  match live.find? (fun l => (linkOf s l).queue.any mine || (linkOf s l).sentMsgs.any (fun e => mine e.2)) with
  | some l => some l
  | none => live[(src + dst) % max live.length 1]?

/-- STR_PRIO of the stream whose task opened a request; 0 for the driver domain and for answers (R375). -/
def msgPrio (s : State) (req part : Nat) : Nat :=
  if 32 ≤ part then 0
  else
    match s.streams.find? (fun e => match e.2.task with
      | some t => t.ex.any (fun x => x.2.reqId == req)
      | none => false) with
    | some (i, _) => strEff s i 0x0C
    | none => 0

/-- Queue a message on a link. -/
def queueOn (s : State) (l : Nat) (m : LMsg) : State :=
  let k := linkOf s l
  setLink s l { k with queue := k.queue ++ [m] }

/-- A message that no live link takes (R388). -/
def unroutable (s : State) : State :=
  let s := cntAdd s (lnkKey 0x30) 1
  { s with pod := { s.pod with runUnroutable := s.pod.runUnroutable + 1 } }

/-- Route message bytes at this device by R388. -/
def routeBytes (s : State) (b : List Byte) (cls prio part : Nat) (transit : Bool) : State :=
  match nextHop s (mDst b) (mDirset b) (mDirneg b) cls with
  | none => { s with pod := { s.pod with inbox := s.pod.inbox ++ [⟨16, 0, s.clk.timer, b⟩] } }
  | some h =>
    match pairLink s h.port (mSrc b) (mDst b) with
    | none => unroutable s
    | some l =>
      queueOn s l ⟨setDirs b h.dirset h.dirneg (bitOf (leAt b 14 2) 6), mVc b, h.cls, mPool b, mSrc b, mDst b, part,
        transit, prio, s.clk.timer, 0⟩

/-- Route one of this device's own messages. -/
def routeOwn (s : State) (m : Msg) : State :=
  let s := { s with pod := { s.pod with nextTrain := s.pod.nextTrain + 1 } }
  let bs := segments m s.pod.nextTrain
  let prio := if bodyVc m.body = 0 ∨ bodyVc m.body = 2 then msgPrio s (bodyReq m.body) m.hdr.part.val else 0
  let whole (express : Bool) (b : List Byte) : LMsg :=
    ⟨setDirs b 0 0 express, mVc b, 0, mPool b, mSrc b, mDst b, m.hdr.part.val, false, prio, s.clk.timer, 0⟩
  match m.body with
  | .joinHello j => bs.foldl (fun s b => queueOn s j.link.val (whole false b)) s
  | _ =>
    match expressLink s m.hdr.dst.val with
    | some l => bs.foldl (fun s b => queueOn s l (whole true b)) s
    | none => bs.foldl (fun s b => routeBytes s b 0 prio m.hdr.part.val false) s

/-- ATOM messages sent to a device whose answer is awaited (R432). -/
def atomOut (s : State) (d : Nat) : Nat :=
  let n (ex : Tab Exch) : Nat := (ex.filter (fun e => e.2.dst == d && e.2.why == 0 && bodyVc e.2.body == 2 &&
    !s.pod.outbox.any (fun m => m.hdr.dst.val == d && mtypeOf m.body == mtypeOf e.2.body && bodyReq m.body == bodyReq e.2.body))).length
  (s.streams.map (fun e => match e.2.task with | some t => n t.ex | none => 0)).sum + (s.ops.map (fun o => n o.ex)).sum

/-- Whether a message may leave now: at most 32 ATOM messages await an answer toward one destination. -/
def mayLeave (s : State) (m : Msg) : Bool := bodyVc m.body != 2 || decide (atomOut s m.hdr.dst.val < 32)

/-- MESSAGE_ROUTE: the first message of this device, or the first in transit that came by a link. -/
def execMessageRoute (inLink : Option Lnk) (s : State) : Host.Outcome State Fault Refusal :=
  .next (if !linkRuns s then s
    else match inLink with
    | none =>
      (match s.pod.outbox.find? (mayLeave s) with
       | none => s
       | some m => routeOwn { s with pod := { s.pod with outbox := s.pod.outbox.erase m } } m)
    | some l =>
      match s.pod.transit.find? (fun r => r.link == l.val) with
      | none => s
      | some r =>
        let s := { s with pod := { s.pod with transit := s.pod.transit.erase r } }
        routeBytes s r.bytes r.cls 0 (mPart r.bytes) true)

/-! ### Summaries and timeouts -/

/-- POD_SUMMARY: once a second, where a message was discarded (R373, R388). -/
def execPodSummary (s : State) : Host.Outcome State Fault Refusal :=
  .next (if !isDue s .pod || s.pwr.off then s
    else
      let s := setDue s .pod secT
      if s.pod.runUnroutable = 0 && s.pod.runUnknown = 0 then s
      else
        let s := postG s 0x0706 2 s.pod.runUnroutable s.pod.runUnknown 0 0
        { s with pod := { s.pod with runUnroutable := 0, runUnknown := 0 } })

/-- Whether Table 13.6 or Table 14.3 defines an MTYPE. -/
def mtypeDefined (m : Nat) : Bool :=
  (decide (1 ≤ m) && decide (m ≤ 5)) || (decide (0x10 ≤ m) && decide (m ≤ 0x17)) ||
  (decide (0x20 ≤ m) && decide (m ≤ 0x23)) || (decide (0x30 ≤ m) && decide (m ≤ 0x3A)) || m == 0x40 ||
  (decide (0x50 ≤ m) && decide (m ≤ 0x55)) || m == 0x60 || m == 0x61

/-- UNKNOWN_MTYPE (R373): discarded, counted in LNK_E2E_DUP[31:16], kept for the summary. -/
def execUnknownMtype (h : MsgHdr) (mtype : Byte) (s : State) : Host.Outcome State Fault Refusal :=
  .next (if mtypeDefined mtype.toNat || h.dst.val ≠ me s || s.pwr.off then s
    else
      let s := cntAdd (takeInbox s h (.unknown mtype)) (lnkKey 0x36) 1
      { s with pod := { s.pod with runUnknown := s.pod.runUnknown + 1 } })

/-- LNK_CREDIT_TO in AON periods (Table 13.10). -/
def creditTo (s : State) : Nat := max 1 (min 100 (bar2Eff s 0x40020)) * msT

/-- Change the exchange of a request, where a task or an operation of this device owns it. -/
def onExch (s : State) (req : Nat) (f : Exch → Exch) : State :=
  let ch (t : Tab Exch) : Tab Exch := t.map (fun e => if e.2.reqId == req then (e.1, f e.2) else e)
  { s with
    streams := s.streams.map (fun e => (e.1, { e.2 with task := e.2.task.map (fun t => { t with ex := ch t.ex }) }))
    ops := s.ops.map (fun o => { o with ex := ch o.ex }) }

/-- An answer arrives for an exchange that is owed one: it restarts the timeout (R392). -/
def answerExch (s : State) (src req : Nat) (b : MsgBody) : State :=
  onExch s req (fun e =>
    if e.dst == src && (e.why == 0 || e.why == 3) then { e with last := s.clk.timer, answers := e.answers ++ [b] } else e)

/-- TRANSIT_CREDIT_TIMEOUT (R392): transit messages of a link that have waited LNK_CREDIT_TO are discarded. -/
def execTransitCreditTimeout (l : Lnk) (s : State) : Host.Outcome State Fault Refusal :=
  let k := linkOf s l.val
  let late (m : LMsg) : Bool := m.transit && m.sent == 0 && decide (m.at_ + creditTo s ≤ s.clk.timer)
  .next (if s.pwr.off then s else cntAdd (setLink s l.val { k with queue := k.queue.filter (fun m => !late m) }) (lnkKey 0x38)
    (k.queue.filter late).length)

/-- XKEEP_SEND (R391): an answer still owed 1 ms after the request, or after the last XKEEP. -/
def execXkeepSend (src : Dev) (reqId : W32) (s : State) : Host.Outcome State Fault Refusal :=
  let k := src.val * 2 ^ 32 + reqId.toNat
  .next (match lk s.pod.owes k with
    | none => s
    | some due =>
      if s.clk.timer < due || dpStop s then s
      else sendMsg { s with pod := { s.pod with owes := put s.pod.owes k (s.clk.timer + msT) } } src.val 32 (.xkeep reqId))

/-- XKEEP received: the exchange's timeout restarts (R392). -/
def execXkeep (h : MsgHdr) (reqId : W32) (s : State) : Host.Outcome State Fault Refusal :=
  .next (onMsg s h (.xkeep reqId) (fun s => onExch s reqId.toNat (fun e =>
    if e.dst == h.src.val then { e with last := s.clk.timer } else e)))

end Sys2Proof.Machine
end

