-- ==== Sys2Proof/Machine/Regs.lean ====
section
/-! DEFINITION. Configuration and operational registers (chapter 5): buffered writes and their boundaries (R132 to
R134), aliases (R135 to R137), commits and their checks (R147 to R157), the checkers (R151, R155), and snapshots (R141
to R145). -/

namespace Sys2Proof.Machine

/-! ### Keys and boundaries -/

/-- The register a key names. -/
def keyInfo (k : Nat) : Option RegInfo :=
  if 2 ^ 24 ≤ k then bar2Reg (k - 2 ^ 24)
  else if 0x2000 ≤ k % 65536 ∧ k % 65536 < 0x3000 then slotReg ((k % 65536 - 0x2000) % 0x40) else none

/-- The region that covers a key. -/
def keyRegion (k : Nat) : Nat := if 2 ^ 24 ≤ k then 1 else regionOfFn (k / 65536)

/-- Whether the domain that holds the register's home runs, so that a held write can apply (R57): the quoin regulators lie
in CORE (Table 1.1), and the other slot registers with the fetchers. -/
def keyRuns (s : State) (k : Nat) : Bool :=
  if k < 2 ^ 24 then
    if k % 65536 / 4096 = 2 ∧ k % 64 = 0x34 then dom s 0 == 0 else dom s 3 == 0
  else
    let b := (k - 2 ^ 24) / 65536
    if b = 2 then dom s 1 == 0 else if b = 4 then dom s 2 == 0 else if b = 5 then dom s 0 == 0 else true

/-- Bring into effect the committed value of every register that a test selects. -/
def bringKeys (s : State) (p : Nat → Bool) : State :=
  (((s.cfg.committed.map (·.1)) ++ (s.cfg.effective.map (·.1))).filter p).foldl (fun s k => setEffective s k (committed s k)) s

/-- The same for registers whose home runs; a write to the others stays held (R57). -/
def applyKeys (s : State) (p : Nat → Bool) : State := bringKeys s (fun k => p k && keyRuns s k)

/-- Whether a key's register has a boundary kind. -/
def keyAt (k : Nat) (a : Applies) : Bool := match keyInfo k with | some i => i.applies == a | none => false

/-- The task boundary of a stream: its slot registers; STR_CTRL takes ENABLE and CANCEL as written and its covered
bit as committed, at once where no task is in flight, whether or not the HOSTIF engines run (R80, R86, R133; log entry 29). -/
def taskBoundary (s : State) (i : Nat) : State :=
  match (stream s i).slot with
  | none => s
  | some (f, k) =>
    if (stream s i).task.isSome then s
    else
      let ctrl := slotKey f k 8
      let s := applyKeys s (fun q => q != ctrl && keyAt q .task &&
        (decide (2 ^ 24 ≤ q) || decide (slotKey f k 0 ≤ q && q < slotKey f (k + 1) 0)))
      setEffective s ctrl ((staged s ctrl &&& 3) ||| (committed s ctrl &&& 4))

/-- LNK_DOZE_HOLD and LNK_EQ_OVR of one link take effect at its frame boundary; the shared word does once a link has
reached it. -/
def linkBoundary (s : State) (l : Nat) : State :=
  applyKeys s (fun q => keyAt q .linkFrame &&
    (q == rk2 0x40024 || decide (rk2 (0x41080 + 0x100 * l) ≤ q && q < rk2 (0x41094 + 0x100 * l))))

/-- BUFFERED_WRITE_APPLY (R133). -/
def execBufferedWriteApply (b : Boundary) (s : State) : Host.Outcome State Fault Refusal :=
  .next (if s.pwr.off then s else match b with
    | .task i => taskBoundary s i.val
    | .quoin =>
      if s.clk.aon % 25 = 0 then
        let s := applyKeys s (fun k => keyAt k .quoin)
        { s with cfg := { s.cfg with mgmtEff := s.cfg.mgmtCommitted } }
      else s
    | .epoch => if s.clk.aon % 4 = 0 then applyKeys s (fun k => keyAt k .epoch) else s
    | .linkFrame l => linkBoundary s l.val)

/-- RING_CONFIG_APPLY (R85): a committed change of a ring register, with STR_CTRL[0] reading 0 and no task in
flight, takes effect and sets the stream's indices to 0. -/
def execRingConfigApply (i : SId) (s : State) : Host.Outcome State Fault Refusal :=
  let x := stream s i.val
  .next (if s.pwr.off then s else match x.slot with
    | none => s
    | some (f, k) =>
      let mine (q : Nat) : Bool := keyAt q .ring && decide (slotKey f k 0 ≤ q && q < slotKey f (k + 1) 0)
      let differs := [0x10, 0x14, 0x18, 0x1C, 0x20].any (fun o =>
        committed s (slotKey f k o) != effective s (slotKey f k o))
      if differs && (staged s (slotKey f k 8)).toNat % 2 == 0 && x.task.isNone && x.fetched.isEmpty then
        let s := bringKeys s mine
        setStream s i.val { x with tail := 0, head := 0, cpl := 0, fetchAsked := none }
      else s)

/-! ### The commit (R152 to R154) -/

/-- The bits [1] IN and OUT chains of a STR_CHAIN value. -/
def chainsOf (v : Nat) : Option Nat × Option Nat :=
  (if bitOf v 8 then some (v % 256) else none, if bitOf v 24 then some (v / 65536 % 256) else none)

/-- The function that holds stream j div 4, to which chain j belongs (R295). -/
def chainFn (s : State) (j : Nat) : Option Nat := ((stream s (j / 4)).slot).map (·.1)

/-- The first failing field of a slot in an image, by its offset (Tables 3.8 and 10.4, R174, R295). -/
def slotFieldFail (s : State) (f : Nat) (val : Nat → Nat) (k : Nat) : Option Nat :=
  let r (o : Nat) : Nat := val (slotKey f k o)
  let (ic, oc) := chainsOf (r 0x38)
  let others := (List.range 64).filter (fun k' => k' ≠ k && (slotStream s f k').isSome)
  let bad : List (Nat × Bool) :=
    [(0x08, f == 0 && bitOf (r 8) 2),
     (0x14, bitOf (r 8) 2 && r 0x14 / 256 != 0),
     (0x18, r 0x18 < 4 || 16 < r 0x18),
     (0x30, r 0x30 % 1024 == 0 || 512 < r 0x30 % 1024),
     (0x34, r 0x34 % 8192 == 0 || 5333 < r 0x34 % 8192 || r 0x34 / 65536 < r 0x34 % 8192),
     (0x38, (match ic with | some j => chainFn s j != some f || oc == some j | none => false) ||
       (match oc with | some j => chainFn s j != some f | none => false) ||
       (ic.isSome && others.any (fun k' => (chainsOf (val (slotKey f k' 0x38))).1 == ic)) ||
       (oc.isSome && others.any (fun k' => (chainsOf (val (slotKey f k' 0x38))).2 == oc))),
     (0x3C, r 0x3C == 0)]
  (bad.find? (·.2)).map (·.1)

/-- The first failing field of a region's image: the slot and the offset. -/
def regionFieldFail (s : State) (r : Nat) (val : Nat → Nat) : Option (Nat × Nat) :=
  let f := fnOfRegion r
  (List.range 64).findSome? (fun k =>
    if (slotStream s f k).isSome then (slotFieldFail s f val k).map (fun o => (k, o)) else none)

/-- CFG_COMMIT_RESULT of a region. -/
def setResult (s : State) (r : Nat) (v : Nat) : State :=
  { s with cfg := { s.cfg with result := put s.cfg.result r (BitVec.ofNat 32 v) } }

/-- A write of CFG_COMMIT (R152, R153). -/
def commitWrite (s : State) (f : Nat) (v : W32) : State :=
  let r := regionOfFn f
  if v ≠ 1 then s
  else if has s.cfg.busy r then setResult s r ((lkD s.cfg.result r 0).toNat / 16 * 16 + 4)
  else
    let fr : Frozen := ⟨s.cfg.staged.filter (fun e => keyRegion e.1 == r), refStaged s r, s.clk.aon⟩
    { s with cfg := { s.cfg with busy := put s.cfg.busy r fr } }

/-- The outcome of the commit in progress: fields first, then the check value. -/
def commitOutcome (s : State) (f : Nat) : State :=
  let r := regionOfFn f
  match lk s.cfg.busy r with
  | none => s
  | some fr =>
    let s := { s with cfg := { s.cfg with busy := del s.cfg.busy r } }
    let val (k : Nat) : W32 := lkD fr.image k (keyReset k)
    match regionFieldFail s r (fun k => (val k).toNat) with
    | some (k, o) => setResult s r (3 + 256 * o + 65536 * k)
    | none =>
      if imageCheck val r ≠ fr.ref then setResult s r 2
      else
        let keep := s.cfg.committed.filter (fun e => keyRegion e.1 != r)
        let s := { s with cfg := { s.cfg with
          committed := fr.image.foldr (fun e t => put t e.1 e.2) keep
          commitAt := put s.cfg.commitAt r s.clk.aon
          seq := put s.cfg.seq r (lkD s.cfg.seq r 0 + 1) } }
        let s := setResult (setRefCommitted s r fr.ref) r 1
        applyKeys s (fun k => keyRegion k == r && keyAt k .immediate)

/-- CFG_COMMIT: the write, or the report of the outcome. -/
def execCfgCommit (f : Fn) (e : CommitEvent) (s : State) : Host.Outcome State Fault Refusal :=
  .next (if s.pwr.off then s else match e with
    | .write v => if barServed s f.val then commitWrite s f.val v else s
    | .outcome => commitOutcome s f.val)

/-! ### The checkers (R151, R155) -/

/-- Turn bits of a committed copy, word by word of its image. -/
def flipWords (s : State) (r : Nat) (flips : List (Nat × W32)) : State :=
  flips.foldl (fun s (i, x) =>
    if r = 0 then { s with cfg := { s.cfg with fwRam := updD s.cfg.fwRam (i % 65536) 0 (· ^^^ x) } }
    else if r = 2 then
      let v := (mgmtCommitted s (i % 22) ^^^ x.toNat) &&& mgmtMask (i % 22)
      { s with cfg := { s.cfg with mgmtCommitted := put s.cfg.mgmtCommitted (i % 22) v } }
    else
      match (regionKeys r)[i]? with
      | some k => setCommitted s k (committed s k ^^^ (x &&& keyMask k))
      | none => s) s

/-- The functions that a region's blocks serve (R30). -/
def regionFns (r : Nat) : List Nat := if r ≤ 1 then allFns else if r = 2 then [] else [r - 2]

/-- One record to the logs that R34 assigns for a region. -/
def postRegion (s : State) (r type sev p0 p1 : Nat) : State :=
  let s := if 3 ≤ r then postP s (r - 3) type sev p0 p1 0 0 else s
  postG s type sev p0 p1 0 0

/-- A complete pass of a checker: the mismatch begins or ends with it. -/
def checkerDone (s : State) (r : Nat) : State :=
  let live := committedCheck s r
  let s := setLive s r live
  let p1 := live.toNat + 2 ^ 32 * (refCommitted s r).toNat
  if live ≠ refCommitted s r && !mismatch s r then
    let s := postRegion (hold s (regionFns r)) r 0x0301 5 r p1
    let s := { s with cfg := { s.cfg with mismatch := put s.cfg.mismatch r true } }
    if r = 2 then (List.range 5).foldl (fun s n => crossOn s n 3) s else s
  else if live = refCommitted s r && mismatch s r then
    let s := postRegion (hold s (regionFns r)) r 0x0302 0 r p1
    let s := { s with cfg := { s.cfg with mismatch := del s.cfg.mismatch r } }
    if r = 2 then (List.range 5).foldl (fun s n => if (loop s n).crossed = 3 then crossOff s n else s) s else s
  else s

/-- CHECKER_PASS. The firmware region's checker runs while CORE does. -/
def execCheckerPass (r : Region) (flips : List (Nat × W32)) (s : State) : Host.Outcome State Fault Refusal :=
  .next (if s.pwr.off then s
    else
      let s := flipWords s r.val flips
      if r.val = 0 && dom s 0 ≠ 0 then s else checkerDone s r.val)

/-! ### Operational writes -/

/-- The ring size N of a stream in effect. -/
def ringN (s : State) (i : Nat) : Nat := 2 ^ (strEff s i 0x18)

/-- A write of STR_TAIL in slot k (R81). -/
def tailWrite (s : State) (f k : Nat) (v : W32) : State :=
  match slotStream s f k with
  | none => s
  | some i =>
    let x := stream s i
    if v = x.tail then s
    else if (v - x.cpl).toNat ≤ ringN s i then
      cntAdd (setStream s i { x with tail := v, tailInvalid := false }) (rk f 0x3000) 1
    else
      let p := partOfFn f
      let s := postOne s p { evRec 0x0102 2 p (k + 2 ^ 32 * v.toNat) x.cpl.toNat 0 0 with stream := i }
      setStream s i { x with tailInvalid := true }

/-- STR_TAIL_WRITE (R81). -/
def execStrTailWrite (f : Fn) (slot : Fin 64) (v : W32) (s : State) : Host.Outcome State Fault Refusal :=
  .next (if barServed s f.val && s.fw.haltCause == 0 then tailWrite s f.val slot.val v else s)

/-- A snapshot engine with no capture made. -/
def Snap.zero : Snap := ⟨none, 0, 0, 0, 0, []⟩
/-- The snapshot engine of a function. -/
def snapOf (s : State) (f : Nat) : Snap := lkD s.hif.snap f Snap.zero
def setSnap (s : State) (f : Nat) (x : Snap) : State := { s with hif := { s.hif with snap := put s.hif.snap f x } }

/-- A write of SNAP_CMD with bits [31:16] zero (R142, R145). -/
def snapCmd (s : State) (f : Nat) (v : W32) : State :=
  if v.toNat / 65536 = 0 then setSnap s f { snapOf s f with pending := some (BitVec.ofNat 16 v.toNat) } else s

/-- SNAP_CMD_WRITE. -/
def execSnapCmdWrite (f : Fn) (v : W32) (s : State) : Host.Outcome State Fault Refusal :=
  .next (if barServed s f.val && s.fw.haltCause == 0 then snapCmd s f.val v else s)

/-- Live counters of 64 bits at a window offset: the low word's offset (Tables 3.9, 9.7, 10.5, 11.7, 12.7, 16.7). -/
def ctr64 (o : Nat) : Bool :=
  decide (o < 0x3100) || (decide (0x3118 ≤ o) && decide (o < 0x3120)) || (decide (0x3200 ≤ o) && decide (o < 0x3800))

/-- The word of the live counter at a window offset; GAL_P_HELD is the galley's own account. -/
def liveWord (s : State) (f o : Nat) : W32 :=
  if o = 0x3100 then BitVec.ofNat 32 (lkD s.gal.held (partOfFn f) 0)
  else if ctr64 o then
    let v := cnt s (rk f (o / 8 * 8))
    BitVec.ofNat 32 (if o % 8 = 0 then v else v / 2 ^ 32)
  else BitVec.ofNat 32 (cnt s (rk f o))

/-- SNAPSHOT_CAPTURE: every live counter of the function at one edge (R142, R143). The window holds counters of CORE, MEMC
and TOKEN besides those of HOSTIF, which runs (5.10.2). -/
def snapCapture (s : State) (f : Nat) : State :=
  let x := snapOf s f
  match x.pending with
  | none => s
  | some tok =>
    if dom s 3 ≠ 0 then s
    else
      let h := ((List.range 1024).map (fun i => (4 * i, liveWord s f (0x3000 + 4 * i)))).filter (fun e => e.2 != 0)
      let d := ([0, 1, 4].map (fun d => if dom s d = 0 then 0 else 2 ^ d)).sum
      setSnap s f ⟨none, tok, x.count + 1, s.clk.aon, d, h⟩

def execSnapshotCapture (f : Fn) (s : State) : Host.Outcome State Fault Refusal := .next (if s.pwr.off then s else snapCapture s f.val)

/-! ### Refused accesses (R74, R136, R563) -/

/-- The function and offset fields of a BAR_ACCESS_ERROR record. -/
def barP0 (f : Nat) (bar2 write byAlias : Bool) (off : Nat) : W64 :=
  BitVec.ofNat 64 (f + 256 * b2n bar2 + 512 * b2n write + 1024 * b2n byAlias + 2 ^ 32 * off)

/-- A refused access: recorded at once, or counted within 1 s of the function's last record. -/
def barRefuse (s : State) (f : Nat) (p0 : W64) : State :=
  let b := lkD s.hif.barErr f ⟨none, 0, 0⟩
  let recent := match b.lastAt with | some a => decide (s.clk.aon < a + secT) | none => false
  if recent then { s with hif := { s.hif with barErr := put s.hif.barErr f { b with count := b.count + 1, p0 := p0 } } }
  else
    let s := postG s 0x0101 2 p0.toNat 1 0 0
    { s with hif := { s.hif with barErr := put s.hif.barErr f ⟨some s.clk.aon, 0, p0⟩ } }

/-- A word a read delivers. -/
def busValue (s : State) (f : Nat) (bar2 : Bool) (off : Nat) (v : W32) : State :=
  { s with hif := { s.hif with bus := s.hif.bus ++ [.value f bar2 off v] } }

/-- BAR_ACCESS_REFUSED: an access that is not an aligned word (R74). -/
def execBarAccessRefused (f : Fn) (bar2 write : Bool) (off : BitVec 24) (size : Nat) (s : State) :
    Host.Outcome State Fault Refusal :=
  .next (if !barServed s f.val || (size == 4 && off.toNat % 4 == 0) then s
    else
      let s := barRefuse s f.val (barP0 f.val bar2 write false off.toNat)
      if write then s else busValue s f.val bar2 off.toNat 0xFFFFFFFF#32)

/-- BAR_ACCESS_SUMMARY: 1 s after a record, the accesses counted since (R563). -/
def execBarAccessSummary (f : Fn) (s : State) : Host.Outcome State Fault Refusal :=
  let b := lkD s.hif.barErr f.val ⟨none, 0, 0⟩
  .next (if s.pwr.off then s else match b.lastAt with
    | none => s
    | some a =>
      if s.clk.aon < a + secT then s
      else if b.count = 0 then { s with hif := { s.hif with barErr := del s.hif.barErr f.val } }
      else
        let s := postG s 0x0101 2 b.p0.toNat b.count 0 0
        { s with hif := { s.hif with barErr := put s.hif.barErr f.val ⟨some s.clk.aon, 0, b.p0⟩ } })

/-! ### Configuration registers and aliases -/

/-- A write of a configuration register's staged copy (R132, R147). -/
def configWrite (s : State) (f : Nat) (bar2 : Bool) (off : Nat) (v : W32) : State :=
  match regInfo bar2 off with
  | none => s
  | some i =>
    if bar2 then (if f = 0 then setStaged s (rk2 off) (v &&& i.mask) else s)
    else if (slotStream s f ((off - 0x2000) / 0x40)).isSome then setStaged s (rk f off) (v &&& i.mask) else s

/-- A write of a bit word (R135, R136): only STR_CTRL has aliases that take writes. -/
def aliasWrite (s : State) (f off : Nat) (v : W32) : State :=
  let j := (off - 0x8000) / 0x80
  let b := off % 0x80 / 4
  if 64 ≤ j then s
  else if v.toNat / 2 ≠ 0 then barRefuse s f (barP0 f false true true off)
  else
    let k := slotKey f j 8
    let m := 1#32 <<< b
    configWrite s f false (0x2008 + 0x40 * j) (if v = 1 then staged s k ||| m else staged s k &&& ~~~m)

/-- ALIAS_WRITE. -/
def execAliasWrite (f : Fn) (off : BitVec 16) (v : W32) (s : State) : Host.Outcome State Fault Refusal :=
  .next (if barServed s f.val && s.fw.haltCause == 0 && off.toNat % 4 == 0 && decide (0x8000 ≤ off.toNat) &&
      decide (off.toNat < 0xC000) then aliasWrite s f.val off.toNat v else s)

/-! ### D-states, ATS and configuration space (R71, R72, R531) -/

/-- D3HOT_ENTRY and D0_RETURN (R72). -/
def execD3hotEntry (f : Fn) (s : State) : Host.Outcome State Fault Refusal :=
  .next (if s.pwr.off then s else hold { s with hif := { s.hif with d3 := put s.hif.d3 f.val true } } [f.val])
def execD0Return (f : Fn) (s : State) : Host.Outcome State Fault Refusal :=
  .next (if s.pwr.off then s else if lkD s.hif.d3 f.val false then hold { s with hif := { s.hif with d3 := del s.hif.d3 f.val } } [f.val] else s)

/-- ATS_INVALIDATE: the translation is dropped, and the request completes (R71). -/
def execAtsInvalidate (f : Fn) (page : BitVec 52) (s : State) : Host.Outcome State Fault Refusal :=
  .next (if s.pwr.off then s else { s with hif := { s.hif with
    ats := del s.hif.ats (atsKey f.val page.toNat), bus := s.hif.bus ++ [.invalidated f.val page.toNat] } })

/-- ATS_TRANSLATION_COMPLETION: the answer to a translation asked for (R71). -/
def execAtsTranslationCompletion (f : Fn) (page : BitVec 52) (granted : Bool) (s : State) :
    Host.Outcome State Fault Refusal :=
  let k := (f.val, page.toNat)
  .next (if s.pwr.off then s else if s.hif.atsAsked.contains k then
      { s with hif := { s.hif with
        atsAsked := s.hif.atsAsked.erase k, ats := put s.hif.ats (atsKey f.val page.toNat) granted } }
    else s)

/-- The ATS enable of a function (R71): without it the function holds no translation. -/
def setAts (s : State) (f : Nat) (on : Bool) : State :=
  { s with hif := { s.hif with
      atsEnable := put s.hif.atsEnable f on
      ats := if on then s.hif.ats else s.hif.ats.filter (fun (e : Nat × Bool) => e.1 / 2 ^ 52 != f) } }

/-- CONFIG_REQUEST: retry status until the functions are ready, success from then on; a VF exists while VF Enable is
set (R531, R532). -/
def execConfigRequest (f : Fn) (r : ConfigReq) (s : State) : Host.Outcome State Fault Refusal :=
  .next (if !fnExists s f.val || s.pwr.off || s.jtag.outOfService || s.jtag.perst then s
    else
      let s := { s with hif := { s.hif with bus := s.hif.bus ++ [.config f.val (!s.hif.pcieReady)] } }
      if !s.hif.pcieReady then s
      else match r with
      | .other _ => s
      | .atsEnable on => setAts s f.val on
      | .aspmL1 on => if f.val = 0 then { s with hif := { s.hif with aspmL1 := on } } else s)

/-- VF_ENABLE_SET. -/
def execVfEnableSet (numVfs : Fn) (s : State) : Host.Outcome State Fault Refusal :=
  .next (if s.hif.pcieReady && !s.pwr.off then
      { s with hif := { s.hif with vfEnable := true, numVfs := numVfs.val } }
    else s)

/-- PCIE_LINK_UP: the data link is active at a speed and width (Table 3.12). -/
def execPcieLinkUp (speed : BitVec 4) (width : BitVec 6) (reversed : Bool) (s : State) :
    Host.Outcome State Fault Refusal :=
  .next (if s.pwr.off || s.jtag.perst then s
    else { s with hif := { s.hif with
      dlActive := true, speed := speed.toNat, width := width.toNat, reversed := reversed
      recovery := s.hif.recovery + b2n s.hif.dlActive } })

end Sys2Proof.Machine
end

