-- ==== Sys2Proof/Machine/Locks.lean ====
section
/-! DEFINITION. Hardware locks, leases and lockups (chapter 14): the register path (R418), queues and grants at epochs
(R411 to R416), abandonment (R415, R422), remote locks under leases (R420, R421), and barriers (R423). -/

namespace Sys2Proof.Machine

/-! ### Locks -/

/-- A lock that is FREE and has no waiter. -/
def LockSt.free : LockSt := ⟨0, none, [], 0, 0⟩
/-- Lock j, and its replacement. -/
def lockOf (s : State) (j : Nat) : LockSt := lkD s.locks.locks j LockSt.free
def setLock (s : State) (j : Nat) (x : LockSt) : State :=
  { s with locks := { s.locks with locks := setD s.locks.locks j x LockSt.free } }

/-- Keys of the global lock registers (Table 14.8). -/
def lckKey (o : Nat) : Nat := rk2 (0x80000 + o)

/-- The partition number (32: the driver domain) of a holder. -/
def Holder.part (s : State) : Holder → Nat
  | .reg f => partOfFn f
  | .strm i => streamPart s i
  | .remote _ p _ _ => p

/-- Whether a lock ID lies in a partition number's ranges; PF0 may name every ID (R182). -/
def lockIn (s : State) (p j : Nat) : Bool :=
  p == 32 || (part s p).q.locks.any (fun r => decide (r.base ≤ j) && decide (j < r.base + r.count))

/-- Put a waiter at the tail of its level (R416). -/
def insertWaiter (w : Waiter) : List Waiter → List Waiter
  | [] => [w]
  | x :: t => if w.prio < x.prio then w :: x :: t else x :: insertWaiter w t

/-- A request joins a lock's queue. -/
def queueLock (s : State) (j : Nat) (who : Holder) (prio : Nat) : State :=
  let x := lockOf s j
  setLock s j { x with waiters := insertWaiter ⟨who, prio, prio, s.clk.aon, s.clk.timer⟩ x.waiters }

/-- A request leaves a lock's queue. -/
def unqueueLock (s : State) (j : Nat) (p : Holder → Bool) : State :=
  let x := lockOf s j
  setLock s j { x with waiters := x.waiters.filter (fun w => !p w.who) }

/-- A held lock enters ABANDONED (R415): counted, and recorded for the holder's partition. -/
def abandonLock (s : State) (j : Nat) : State :=
  let x := lockOf s j
  match x.holder with
  | none => s
  | some h =>
    let s := setLock s j { x with st := 2, holder := none, notBefore := 0 }
    postP (cntAdd s (lckKey 0x1004) 1) (h.part s) 0x0801 3 j 0 0 0

/-- A release leaves the lock FREE (R417). -/
def freeLock (s : State) (j : Nat) : State :=
  setLock s j { lockOf s j with st := 0, holder := none, notBefore := 0 }

/-- Every lock that is listed. -/
def lockIds (s : State) : List Nat := s.locks.locks.map (·.1)

/-- Holders that are reset or have faulted: their waiting requests go, and what they hold is abandoned (R415); how
many locks were. -/
def dropHolders (s : State) (p : Holder → Bool) : Nat × State :=
  (lockIds s).foldl (fun (n, s) j =>
    let s := unqueueLock s j p
    match (lockOf s j).holder with
    | some h => if p h then (n + 1, abandonLock s j) else (n, s)
    | none => (n, s)) (0, s)

/-! ### Leases -/

/-- Replace a lease by its request. -/
def onLease (s : State) (req : Nat) (f : Lease → Lease) : State :=
  { s with locks := { s.locks with leases := s.locks.leases.map (fun l => if l.req == req then f l else l) } }
def delLease (s : State) (req : Nat) : State :=
  { s with locks := { s.locks with leases := s.locks.leases.filter (fun l => l.req != req) } }
def leaseOf (s : State) (req : Nat) : Option Lease := s.locks.leases.find? (fun l => l.req == req)

/-- The lease of a stream on a lock of a device. -/
def leaseFor (s : State) (i dev j : Nat) : Option Lease :=
  s.locks.leases.find? (fun l => l.strm == i && l.dev == dev && l.lock == j)

/-- The leases of streams that are reset or have faulted: the owners are told (R422), waiting ones are withdrawn. -/
def dropLeases (s : State) (p : Nat → Bool) : State :=
  let l := s.locks.leases.filter (fun l => p l.strm)
  let s := l.foldl (fun s x =>
    if x.lost then s
    else sendMsg s x.dev (streamPart s x.strm)
      (if x.granted then .lkAbandon (BitVec.ofNat 32 x.req) else .lkWithdraw (BitVec.ofNat 32 x.req))) s
  { s with locks := { s.locks with leases := s.locks.leases.filter (fun l => !p l.strm) } }

/-- A stream faults: a task of it ended with a status from 0x12 to 0x17 (R415, R422). -/
def faultStream (s : State) (i : Nat) : State :=
  dropLeases (dropHolders s (fun h => h == .strm i)).2 (· == i)

/-! ### The register path (R418) -/

/-- LCK_REQ_RESULT after a write. -/
def lckResult (s : State) (f j r : Nat) : State :=
  { s with hif := { s.hif with lckResult := put s.hif.lckResult f (BitVec.ofNat 32 (r + 16 * j)) } }

/-- A write of LCK_REQ by a function. -/
def lckWrite (s : State) (f : Nat) (v : W32) : State :=
  let n := v.toNat
  let j := n % 1024
  let p := partOfFn f
  let me := Holder.reg f
  let x := lockOf s j
  let waits := x.waiters.any (fun w => w.who == me)
  let held := x.holder == some me
  if bits n 15 10 ≠ 0 || bits n 19 18 ≠ 0 || n / 2 ^ 23 ≠ 0 || !lockIn s p j then
    postP (lckResult s f j 2) p 0x0804 2 j 0 0 0
  else
    match bits n 17 16 with
    | 1 => if held || waits then lckResult s f j 3 else lckResult (queueLock s j me (bits n 22 20)) f j 1
    | 2 => if held then lckResult (freeLock s j) f j 1 else lckResult s f j 3
    | 3 => if waits then lckResult (unqueueLock s j (· == me)) f j 1 else lckResult s f j 3
    | _ => lckResult s f j 3

/-- A write of LCK_REQ: applied at once, it wakes CORE, the lock unit's domain (R57, Table 1.1). -/
def lckReq (s : State) (f : Nat) (v : W32) : State :=
  let s := lckWrite s f v
  if dpStop s then s else demandOn s 0

/-- A write of LCK_REQ whose OP is the row's. -/
def lckRow (op : Nat) (f : Fn) (v : W32) (s : State) : State :=
  if barServed s f.val && s.fw.haltCause == 0 && bits v.toNat 17 16 == op then lckReq s f.val v else s

/-- LCK_REQ_ACQUIRE, LCK_REQ_RELEASE, LCK_REQ_WITHDRAW. -/
def execLckReqAcquire (f : Fn) (v : W32) (s : State) : Host.Outcome State Fault Refusal := .next (lckRow 1 f v s)
def execLckReqRelease (f : Fn) (v : W32) (s : State) : Host.Outcome State Fault Refusal := .next (lckRow 2 f v s)
def execLckReqWithdraw (f : Fn) (v : W32) (s : State) : Host.Outcome State Fault Refusal := .next (lckRow 3 f v s)

/-! ### LOCKUP (R419, R423) -/

/-- Fields of a LOCKUP (Table 14.3). -/
def luOp (t : TaskRun) : Nat := t.u32 8 % 4
def luRemote (t : TaskRun) : Bool := bitOf (t.u32 8) 8
def luDev (t : TaskRun) : Nat := t.u32 8 / 65536 % 64
def luLock (t : TaskRun) : Nat := t.u32 0x0C % 1024

/-- A LOCKUP ends TS_OK with its RESULT (Table 14.4), or with a remote owner's silence or loss. -/
def luOk (s : State) (i : Nat) (t : TaskRun) (result : Nat) : State := endTask s i t (Rec.ok 1 result 0)
def luTimeout (s : State) (i : Nat) (t : TaskRun) (detail dev : Nat) : State :=
  endTask s i t (Rec.abort 0x16 detail 0 0 dev)

/-- The running LOCKUP of a stream with an OP. -/
def runningLockup (s : State) (i op : Nat) : Option TaskRun :=
  match runningTask s i 9 with
  | some t => if luOp t = op then some t else none
  | none => none

/-- A grant reaches a stream: its LOCKUP completes, and the function's counters rise (Table 14.7). -/
def grantStream (s : State) (i : Nat) (abandoned : Bool) : State :=
  let f := streamFn s i
  let s := cntAdd (cntAdd s (rk f 0x3340) 1) (rk f 0x3348) (b2n abandoned)
  match (stream s i).task with
  | some t => if t.done.isNone && t.waiting then luOk s i t (b2n abandoned) else s
  | none => s

/-- ACQUIRE of a local lock. -/
def acquireLocal (s : State) (i : Nat) (t : TaskRun) : State :=
  let j := luLock t
  if (lockOf s j).holder = some (.strm i) then luOk s i t 4
  else if t.waiting then s
  else queueLock (setTask s i { t with waiting := true }) j (.strm i) (strEff s i 0x0C)

/-- ACQUIRE of a lock of another member: a request is sent once, and its lease begins with it (R420, R421). -/
def acquireRemote (s : State) (i : Nat) (t : TaskRun) : State :=
  let d := luDev t
  let j := luLock t
  match leaseFor s i d j with
  | some l =>
    if l.granted && !l.lost then luOk s i t 4
    else
      (match lk t.ex 1 with
       | some e => if e.why = 1 ∨ e.why = 2 then luTimeout (delLease s l.req) i t e.why d
                   else if l.lost then luTimeout (delLease s l.req) i t 2 d else s
       | none => luTimeout (delLease s l.req) i t 2 d)
  | none =>
    if !mayOpen s d t.admitted then luTimeout s i t 2 d
    else if has t.ex 1 then s
    else
      let prio := strEff s i 0x0C % 8
      let (e, s) := openExch s d (streamPart s i)
        (.lkAcq 0 ⟨j % 1024, Nat.mod_lt _ (by decide)⟩ ⟨i % 64, Nat.mod_lt _ (by decide)⟩ ⟨prio % 8, Nat.mod_lt _ (by decide)⟩)
      let s := setTask s i { t with waiting := true, ex := put t.ex 1 e }
      { s with locks := { s.locks with
          leases := s.locks.leases ++ [⟨e.reqId, d, j, i, prio, false, false, s.clk.timer, []⟩] } }

/-- LOCKUP_ACQUIRE (R419). -/
def execLockupAcquire (i : SId) (s : State) : Host.Outcome State Fault Refusal :=
  .next (match runningLockup s i.val 1 with
    | none => s
    | some t => if luRemote t then acquireRemote s i.val t else acquireLocal s i.val t)

/-- RELEASE of a lock of another member: a dropped lease ends it with TS_LINK_TIMEOUT (R421). -/
def releaseRemote (s : State) (i : Nat) (t : TaskRun) : State :=
  let d := luDev t
  let j := luLock t
  match leaseFor s i d j with
  | none => luOk s i t 2
  | some l =>
    if l.lost then luTimeout (delLease s l.req) i t 2 d
    else
      match lk t.ex 1 with
      | none =>
        let (e, s) := openExch s d (streamPart s i) (.lkRel 0 ⟨j % 1024, Nat.mod_lt _ (by decide)⟩)
        setTask s i { t with waiting := true, ex := put t.ex 1 e }
      | some e => if e.why = 1 ∨ e.why = 2 then luTimeout (delLease s l.req) i t e.why d else s

/-- LOCKUP_RELEASE (R419). -/
def execLockupRelease (i : SId) (s : State) : Host.Outcome State Fault Refusal :=
  .next (match runningLockup s i.val 2 with
    | none => s
    | some t =>
      if luRemote t then releaseRemote s i.val t
      else if (lockOf s (luLock t)).holder = some (.strm i.val) then luOk (freeLock s (luLock t)) i.val t 0
      else luOk s i.val t 2)

/-- Every LOCKUP that has arrived completes with its arrival rank (R423). -/
def openBarrier (s : State) (b : Barrier) : State :=
  (b.arrived.zipIdx).foldl (fun s (i, r) =>
    match (stream s i).task with
    | some t => if t.done.isNone then luOk s i t (r % 256) else s
    | none => s) s

/-- LOCKUP_BARRIER (R423). -/
def execLockupBarrier (i : SId) (s : State) : Host.Outcome State Fault Refusal :=
  .next (match runningLockup s i.val 0 with
    | none => s
    | some t =>
      if t.waiting then s
      else
        let k := streamPart s i.val * 64 + t.u32 0x10 % 64
        let n := t.u32 0x10 / 256 % 128
        let b := (lk s.locks.barriers k).getD ⟨n, []⟩
        if b.count ≠ n then endTask s i.val t (Rec.abort 0x10 0x91 0 0 0)
        else
          let b := { b with arrived := b.arrived ++ [i.val] }
          let s := setTask s i.val { t with waiting := true }
          if n ≤ b.arrived.length then
            openBarrier { s with locks := { s.locks with barriers := del s.locks.barriers k } } b
          else { s with locks := { s.locks with barriers := put s.locks.barriers k b } })

/-! ### Epochs (R411 to R413, R416, R420) -/

/-- The priority a waiting request asks for now: a stream's STR_PRIO, else what it last asked for. -/
def wantPrio (s : State) (w : Waiter) : Nat :=
  match w.who with
  | .strm i => strEff s i 0x0C
  | _ => w.want

/-- Requests whose priority has changed move to the tail of their new level; the others keep their places. -/
def sampleLock (s : State) (j : Nat) : State :=
  let x := lockOf s j
  let moved := x.waiters.filter (fun w => wantPrio s w != w.prio)
  let kept := x.waiters.filter (fun w => wantPrio s w == w.prio)
  setLock s j { x with waiters := moved.foldl (fun l w =>
    insertWaiter { w with prio := wantPrio s w, want := wantPrio s w } l) kept }

/-- The holder of a grant is told. -/
def tellHolder (s : State) (h : Holder) (abandoned : Bool) : State :=
  match h with
  | .reg f => cntAdd (cntAdd s (rk f 0x3340) 1) (rk f 0x3348) (b2n abandoned)
  | .strm i => grantStream s i abandoned
  | .remote d p _ r => sendMsg s d p (.lkGrant (BitVec.ofNat 32 r) abandoned)

/-- A lock in FREE or ABANDONED is granted to the head of its queue (R416, R421). -/
def grantLock (s : State) (j : Nat) : State :=
  let x := lockOf s j
  match x.waiters with
  | [] => s
  | w :: t =>
    if (x.st = 0 || (x.st = 2 && decide (x.notBefore ≤ s.clk.timer))) then
      let ab := x.st == 2
      let s := setLock s j { x with
        st := if ab then 3 else 1, holder := some w.who, waiters := t, renewAt := w.renewAt, notBefore := 0 }
      let s := if ab then postP s (w.who.part s) 0x0802 3 j 0 0 0 else s
      tellHolder s w.who ab
    else s

/-- A change of STR_PRIO of a stream that waits for a remote lock is sent to the owner (R420). -/
def samplePrios (s : State) : State :=
  s.locks.leases.foldl (fun s l =>
    let p := strEff s l.strm 0x0C % 8
    if !l.granted && !l.lost && p ≠ l.prio then
      onLease (sendMsg s l.dev (streamPart s l.strm)
        (.lkPrio (BitVec.ofNat 32 l.req) ⟨p % 8, Nat.mod_lt _ (by decide)⟩)) l.req (fun x => { x with prio := p })
    else s) s

/-- Waiting galley cell requests are sampled (R257, R412). -/
def sampleCells (s : State) : State :=
  { s with gal := { s.gal with waiting := s.gal.waiting.map (fun r =>
      match gq s r.q with
      | some x => if reqPrio s r.q x ≠ r.prio then { r with prio := reqPrio s r.q x, at_ := s.clk.aon } else r
      | none => r) } }

/-- Messages that wait for a link are sampled (R375, R412). -/
def sampleLinks (s : State) : State :=
  { s with pod := { s.pod with links := s.pod.links.map (fun e => (e.1, { e.2 with queue := e.2.queue.map (fun m =>
      if m.transit || m.sent ≠ 0 || !(m.vc == 0 || m.vc == 2) then m
      else
        let p := msgPrio s (leAt m.bytes 16 4) m.part
        if p ≠ m.prio then { m with prio := p, at_ := s.clk.timer } else m) })) } }

/-- Text tasks that wait for a unit are sampled (R438, R412). -/
def sampleUnits (s : State) : State :=
  let moved := s.unitWait.filter (fun e => e.2 != strEff s e.1 0x0C)
  let kept := s.unitWait.filter (fun e => e.2 == strEff s e.1 0x0C)
  { s with unitWait := kept ++ moved.map (fun e => (e.1, strEff s e.1 0x0C)) }

/-- ARBITRATION_EPOCH: due at every fourth AON edge. -/
def execArbitrationEpoch (s : State) : Host.Outcome State Fault Refusal :=
  .next (if !isDue s .epoch || s.pwr.off then s
    else
      let s := setDue s .epoch 4
      let s := sampleUnits (sampleLinks (sampleCells (samplePrios s)))
      if dpStop s then s
      else (lockIds s).foldl (fun s j => grantLock (sampleLock s j) j) s)

/-! ### Lock messages (R420 to R422) -/

/-- The partition number of a message header. -/
def hdrPart (h : MsgHdr) : Nat := h.part.val

/-- LK_ACQ: queued, or denied outside the partition number's ranges here. -/
def execLkAcq (h : MsgHdr) (reqId : W32) (lock : Fin 1024) (st : SId) (prio : Fin 8) (s : State) :
    Host.Outcome State Fault Refusal :=
  .next (onMsg s h (.lkAcq reqId lock st prio) (fun s =>
    if lockIn s (hdrPart h) lock.val then
      replyMsg (queueLock s lock.val (.remote h.src.val (hdrPart h) st.val reqId.toNat) prio.val) h (.lkWait reqId)
    else replyMsg s h (.lkDenied reqId)))

/-- The task that waits for a request, with its stream. -/
def taskOfReq (s : State) (req : Nat) : Option (Nat × TaskRun) :=
  s.streams.findSome? (fun e => match e.2.task with
    | some t => if t.done.isNone && t.ex.any (fun x => x.2.reqId == req) then some (e.1, t) else none
    | none => none)

/-- LK_GRANT: the stream holds the lock under its lease. -/
def execLkGrant (h : MsgHdr) (reqId : W32) (abandoned : Bool) (s : State) : Host.Outcome State Fault Refusal :=
  .next (onMsg s h (.lkGrant reqId abandoned) (fun s =>
    match leaseOf s reqId.toNat with
    | none => s
    | some l =>
      if l.dev ≠ h.src.val || l.lost || l.granted then s
      else grantStream (onExch (onLease s l.req (fun x => { x with granted := true })) l.req
        (fun e => { e with why := 3 })) l.strm abandoned))

/-- LK_WAIT: the exchange is owed nothing more (R420). -/
def execLkWait (h : MsgHdr) (reqId : W32) (s : State) : Host.Outcome State Fault Refusal :=
  .next (onMsg s h (.lkWait reqId) (fun s => onExch s reqId.toNat (fun e =>
    if e.dst == h.src.val && e.why == 0 then { e with why := 3, last := s.clk.timer } else e)))

/-- LK_REL: the lock that the member's partition number holds becomes FREE. -/
def execLkRel (h : MsgHdr) (reqId : W32) (lock : Fin 1024) (s : State) : Host.Outcome State Fault Refusal :=
  .next (onMsg s h (.lkRel reqId lock) (fun s =>
    match (lockOf s lock.val).holder with
    | some (.remote d p _ _) =>
      if d = h.src.val && p = hdrPart h then replyMsg (freeLock s lock.val) h (.lkRelack reqId false)
      else replyMsg s h (.lkRelack reqId true)
    | _ => replyMsg s h (.lkRelack reqId true)))

/-- LK_RELACK: the remote RELEASE completes, and the lease is over. -/
def execLkRelack (h : MsgHdr) (reqId : W32) (notHeld : Bool) (s : State) : Host.Outcome State Fault Refusal :=
  .next (onMsg s h (.lkRelack reqId notHeld) (fun s =>
    match taskOfReq s reqId.toNat with
    | none => s
    | some (i, t) =>
      if t.type ≠ 9 || luDev t ≠ h.src.val then s
      else
        let s := match leaseFor s i (luDev t) (luLock t) with | some l => delLease s l.req | none => s
        luOk s i t (2 * b2n notHeld)))

/-- The requests of a device that this device leases locks or places in queues to. -/
def ownerHas (s : State) (d r : Nat) : Bool :=
  s.locks.locks.any (fun e =>
    let is (h : Holder) : Bool := match h with | .remote d' _ _ r' => d' == d && r' == r | _ => false
    (match e.2.holder with | some h => is h | none => false) || e.2.waiters.any (fun w => is w.who))

/-- LK_RENEW: each lease named runs anew, and those that do are echoed. -/
def execLkRenew (h : MsgHdr) (reqIds : List W32) (s : State) : Host.Outcome State Fault Refusal :=
  .next (onMsg s h (.lkRenew reqIds) (fun s =>
    let is (x : Holder) : Bool := match x with
      | .remote d _ _ r => d == h.src.val && reqIds.any (fun q => q.toNat == r) | _ => false
    let now := s.clk.timer
    let ids := reqIds.filter (fun q => ownerHas s h.src.val q.toNat)
    let s := { s with locks := { s.locks with locks := s.locks.locks.map (fun e => (e.1, { e.2 with
      renewAt := (match e.2.holder with | some x => if is x then now else e.2.renewAt | none => e.2.renewAt)
      waiters := e.2.waiters.map (fun w => if is w.who then { w with renewAt := now } else w) })) } }
    replyMsg s h (.lkRenewed ids)))

/-- LK_RENEWED: the leases named count from the send of the renewal answered. -/
def execLkRenewed (h : MsgHdr) (reqIds : List W32) (s : State) : Host.Outcome State Fault Refusal :=
  .next (onMsg s h (.lkRenewed reqIds) (fun s => reqIds.foldl (fun s q => onLease s q.toNat (fun l =>
    if l.dev == h.src.val && !l.lost then { l with answered := l.sents.headD l.answered, sents := l.sents.drop 1 } else l)) s))

/-- The lock that a device's request holds here. -/
def lockOfReq (s : State) (d r : Nat) : Option Nat :=
  (s.locks.locks.find? (fun e => match e.2.holder with
    | some (.remote d' _ _ r') => d' == d && r' == r | _ => false)).map (·.1)

/-- LK_ABANDON (R422): the lock enters ABANDONED, and may be granted at the next epoch. -/
def execLkAbandon (h : MsgHdr) (reqId : W32) (s : State) : Host.Outcome State Fault Refusal :=
  .next (onMsg s h (.lkAbandon reqId) (fun s =>
    match lockOfReq s h.src.val reqId.toNat with
    | some j => abandonLock s j
    | none => s))

/-- LK_WITHDRAW: the waiting remote request leaves its queue. -/
def execLkWithdraw (h : MsgHdr) (reqId : W32) (s : State) : Host.Outcome State Fault Refusal :=
  .next (onMsg s h (.lkWithdraw reqId) (fun s => (lockIds s).foldl (fun s j => unqueueLock s j (fun w =>
    match w with | .remote d _ _ r => d == h.src.val && r == reqId.toNat | _ => false)) s))

/-- LK_DENIED: the LOCKUP completes with TS_DENIED. -/
def execLkDenied (h : MsgHdr) (reqId : W32) (s : State) : Host.Outcome State Fault Refusal :=
  .next (onMsg s h (.lkDenied reqId) (fun s =>
    match leaseOf s reqId.toNat, taskOfReq s reqId.toNat with
    | some l, some (i, t) =>
      if l.dev ≠ h.src.val then s else endTask (delLease s l.req) i t (Rec.abort 0x11 1 0 0 0)
    | _, _ => s))

/-- LK_PRIO: the new priority is applied at the owner's next epoch (R412, R420). -/
def execLkPrio (h : MsgHdr) (reqId : W32) (prio : Fin 8) (s : State) : Host.Outcome State Fault Refusal :=
  .next (onMsg s h (.lkPrio reqId prio) (fun s =>
    { s with locks := { s.locks with locks := s.locks.locks.map (fun e => (e.1, { e.2 with
        waiters := e.2.waiters.map (fun w => match w.who with
          | .remote d _ _ r => if d == h.src.val && r == reqId.toNat then { w with want := prio.val } else w
          | _ => w) })) } }))

/-! ### Leases in time (R421) -/

/-- LEASE_RENEW_SEND: every 2.5 ms, one LK_RENEW to each owner for up to 64 leases. -/
def execLeaseRenewSend (s : State) : Host.Outcome State Fault Refusal :=
  .next (if !isDue s .renew || dpStop s then s
    else
      let s := setDueIn s .renew 62500
      let live := s.locks.leases.filter (fun l => !l.lost)
      let devs := (live.map (·.dev)).eraseDups
      let s := devs.foldl (fun s d =>
        (chunks 64 (live.filter (fun l => l.dev == d))).foldl (fun s g =>
          sendMsg s d 32 (.lkRenew (g.map (fun l => BitVec.ofNat 32 l.req)))) s) s
      { s with locks := { s.locks with leases := s.locks.leases.map (fun l =>
          if l.lost then l else { l with sents := l.sents ++ [s.clk.timer] }) } })

/-- A remote lease the owner has not seen renewed for 10 ms. -/
def leaseOver (s : State) (renewAt : Nat) : Bool := decide (renewAt + 10 * msT ≤ s.clk.timer)

/-- LEASE_END_OWNER: waiting requests whose lease has ended leave the queue; a held lock is abandoned, and not
granted until LNK_CREDIT_TO has passed. -/
def leaseEndRun (s : State) (j : Nat) : State :=
  let x := lockOf s j
  let isRemote (h : Holder) : Bool := match h with | .remote .. => true | _ => false
  let late (w : Waiter) : Bool := isRemote w.who && leaseOver s w.renewAt
  let s := cntAdd (setLock s j { x with waiters := x.waiters.filter (fun w => !late w) }) (lckKey 0x100C)
    (x.waiters.filter late).length
  match x.holder with
  | some h =>
    if isRemote h && leaseOver s x.renewAt then
      let s := cntAdd (abandonLock s j) (lckKey 0x100C) 1
      setLock s j { lockOf s j with notBefore := s.clk.timer + creditTo s }
    else s
  | none => s

def execLeaseEndOwner (lock : Fin 1024) (s : State) : Host.Outcome State Fault Refusal :=
  .next (if s.pwr.off then s else leaseEndRun s lock.val)

/-- LEASE_END_HOLDER: 9.9 ms after the last answered renewal the lease is dropped and recorded. -/
def dropLease (s : State) (l : Lease) : State :=
  let s := onLease s l.req (fun x => { x with lost := true })
  let p := streamPart s l.strm
  let s := cntAdd s (rk (fnOfPart p) 0x3350) 1
  let s := postP s p 0x0803 3 (l.lock + 65536 * l.dev) 0 0 0
  if l.granted then s
  else match (stream s l.strm).task with
    | some t => if t.done.isNone && t.waiting && t.type == 9 then luTimeout (delLease s l.req) l.strm t 2 l.dev else s
    | none => s

def execLeaseEndHolder (reqId : W32) (s : State) : Host.Outcome State Fault Refusal :=
  .next (if s.pwr.off then s else match leaseOf s reqId.toNat with
    | none => s
    | some l => if !l.lost && decide (l.answered + 247500 ≤ s.clk.timer) then dropLease s l else s)

/-- ABANDONED_GRANT_HOLD_END: the abandoned lock is eligible again. -/
def execAbandonedGrantHoldEnd (lock : Fin 1024) (s : State) : Host.Outcome State Fault Refusal :=
  let x := lockOf s lock.val
  .next (if s.pwr.off then s else if x.st = 2 && decide (x.notBefore ≤ s.clk.timer) then setLock s lock.val { x with notBefore := 0 } else s)

end Sys2Proof.Machine
end

