-- ==== Sys2Proof/Machine/Validate.lean ====
section
/-! DEFINITION. Validation of descriptors (R88, R560): unknown TYPE or FMT, reserved content, ranges, capabilities, in
that order, naming the first failing field. -/

namespace Sys2Proof.Machine

/-- The maximal runs of bits of a word that a layout leaves undefined, by low bit, from bit i up (R560). -/
def runsFrom (word mask : Nat) : Nat → Nat → Option Nat → List Nat
  | 0, _, cur => (match cur with | some lo => [lo] | none => []).filter (fun _ => false)
  | n + 1, i, cur =>
    if bitOf mask i then runsFrom word mask n (i + 1) none
    else
      let lo := cur.getD i
      if bitOf word i then lo :: runsFrom word mask n (i + 1) (some lo)
      else runsFrom word mask n (i + 1) (some lo)

/-- The byte offset of the first reserved run that is nonzero, over words with the masks of their defined bits. -/
def reservedFail (b : List Byte) (base : Nat) : List Nat → Option Nat
  | [] => none
  | m :: t =>
    match runsFrom (leAt b base 4) m 32 0 none with
    | lo :: _ => some (base + lo / 8)
    | [] => reservedFail b (base + 4) t

/-- All bits of a word. -/
def M32 : Nat := 0xFFFFFFFF

/-- The lowest offset among the fields that fail. -/
def firstFail (l : List (Nat × Bool)) : Option Nat := minOf ((l.filter (·.2)).map (·.1))

/-- Defined bits of a descriptor of each type, one mask a word (Tables 3.2, 10.2, 10.3, 11.1, 12.1, 12.2, 14.5, 16.4,
17.3, 17.4). -/
def descMasks (type : Nat) : List Nat :=
  [0x7FFFF, M32] ++
  match type with
  | 1 => [M32, 0xFFFF001F, 0x1FFFFF, 0x1FFFF, M32, M32, M32, M32, M32, M32, M32, M32, M32, M32]
  | 2 => [M32, 0xFFFF0000, 0x1FFFFF, 0x1FFFF, M32, M32, M32, M32, 0, 0, M32, M32, M32, M32]
  | 3 => [M32, 0xFFFF000F, 0x1FFFFF, 0xFFC1FFFF, M32, M32, M32, M32, M32, M32, M32, M32, 0, 0]
  | 4 => [M32, 0x7, M32, M32, M32, M32, M32, M32, 0, 0, 0, 0, 0, 0]
  | 5 => [0x33F0F, 0x1FFFFFF, M32, M32, M32, M32, 0x1FFFFFF, 0, 0, 0, 0, 0, 0, 0]
  | 6 => [0x7000F, 0x1FFFFFF, M32, M32, M32, M32, 0x1FFFFFF, 0, M32, M32, M32, M32, 0, 0]
  | 7 => [0xF1F, 0x1FFFF, M32, M32, M32, M32, 0x1FFFFFF, 0, M32, M32, M32, M32, 0, 0]
  | 8 => [0x7FF007F, M32, M32, M32, M32, M32, M32, M32, M32, M32, M32, 0x1FFF1FFF, 0x1FFF1FFF, 0x1FFF]
  | 9 => [0x3F0103, 0x3FF, 0x7F3F, 0, 0, 0, 0, 0, 0, 0, 0, 0, 0, 0]
  | 10 => [0x7FF0073, 0xFFFF, M32, M32, 0, 0, M32, M32, M32, M32, M32, 0x1FFF1FFF, 0x1FFF1FFF, 0x1FFF]
  | _ => []

/-- Whether a 64-bit address of a descriptor breaks R174 or its alignment. -/
def badAddr (a align : Nat) : Bool := a % align != 0 || (isWindow a && a / 2 ^ 40 % 2 ^ 23 != 0)

/-- Whether capability n is enabled in a function (R117); BASE is. -/
def capOn (s : State) (f n : Nat) : Bool :=
  n == 0 || (match lk s.mbx f with | some m => m.enabled.getLsbD n | none => false)

/-- The segment limit of a stream (R290). -/
def segLimit (s : State) (i : Nat) : Nat := if bitOf (strEff s i 0x30) 12 then 524288 else 262144

/-- How many of 32 bits are set. -/
def popCount (n : Nat) : Nat := ((List.range 32).filter (fun i => bitOf n i)).length

/-- The adapter bound to a table for a partition number (R328). -/
def boundAdapter (s : State) (p h : Nat) : Option Adapter :=
  match lk s.bindings (p * 2 ^ 32 + h) with
  | some a => lk s.adapters (p * 256 + a)
  | none => none

/-- The gather checks of R309. -/
def gatherRange (s : State) (i : Nat) (d : List Byte) : List (Nat × Bool) :=
  let g := gBody d
  let p := streamPart s i
  let tb := tableFor s p g.handle
  let ad := boundAdapter s p g.handle
  let slice_ := match ad with
    | some a => cdiv a.dout (max (popCount (strEff s i 0x3C)) 1) * (alignUp (2 * a.din) 64 + 2)
    | none => 0
  [(0x0C, !g.raw && g.fmt == 3),
   (0x0C, g.adapt && !g.raw && (ad.isNone || segLimit s i < slice_)),
   (0x0E, match tb with | some t => g.stride4 != 0 && g.stride4 < gVecBytes t g ad / 4 | none => false),
   (0x10, g.nbags == 0 || 1048576 < g.nbags),
   (0x10, g.len == 0 && 2 ^ 32 - 1 < g.nbags * g.baglen),
   (0x14, 65536 < g.baglen || (g.baglen != 0 && g.len != 0)),
   (0x18, badAddr g.idx 8), (0x20, badAddr g.len 4),
   (0x28, badAddr g.wgt 2 || (!g.raw && (g.mode == 2) == (g.wgt == 0))),
   (0x30, badAddr g.out 4), (0x38, badAddr g.bstat 8 || g.bstat == 0)]

/-- Whether a handle is of a shared table that the partition number maps (R178). -/
def isShared (s : State) (p h : Nat) : Bool :=
  match lk s.tables h with
  | some t => p < 32 && t.owner == 32 && t.mapped.contains p
  | none => false

/-- A stream pattern (R281). -/
structure Pattern where
  base : Nat
  ndim : Nat
  elem : Nat
  strides : List Int
  counts : List Nat
deriving DecidableEq, Repr

/-- The pattern of a COPY source or a PREFETCH_HINT (Tables 10.2, 10.3). -/
def patternOf (d : List Byte) : Pattern :=
  let w := leAt d 8 4
  { base := leAt d 0x10 8, ndim := w / 16 % 8, elem := 4 * (w / 65536 % 2048)
    strides := (List.range 5).map (fun n => sext 32 (leAt d (0x20 + 4 * n) 4))
    counts := (List.range 5).map (fun n => leAt d (0x34 + 2 * n) 2) }

/-- COUNT and STRIDE of dimension n; those at or above NDIM act as 1 and 0 (R281). -/
def Pattern.cnt (p : Pattern) (n : Nat) : Nat := if n < p.ndim then p.counts.getD n 0 else 1
def Pattern.str (p : Pattern) (n : Nat) : Int := if n < p.ndim then p.strides.getD n 0 else 0

/-- Elements of the walk. -/
def Pattern.size (p : Pattern) : Nat := p.cnt 0 * p.cnt 1 * p.cnt 2 * p.cnt 3 * p.cnt 4

/-- The five indices of element e, innermost first (R281, R283). -/
def Pattern.idx (p : Pattern) (e : Nat) : List Nat :=
  let a0 := max (p.cnt 0) 1; let a1 := max (p.cnt 1) 1; let a2 := max (p.cnt 2) 1; let a3 := max (p.cnt 3) 1
  [e % a0, e / a0 % a1, e / a0 / a1 % a2, e / a0 / a1 / a2 % a3, e / a0 / a1 / a2 / a3]

/-- The byte offset of element e from BASE. -/
def Pattern.off (p : Pattern) (e : Nat) : Int :=
  ((p.idx e).zipIdx.map (fun (i, n) => (i : Int) * p.str n)).sum

/-- COORD of element e of a walk (R283). -/
def Pattern.coord (p : Pattern) (walk e : Nat) : Nat :=
  walk * 2 ^ 60 + ((p.idx e).zipIdx.map (fun (i, n) => i % 4096 * 2 ^ (12 * n))).sum

/-- Whether a walk from address `a` in a space of `lim` bytes lies within it (R282). -/
def Pattern.fits (p : Pattern) (a lim : Nat) : Bool :=
  let ext (f : Int → Bool) : Int :=
    ((List.range 5).map (fun n => if f (p.str n) then (p.cnt n - 1 : Int) * p.str n else 0)).sum
  decide (0 ≤ (a : Int) + ext (fun x => x < 0)) && decide ((a : Int) + ext (fun x => 0 < x) + p.elem - 1 < lim)

/-- The space limit of an address in COPY space sp (R282). -/
def spaceLim (sp a : Nat) : Nat :=
  match sp with
  | 0 => if isWindow a then 2 ^ 40 else 2 ^ 64
  | 1 => 2 ^ 39
  | _ => 2 ^ 40
def spaceAddr (sp a : Nat) : Nat := if (sp = 0 && isWindow a) || sp = 2 then windowVa a else a

/-- Checks that COPY and PREFETCH_HINT share (R281, R282): NDIM, ELEM4, strides, counts, the product, the range. -/
def patternRange (p : Pattern) (sp : Nat) : List (Nat × Bool) :=
  [(0x08, p.ndim == 0 || 5 < p.ndim), (0x0A, p.elem == 0 || 4096 < p.elem)] ++
  (List.range 5).map (fun n => (0x20 + 4 * n,
    (p.strides.getD n 0) % 4 != 0 || (decide (p.ndim ≤ n) && (p.strides.getD n 0) != 0))) ++
  (List.range 5).map (fun n => (0x34 + 2 * n,
    if n < p.ndim then (p.counts.getD n 0 == 0 || decide (4096 < p.counts.getD n 0)) else p.counts.getD n 0 != 0)) ++
  [(0x34, decide (2 ^ 32 - 1 < p.size)),
   (0x10, sp != 3 && !p.fits (spaceAddr sp p.base) (spaceLim sp p.base)),
   (0x10, (sp == 0 && isWindow p.base && p.base / 2 ^ 40 % 2 ^ 23 != 0) ||
     (sp == 2 && (!isWindow p.base || p.base / 2 ^ 40 % 2 ^ 23 != 0)) || (sp == 3 && p.base != 0))]

/-- STR_CHAIN in effect: IN and OUT chains where valid, and task discipline (R295). -/
def chainIn (s : State) (i : Nat) : Option Nat :=
  let v := strEff s i 0x38
  if bitOf v 8 then some (v % 256) else none
def chainOut (s : State) (i : Nat) : Option Nat :=
  let v := strEff s i 0x38
  if bitOf v 24 then some (v / 65536 % 256) else none
def chainTask (s : State) (i : Nat) : Bool := bitOf (strEff s i 0x38) 9

/-- The COPY checks of R298 and R282. -/
def copyRange (s : State) (i : Nat) (d : List Byte) : List (Nat × Bool) :=
  let w := leAt d 8 4
  let src := w % 4
  let dst := w / 4 % 4
  let peer := leAt d 0x0C 4
  let da := leAt d 0x18 8
  let p := patternOf d
  let both := (src == 1 || src == 2) && (dst == 1 || dst == 2)
  patternRange p src ++
  [(0x08, both || (src == 3 && (chainIn s i).isNone) || (dst == 3 && (chainOut s i).isNone)),
   (0x0C, ((src == 2 || dst == 2) && (peer == me s || 64 ≤ peer)) ||
     (src != 1 && dst != 1 && src != 2 && dst != 2 && peer != 0)),
   (0x18, (dst == 0 && isWindow da && da / 2 ^ 40 % 2 ^ 23 != 0) ||
     (dst == 2 && (!isWindow da || da / 2 ^ 40 % 2 ^ 23 != 0)) || (dst == 3 && da != 0) ||
     (dst != 3 && !decide (spaceAddr dst da + p.size * p.elem - 1 < spaceLim dst da)))] ++
  (if src = 3 then (List.range 5).map (fun n => (0x20 + 4 * n, p.strides.getD n 0 != 0)) else [])

/-- The PREFETCH_HINT checks (R300). -/
def prefetchRange (d : List Byte) : List (Nat × Bool) :=
  (0x08, leAt d 8 4 % 4 != 0) :: patternRange (patternOf d) 0

/-- Capability and shared-table checks of a gather (R309, R178). -/
def gatherCaps (s : State) (i : Nat) (d : List Byte) : List (Nat × Bool) :=
  let g := gBody d
  let f := streamFn s i
  [(0x08, isShared s (streamPart s i) g.handle && !capOn s f 5), (0x0C, !g.raw && g.adapt && !capOn s f 3)]

/-- DETAIL of TS_BAD_DESCRIPTOR: the offset of the first failing field and the kind of the check (Table 3.5). -/
def badDetail (kind off : Nat) : Nat := kind * 64 + off % 64

end Sys2Proof.Machine
end

