-- ==== Sys2Proof/Machine/Mailbox.lean ====
section
/-! DEFINITION. The mailboxes and Onaman (chapter 4): accepting a request (R102, R103), the order of checks (R107 to
R109), answers (R104, Table 4.3), operations and their records (R110 to R113), commands that meet (R114), and the
layouts of every command (Tables 4.4 and 4.10 and the tables of the home chapters). -/

namespace Sys2Proof.Machine

/-! ### The mailbox registers (Table 4.1) -/

/-- A mailbox after reset of its function: BASE alone in both sets (R117). -/
def Mbx.fresh : Mbx := ⟨0, 0, none, none, 0, [], [], 1, 1, []⟩
/-- The mailbox of a function, and its replacement. -/
def mbxOf (s : State) (f : Nat) : Mbx := lkD s.mbx f Mbx.fresh
def setMbx (s : State) (f : Nat) (m : Mbx) : State := { s with mbx := put s.mbx f m }

/-- MBX_STATE[1:0]: 0 IDLE, 1 BUSY, 2 CP_DOWN, 3 ORPHAN. -/
def mbxState (s : State) (f : Nat) : Nat :=
  let m := mbxOf s f
  if s.fw.cpDown then 2 else if m.latched.isSome then 1 else if m.orphan.isSome then 3 else 0

/-- Records a function holds (R110); the records of an earlier life of the function have no ID (R113). -/
def opsHeld (s : State) (f : Nat) : Nat := (s.ops.filter (fun o => o.fn == f && o.id != 0)).length

/-- MBX_STATE. -/
def mbxStateWord (s : State) (f : Nat) : Nat :=
  let m := mbxOf s f
  mbxState s f + 16 * b2n m.latched.isSome + 32 * b2n (dom s 5 != 0 && (m.latched.isSome || m.orphan.isSome)) +
  256 * m.discard + 65536 * opsHeld s f

/-- MBX_REQ_SEQ_WRITE (R102, R103). The response area's content is undefined from the acceptance until the next
response: an unlisted byte of it has no value. -/
def mbxSeqWrite (s : State) (f : Nat) (v : W32) : State :=
  let m := mbxOf s f
  let st := mbxState s f
  let reason := if st = 2 then 3 else if st ≠ 0 then 1 else if v = m.rspSeq + 1 then 0 else 2
  if reason = 0 then
    let m := { m with
      reqSeq := v, discard := 0, rspArea := []
      latched := some ⟨(List.range 2048).map (fun i => lkD m.reqArea i 0), v, s.clk.aon⟩ }
    demandOn (setMbx s f m) 5
  else
    let s := setMbx s f { m with discard := reason }
    let p0 := reason + 2 ^ 32 * v.toNat
    if f = 0 then postG s 0x0201 2 p0 0 0 0 else postP s (partOfFn f) 0x0201 2 p0 0 0 0

def execMbxReqSeqWrite (f : Fn) (v : W32) (s : State) : Host.Outcome State Fault Refusal :=
  .next (if barServed s f.val then mbxSeqWrite s f.val v else s)

/-! ### Layouts (Tables 4.4, 4.10) -/

/-- A command: whether only PF0 issues it, whether it is long, whether it is a query, the length of its layout for the
bytes of a request, and the defined bits of the words of its parameters from byte 0x08 on. -/
structure Cmd where
  pf0 : Bool
  long : Bool
  query : Bool
  len : List Byte → Nat
  masks : List Byte → List Nat

/-- A layout of fixed words. -/
def fixedLen (l : List Nat) : List Byte → Nat := fun _ => 8 + 4 * l.length
def cmdAny (l : List Nat) : Cmd := ⟨false, false, false, fixedLen l, fun _ => l⟩
def cmdPf0 (l : List Nat) : Cmd := ⟨true, false, false, fixedLen l, fun _ => l⟩
def cmdLong (pf0 : Bool) (l : List Nat) : Cmd := ⟨pf0, true, false, fixedLen l, fun _ => l⟩
def cmdQuery (pf0 : Bool) (l : List Nat) : Cmd := ⟨pf0, false, true, fixedLen l, fun _ => l⟩

/-- The quota block's words (Table 6.3). -/
def quotaMasks : List Nat := [0xFF, M32, M32, 0x1FFFF, 0x1FFFF, 0x1FFF, 0xFFFF1FFF, 0x1FF] ++ List.replicate 4 0x07FF03FF

/-- NSHARD, NTAB, NCOLD and NSTOP as a request names them. -/
def reqNshard (b : List Byte) : Nat := leAt b 0x0E 1 % 128
def placeNtab (b : List Byte) : Nat := leAt b 0x0A 1
def placeNcold (b : List Byte) : Nat := leAt b 0x0B 1 % 64
def reqNstop (b : List Byte) : Nat := leAt b 0x09 1 % 32

/-- Words of TABLE_CREATE (Tables 8.1 and 8.2). -/
def createMasks (b : List Byte) : List Nat :=
  [M32, 0x007F1FFF, M32, 0xFF1F1FFF, M32, 0] ++ (List.range (reqNshard b)).flatMap (fun _ => [M32, 0x1FFFFF])

/-- Words of PLACE_PLAN and PLACE_COMMIT (Table 8.5). -/
def placeMasks (commit : Bool) (b : List Byte) : List Nat :=
  [0x3FFF01FF, 0, M32, M32] ++ List.replicate (placeNtab b) M32 ++
  (List.range (placeNcold b)).flatMap (fun _ => [M32, M32, M32, 0xFF]) ++
  (if commit then (List.range (placeNtab b)).flatMap (fun _ => [M32, M32]) else [])

/-- Words of STOP_STRINGS_SET (Table 17.6). -/
def stopMasks (b : List Byte) : List Nat :=
  [0x1F3F] ++ (List.range (reqNstop b)).flatMap (fun _ => 0x7F :: List.replicate 16 M32)

/-- A layout whose words depend on the request. -/
def cmdVar (pf0 long : Bool) (m : List Byte → List Nat) : Cmd := ⟨pf0, long, false, fun b => 8 + 4 * (m b).length, m⟩

/-- The commands of OIL 1.0 by opcode (Table 4.4). -/
def cmdOf (op : Nat) : Option Cmd :=
  match op with
  | 0x0001 => some (cmdQuery false [])
  | 0x0002 => some (cmdQuery false [0x3F])
  | 0x0003 => some (cmdAny ([0xFF] ++ List.replicate 8 M32))
  | 0x0004 => some (cmdQuery false [0xFFFF])
  | 0x0005 => some (cmdQuery false [0xFFFF])
  | 0x0100 => some (cmdQuery false [0xFFFF])
  | 0x0101 => some (cmdAny [0xFFFF])
  | 0x0200 => some (cmdPf0 quotaMasks)
  | 0x0201 => some (cmdPf0 quotaMasks)
  | 0x0202 => some (cmdPf0 [0x3F3FFF])
  | 0x0203 => some (cmdPf0 [0x3F])
  | 0x0204 => some (cmdLong true [0xFF])
  | 0x0205 => some (cmdLong true [0xFF])
  | 0x0206 => some (cmdQuery false [0xFF])
  | 0x0300 => some (cmdVar false false createMasks)
  | 0x0301 => some (cmdLong false [M32, 0xB, M32, 0xFF, M32, M32, M32, M32, M32])
  | 0x0302 => some (cmdAny [M32])
  | 0x0303 => some (cmdQuery false [M32])
  | 0x0304 => some (cmdPf0 [M32, 0x11F])
  | 0x0305 => some (cmdAny [M32, 0x3, M32, 0xFF, M32, M32, M32, M32, 0])
  | 0x0306 => some (cmdVar false true (placeMasks false))
  | 0x0307 => some (cmdVar true true (placeMasks true))
  | 0x0308 => some (cmdLong false [M32, 0x9, M32])
  | 0x0310 => some (cmdAny [0x1FF, 0x03FF03FF, M32, M32])
  | 0x0311 => some (cmdAny [M32, 0xFF])
  | 0x0500 => some (cmdLong false [0x7F, M32, M32, M32])
  | 0x0501 => some (cmdAny [0xF])
  | 0x0502 => some (cmdLong false [0, M32, M32, M32])
  | 0x0503 => some (cmdAny [0x1F])
  | 0x0504 => some (cmdVar false false stopMasks)
  | 0x0600 => some (cmdPf0 [0x7FFFFF, 0xF3F])
  | 0x0601 => some (cmdLong true [0x33F])
  | 0x0602 => some (cmdQuery true [0xFFF, 0x7F])
  | 0x0603 => some (cmdLong true [M32, M32, 0xF0F])
  | 0x0604 => some (cmdQuery true [])
  | 0x0605 => some (cmdLong true [M32, 0x103, M32, 0xFF, M32, 0])
  | 0x0700 => some (cmdPf0 [0x3])
  | 0x0701 => some (cmdPf0 [0xFF, M32])
  | 0x0702 => some (cmdQuery true [])
  | 0x0800 => some (cmdLong true [0x3F, M32, M32, M32, 0x3F1F, 0x3F1F, 0x3F1F, 0x3F1F])
  | 0x0801 => some (cmdLong true [])
  | 0x0802 => some (cmdPf0 [0xF0F])
  | 0x0803 => some (cmdQuery true [])
  | 0x0900 => some (cmdQuery true [])
  | 0x0901 => some (cmdPf0 [M32])
  | 0x0902 => some (cmdLong true [M32, M32, M32, M32])
  | 0x0903 => some (cmdLong true [])
  | 0x0904 => some (cmdPf0 [])
  | 0x0905 => some (cmdPf0 [1])
  | 0x0906 => some (cmdPf0 [])
  | 0x0907 => some (cmdPf0 [])
  | 0x0908 => some (cmdPf0 [0x3])
  | 0x0A00 => some (cmdQuery false [])
  | _ => none

/-! ### Request fields and the checks every command shares (R107 to R109) -/

def reqOp (b : List Byte) : Nat := leAt b 0 2
def reqLen (b : List Byte) : Nat := leAt b 4 2
/-- The bytes of a request that count: those its LENGTH names, then zeros (R108). -/
def reqBytes (r : MbxReq) : List Byte := slice (r.bytes.take (reqLen r.bytes)) 0 2048

/-- Commands that run in recovery mode (R101). -/
def inRecovery (op : Nat) : Bool :=
  (decide (1 ≤ op) && decide (op ≤ 5)) || (decide (0x900 ≤ op) && decide (op ≤ 0x908)) || op == 0x100 || op == 0xA00

/-- Commands that run for a partition that is ABSENT or DESTROYING (R168). -/
def inAbsent (op : Nat) : Bool := [1, 2, 4, 5, 0x100, 0x101, 0x206, 0xA00].contains op

/-- The checks before a command's own, in the order of R109: opcode, recovery mode, right, length, reserved content,
CMD_VER, and the partition's state. -/
def sharedCheck (s : State) (f : Nat) (r : MbxReq) : Option (Nat × Nat) :=
  let raw := slice r.bytes 0 2048
  let op := reqOp raw
  let n := reqLen raw
  match cmdOf op with
  | none => some (0x10, 0)
  | some c =>
    let b := reqBytes r
    if s.fw.recovery && !inRecovery op then some (0x1E, 3)
    else if c.pf0 && f ≠ 0 then some (0x14, 1)
    else if n < 8 || 2048 < n || n % 4 ≠ 0 then some (0x11, 0)
    else if !((b.drop (c.len b)).all (· == 0)) then some (0x11, 1)
    else
      let hdr := [0x00FFFFFF, if op = 0x906 then 0x1FFFF else 0xFFFF]
      match reservedFail (slice (raw.take (max 8 (min n (c.len b)))) 0 2048) 0 (hdr ++ c.masks b) with
      | some o => some (0x13, o)
      | none =>
        if leAt raw 2 1 ≠ 0 then some (0x12, 2)
        else if f ≠ 0 && ((part s (f - 1)).st == .absent || (part s (f - 1)).st == .destroying) && !inAbsent op then
          some (0x18, 0)
        else none

/-! ### Answers (R104, Table 4.3) -/

/-- The request of a function that Onaman works on: the latched one, or that of its earlier life. -/
def curReq (s : State) (f : Nat) : Option MbxReq :=
  match (mbxOf s f).latched with
  | some r => some r
  | none => (mbxOf s f).orphan

/-- A response of a command: it is written whole, and MBX_RSP_SEQ advances; that of an earlier life is discarded. -/
def answer (s : State) (f : Nat) (st detail opWord : Nat) (res : List Byte) : State :=
  let m := mbxOf s f
  match m.latched with
  | some r =>
    let b := leBytes 2 (reqOp r.bytes) ++ leBytes 2 st ++ leBytes 2 (16 + res.length) ++ leBytes 2 detail ++
      leBytes 4 r.seq.toNat ++ leBytes 4 opWord ++ res
    setMbx s f { m with latched := none, rspSeq := r.seq, rspArea := (b.zipIdx).map (fun e => (e.2, e.1)) }
  | none => setMbx s f { m with orphan := none }

/-- The firmware region is committed for a command that changed it (R29, R104). -/
def fwCommit (s : State) : State :=
  { s with cfg := { s.cfg with
      commitAt := put s.cfg.commitAt 0 s.clk.aon, seq := put s.cfg.seq 0 (lkD s.cfg.seq 0 0 + 1) } }

/-! ### Operations (R110 to R113) -/

/-- The operation of a key, and its replacement. -/
def opOf (s : State) (k : Nat) : Option Op := s.ops.find? (fun o => o.key == k)
def setOp (s : State) (o : Op) : State := { s with ops := s.ops.map (fun x => if x.key == o.key then o else x) }

/-- A running operation reaches a final state; its record goes with it where nobody may read it. -/
def finishOp (s : State) (o : Op) (st : OpSt) (ms detail : Nat) : State :=
  let o := { o with st := st, finalMs := ms, finalDetail := detail, land := [], asked := [], ex := [] }
  if o.id = 0 then { s with ops := s.ops.filter (fun x => x.key != o.key) } else setOp s o

/-- The lowest ID from n on that the function does not hold. -/
def freeId (held : List Nat) : Nat → Nat → Nat
  | 0, i => i
  | n + 1, i => if held.contains i then freeId held n (i % 65535 + 1) else i

/-- Begin an operation of a function; `hidden` is the work of a short command, which has no record. The spec gives no rule for
the ID but that the function does not hold it: the first such from a free value on (log entry 3). -/
def beginOp (s : State) (f op total : Nat) (b : List Byte) (acc : List Nat) (hidden : Bool) : Op × State :=
  let held := (s.ops.filter (fun o => o.fn == f)).map (·.id)
  let o : Op :=
    { key := s.opNext, id := if hidden then 0 else freeId held 17 ((Config.freeW32 s.freeCtr).toNat % 65535 + 1), opcode := op, fn := f
      st := .running, finalMs := 0, finalDetail := 0, unitsDone := 0, unitsTotal := total, req := b, at_ := s.clk.aon
      land := [], asked := [], ex := [], acc := acc }
  (o, { s with ops := s.ops ++ [o], opNext := s.opNext + 1, freeCtr := s.freeCtr + 1 })

/-- The context in which an operation reads host memory: its function's own. -/
def opCtx (s : State) (o : Op) : Ctx := ⟨s, 64, o.fn, partOfFn o.fn, o.land, o.ex⟩

/-- Issue what an operation needs. A ROW_REPAIR asks for a partition number, which its keys name (R488). -/
def askOp (s : State) (o : Op) : List Need → State
  | [] => setOp s o
  | .host a n :: l =>
    askOp s (if o.asked.contains (landKey a n) then o else { o with asked := o.asked ++ [landKey a n] }) l
  | .ats f p :: l =>
    if s.hif.atsAsked.contains (f, p) then askOp s o l
    else askOp { s with hif := { s.hif with atsAsked := s.hif.atsAsked ++ [(f, p)] } } o l
  | .msg key dst b :: l =>
    if has o.ex key then askOp s o l
    else
      let p := if o.opcode = 0x605 then key % 64 else partOfFn o.fn
      let (e, s) := if mayOpen s dst o.at_ then openExch s dst p b else (⟨0, dst, b, s.clk.timer, [], 2⟩, s)
      askOp s { o with ex := put o.ex key e } l

/-- The table handles an operation holds. -/
def opTables (o : Op) : List Nat :=
  if o.opcode = 0x301 ∨ o.opcode = 0x308 ∨ o.opcode = 0x605 then [leAt o.req 8 4]
  else if o.opcode = 0x306 ∨ o.opcode = 0x307 then (List.range (placeNtab o.req)).map (fun t => leAt o.req (0x18 + 4 * t) 4)
  else []

/-- The partition whose objects an operation acts on: 32 the driver domain. -/
def opPart (o : Op) : Nat :=
  match opTables o with
  | h :: _ => handleOwner h
  | [] =>
    if o.opcode = 0x204 ∨ o.opcode = 0x205 then leAt o.req 8 1
    else partOfFn o.fn

/-- The RUNNING operation that holds a table. -/
def tableHolder (s : State) (h : Nat) : Option Op :=
  s.ops.find? (fun o => o.st == .running && (opTables o).contains h)

/-- The RUNNING operation of an opcode. -/
def opRunning (s : State) (op : Nat) : Option Op := s.ops.find? (fun o => o.st == .running && o.opcode == op)

/-! ### Running a command -/

/-- What a command's own checks and effect come to. -/
inductive MOut where
  /-- It fails, and nothing changes. -/
  | fail (st detail : Nat)
  /-- Its object is held by a RUNNING operation (R114). -/
  | held (o : Op)
  /-- It has run: results, the state, and whether the firmware region changed. -/
  | ok (res : List Byte) (s : State) (fw : Bool)
  /-- A long operation starts. -/
  | start (total : Nat) (acc : List Nat) (s : State)
  /-- The same, with results beside MS_STARTED. -/
  | startRes (total : Nat) (acc : List Nat) (res : List Byte) (s : State)
  /-- A short command that needs host memory works on. -/
  | wait (acc : List Nat) (s : State)

/-- The CP runs Onaman. -/
def cpRuns (s : State) : Bool := dom s 5 == 0 && !s.fw.cpDown && !dpStop s

/-- Whether a function's request has begun: a short command that waits for host memory. -/
def begun (s : State) (f : Nat) (r : MbxReq) : Bool :=
  s.ops.any (fun o => o.fn == f && o.id == 0 && o.st == .running && o.opcode == reqOp r.bytes && o.req == reqBytes r)

/-- Whether a function's request is next (R114): no other that has not begun is earlier by acceptance time and function
number (log entry 22). -/
def myTurn (s : State) (f : Nat) (r : MbxReq) : Bool :=
  (List.range 33).all (fun g => g == f || (match curReq s g with
    | some q => begun s g q || decide (r.at_ < q.at_) || (r.at_ == q.at_ && decide (f < g))
    | none => true))

/-- Word 0x0C of a conflict response: the holder, where the issuer may know it (R114). -/
def holderWord (f : Nat) (o : Op) : Nat := if o.fn = f ∨ f = 0 then o.id + 65536 * o.fn + 2 ^ 22 else 0

/-- A long command starts its operation, unless the function holds 16 records (R110). -/
def startOp (s s' : State) (f : Nat) (b : List Byte) (total : Nat) (acc : List Nat) (res : List Byte)
    (go : State → Op → State) : State :=
  if 16 ≤ opsHeld s f then answer s f 0x16 0x10 0 []
  else
    let orphan := (mbxOf s' f).latched.isNone
    let (o, s) := beginOp s' f (reqOp b) total b acc orphan
    go (answer s f 1 0 o.id res) o

/-- Run a function's request to its answer, or start its operation. -/
def runReq (s : State) (f : Nat) (r : MbxReq) (body : State → Nat → List Byte → MOut) (go : State → Op → State) : State :=
  match sharedCheck s f r with
  | some (st, d) => answer s f st d 0 []
  | none =>
    let b := reqBytes r
    match body s f b with
    | .fail st d => answer s f st d 0 []
    | .held o => answer s f 0x19 1 (holderWord f o) []
    | .ok res s fw => answer (if fw then fwCommit s else s) f 0 0 0 res
    | .start total acc s' => startOp s s' f b total acc [] go
    | .startRes total acc res s' => startOp s s' f b total acc res go
    | .wait acc s =>
      let (o, s) := beginOp s f (reqOp b) 0 b acc true
      go s o

/-- Carry a function's RUNNING operations of an opcode on. -/
def goOps (s : State) (f op : Nat) (sel : List Byte → Bool) (go : State → Op → State) : State :=
  let ks := (s.ops.filter (fun o => o.fn == f && o.opcode == op && o.st == .running && sel o.req)).map (·.key)
  ks.foldl (fun s k => match opOf s k with | some o => if o.st == .running then go s o else s | none => s) s

/-- A command row: the function's request runs if it is of the row and is next; the row also carries its operations
on. `sel` tells rows of one opcode apart; `other` takes requests of opcodes that no row has. -/
def runCmd (s : State) (f op : Nat) (sel : List Byte → Bool) (other : Bool) (body : State → Nat → List Byte → MOut)
    (go : State → Op → State) : State :=
  if !cpRuns s then s
  else
    match curReq s f with
    | some r =>
      let o := reqOp r.bytes
      if ((o == op && sel (reqBytes r)) || (other && (cmdOf o).isNone)) && !begun s f r && myTurn s f r then
        runReq s f r body go
      else goOps s f op sel go
    | none => goOps s f op sel go

/-- A short command. -/
def runShort (s : State) (f op : Nat) (body : State → Nat → List Byte → MOut) : State :=
  runCmd s f op (fun _ => true) false body (fun s _ => s)

/-- The first failure of a list of checks, each with its status and DETAIL. -/
def firstBad (l : List (Bool × Nat × Nat)) : Option (Nat × Nat) := (l.find? (·.1)).map (·.2)

/-- Go on where no check fails. -/
@[inline] def checked (l : List (Bool × Nat × Nat)) (k : MOut) : MOut :=
  match firstBad l with
  | some (st, d) => .fail st d
  | none => k

/-- The range check of a command: the field at the lowest byte offset (R560). -/
def rangeBad (l : List (Nat × Bool)) : Bool × Nat × Nat :=
  match firstFail l with
  | some o => (true, 0x12, o)
  | none => (false, 0, 0)

end Sys2Proof.Machine
end

