-- ==== Sys2Proof/Machine/Discovery.lean ====
section
/-! DEFINITION. The commands of chapter 4 that read the interface: capabilities (R117, R118), limits (R119, R173,
R564), the command index (R120) and operation records (R110, R111). -/

namespace Sys2Proof.Machine

/-- Capabilities that OIL 1.0 defines (Table 4.5). -/
def definedCaps : BitVec 256 := 0x7FF#256

/-- PERMITTED of a function (R117). -/
def permittedOf (s : State) (f : Nat) : BitVec 256 := if f = 0 then definedCaps else (mbxOf s f).permitted

/-- The slot whose image runs. -/
def slotOf (s : State) (n : Nat) : ImgSlot := if n = 0 then s.fw.slotA else s.fw.slotB
def runningSlot (s : State) : ImgSlot := slotOf s s.fw.running

/-- The running OIL. -/
def runningOil (s : State) : Nat := (runningSlot s).oil

/-- GET_INTERFACE (Table 4.10). -/
def getInterface (s : State) (f : Nat) : List Byte :=
  let x := runningSlot s
  leBytes 4 (runningOil s + 2 ^ 16 * b2n s.fw.recovery + 2 ^ 17 * b2n s.fw.fallback + 2 ^ 18 * s.fw.running) ++
  leBytes 4 x.ver.toNat ++ leBytes 4 (x.svn + 2 ^ 8 * s.fw.rollback + 2 ^ 16 * x.handover) ++
  leBytes 4 (f + 2 ^ 7 * b2n (f == 0) + 2 ^ 8 * (if f = 0 then 0 else f - 1))

/-- GET_INTERFACE; it also takes requests of an opcode that Table 4.4 does not list (R130). -/
def execGetInterface (f : Fn) (s : State) : Host.Outcome State Fault Refusal :=
  .next (runCmd s f.val 1 (fun _ => true) true (fun s f _ => .ok (getInterface s f) s false) (fun s _ => s))

/-- GET_CAPS. -/
def getCaps (s : State) (f : Nat) (b : List Byte) : MOut :=
  let t := leAt b 8 1
  checked [(t ≠ 0 && f ≠ 0, 0x14, 1), (32 < t, 0x12, 8)]
    (let g := if t = 0 then f else t
     .ok (leBytes 32 definedCaps.toNat ++ leBytes 32 (permittedOf s g).toNat ++ leBytes 32 (mbxOf s g).enabled.toNat)
       s false)

def execGetCaps (f : Fn) (s : State) : Host.Outcome State Fault Refusal := .next (runShort s f.val 2 getCaps)

/-- PERMITTED of partition p takes a mask: bits removed leave ENABLED at once, each with a record (R118). -/
def setPermitted (s : State) (p : Nat) (m : BitVec 256) : State :=
  let x := mbxOf s (p + 1)
  let gone := (List.range 256).filter (fun n => x.permitted.getLsbD n && !m.getLsbD n)
  let s := setMbx s (p + 1) { x with permitted := m, enabled := x.enabled &&& m }
  gone.foldl (fun s n => postP s p 0x0204 2 n 0 0 0) s

/-- ENABLE_CAPS (R118). -/
def enableCaps (s : State) (f : Nat) (b : List Byte) : MOut :=
  let t := leAt b 8 1
  let m := BitVec.ofNat 256 (leAt b 0x0C 32)
  checked [(t < 32 && f ≠ 0, 0x14, 1), (t ≠ 0xFF && 32 ≤ t, 0x12, 8),
    (!m.getLsbD 0 || m &&& ~~~definedCaps != 0, 0x12, 0x0C),
    (t == 0xFF && m &&& ~~~(permittedOf s f) != 0, 0x14, 2)]
    (if t = 0xFF then .ok [] (setMbx s f { mbxOf s f with enabled := m }) true
     else .ok [] (setPermitted s t m) true)

def execEnableCaps (f : Fn) (s : State) : Host.Outcome State Fault Refusal := .next (runShort s f.val 3 enableCaps)

/-- GET_COMMAND_INFO (R120): every command of OIL 1.0 came with it, and none is deprecated. -/
def commandInfo (b : List Byte) : List Byte :=
  match cmdOf (leAt b 8 2) with
  | none => List.replicate 16 0
  | some c => leBytes 4 (1 + 4 * b2n c.long + 8 * b2n c.query) ++ leBytes 4 0x0100 ++ leBytes 8 0

def execGetCommandInfo (f : Fn) (s : State) : Host.Outcome State Fault Refusal :=
  .next (runShort s f.val 4 (fun s _ b => .ok (commandInfo b) s false))

/-! ### Limits -/

/-- Sums over partitions. -/
def sumParts (s : State) (g : Quota → Nat) : Nat := (s.parts.map (fun e => g e.2.q)).sum

/-- Distinct lock IDs of a partition's ranges. -/
def lockCount (s : State) (p : Nat) : Nat := ((List.range 1024).filter (fun j => lockIn s p j)).length

/-- Streams assigned to a function. -/
def streamCount (s : State) (f : Nat) : Nat :=
  (s.streams.filter (fun e => match e.2.slot with | some (g, _) => g == f | none => false)).length

/-- The limits that a function sees, in ascending ID order (R119, R173, R564). -/
def limitsOf (s : State) (f : Nat) : List (Nat × Nat) :=
  let q := (part s (f - 1)).q
  [(1, streamCount s f),
   (2, if f = 0 then 4096 - sumParts s (·.maxTables) else q.maxTables),
   (3, 4096), (4, 65536), (5, 1048576), (6, 16), (7, 16), (8, 64), (9, 512),
   (0xA, if f = 0 then 1024 else lockCount s (f - 1)),
   (0xB, if f = 0 then usablePages s - dttPages s - repairPages - sumParts s (·.memPages) else q.memPages),
   (0xC, if f = 0 then 65536 else q.galMax),
   (0xD, 16), (0xE, 2048)]

/-- GET_LIMITS. -/
def getLimits (s : State) (f : Nat) (b : List Byte) : List Byte :=
  let l := ((limitsOf s f).filter (fun e => leAt b 8 2 ≤ e.1)).take 126
  leBytes 4 l.length ++ leBytes 4 0 ++ leBytes 8 0 ++
  l.flatMap (fun e => leBytes 2 e.1 ++ leBytes 6 0 ++ leBytes 8 e.2)

def execGetLimits (f : Fn) (s : State) : Host.Outcome State Fault Refusal :=
  .next (runShort s f.val 5 (fun s f b => .ok (getLimits s f b) s false))

/-! ### Operation records -/

/-- STATE of R111. -/
def OpSt.num : OpSt → Nat
  | .running => 0 | .done => 1 | .failed => 2 | .cancelled => 3 | .interrupted => 4

/-- The record of an ID that a function holds. -/
def opById (s : State) (f i : Nat) : Option Op := s.ops.find? (fun o => o.fn == f && o.id == i && i != 0)

/-- Table 4.6. -/
def opRecord (o : Op) : List Byte :=
  leBytes 2 o.id ++ leBytes 2 o.opcode ++ leBytes 4 (o.st.num + 2 ^ 8 * o.finalMs + 2 ^ 16 * o.finalDetail) ++
  leBytes 8 o.unitsDone ++ leBytes 8 o.unitsTotal

/-- OP_STATUS: a read that finds the operation final releases its record (R110). -/
def opStatus (s : State) (f : Nat) (b : List Byte) : MOut :=
  match opById s f (leAt b 8 2) with
  | none => .fail 0x18 0
  | some o =>
    .ok (opRecord o) (if o.st = .running then s else { s with ops := s.ops.filter (fun x => x.key != o.key) }) false

def execOpStatus (f : Fn) (s : State) : Host.Outcome State Fault Refusal := .next (runShort s f.val 0x100 opStatus)

end Sys2Proof.Machine
end

