-- ==== Sys2Proof/Machine/Firmware.lean ====
section
/-! DEFINITION. Firmware images and their update (4.8, 4.9): the header and the checks of R122, the update session of
R125, activation (R126), the rollback counter (R123) and key revocation (R124). -/

namespace Sys2Proof.Machine

/-- The die's stepping, HIF_ID[23:16] (Table 3.7). -/
def dieStepping : Nat := 0xA1

/-- Bytes of a slot; an unwritten byte of NOR reads erased. -/
def slotBytes (x : ImgSlot) (a n : Nat) : List Byte := (List.range n).map (fun i => lkD x.bytes (a + i) 0xFF)
def slotAtN (x : ImgSlot) (a n : Nat) : Nat := leNat (slotBytes x a n)

/-- Why an image is refused: the MS_ code and DETAIL of Table 4.9. -/
def imageFault (s : State) (x : ImgSlot) : Option (Nat × Nat) :=
  let key := slotAtN x 0x0D 1 % 4
  let px := (slotBytes x 0x70 48).reverse
  let py := (slotBytes x 0xA0 48).reverse
  let r := (slotBytes x 0x100 48).reverse
  let sg := (slotBytes x 0x130 48).reverse
  if slotAtN x 0 4 ≠ 0xA5C00E01 || slotAtN x 4 2 ≠ 1 || slotAtN x 6 2 ≠ 512 || 4193792 < slotAtN x 0x14 4 then some (0x1C, 1)
  else if dieStepping < slotAtN x 0x12 1 then some (0x1C, 6)
  else if Config.sha384 (slotBytes x 0x70 48 ++ slotBytes x 0xA0 48) ≠ lkD s.fw.keyHash key [] then some (0x1C, 2)
  else if lkD s.fw.revoked key false then some (0x1C, 3)
  else if !Config.ecdsaP384 px py r sg (Config.sha384 (slotBytes x 0 256)) then some (0x1C, 4)
  else if Config.sha384 (slotBytes x 512 (slotAtN x 0x14 4)) ≠ slotBytes x 0x40 48 then some (0x1C, 5)
  else if slotAtN x 0x0C 1 < s.fw.rollback then some (0x1D, s.fw.rollback)
  else none

/-- A slot whose image has verified, with the fields of its header. -/
def verified (x : ImgSlot) : ImgSlot :=
  { x with valid := true, ver := BitVec.ofNat 32 (slotAtN x 8 4), svn := slotAtN x 0x0C 1, keySlot := slotAtN x 0x0D 1 % 4
           oil := slotAtN x 0x0E 2, handover := slotAtN x 0x10 2 }

/-- Replace an image slot. -/
def setSlot (s : State) (n : Nat) (x : ImgSlot) : State :=
  { s with fw := if n = 0 then { s.fw with slotA := x } else { s.fw with slotB := x } }

/-- Whether a slot holds an image that may run: verified, its SVN at least the rollback counter (R122, R123). -/
def slotOk (s : State) (n : Nat) : Bool := (slotOf s n).valid && decide (s.fw.rollback ≤ (slotOf s n).svn)

/-- The inactive slot: the one whose image does not run (R125, R526). -/
def inactive (s : State) : Nat := 1 - s.fw.running

/-- An update session opens on the inactive slot, which is invalid until it verifies (log entry 23). -/
def openSession (s : State) (path : SessPath) (len : Nat) : State :=
  let s := setSlot s (inactive s) { slotOf s (inactive s) with bytes := [], valid := false }
  { s with fw := { s.fw with sess := some ⟨path, len, s.clk.aon, 0⟩ } }

/-- The open session ends, its slot invalid. -/
def cancelSession (s : State) : State :=
  let s := setSlot s (inactive s) { slotOf s (inactive s) with valid := false }
  { s with fw := { s.fw with sess := none } }

/-- The session of the mailbox path. -/
def mbxSess (s : State) : Option Sess :=
  match s.fw.sess with
  | some x => if x.path = .mailbox then some x else none
  | none => none

/-- Commands that the AMC takes part in (R25, R27). -/
def amcUp (s : State) : Bool × Nat × Nat := (s.mgmt.amcDown, 0x1E, 2)

/-- The session has had a command. -/
def touchSession (s : State) : State :=
  { s with fw := { s.fw with sess := s.fw.sess.map (fun x => { x with lastAt := s.clk.aon }) } }

/-- FW_QUERY. -/
def fwQuery (s : State) : List Byte :=
  let a := slotOk s 0
  let b := slotOk s 1
  let path := match s.fw.sess with | some x => b2n (x.path == .pldm) | none => 0
  leBytes 4 (b2n a + 2 * b2n b + 4 * s.fw.marked + 8 * s.fw.running + 16 * b2n s.fw.fallback +
    32 * b2n s.fw.sess.isSome + 64 * path) ++
  leBytes 4 (if a then s.fw.slotA.ver.toNat else 0) ++ leBytes 4 (if b then s.fw.slotB.ver.toNat else 0) ++
  leBytes 4 (s.fw.slotA.svn + 2 ^ 8 * s.fw.slotB.svn + 2 ^ 16 * s.fw.rollback) ++
  leBytes 4 ((List.range 4).map (fun n => 2 ^ n * b2n (lkD s.fw.revoked n false))).sum ++
  leBytes 4 (match s.fw.sess with | some x => x.bytes | none => 0)

def execFwQuery (f : Fn) (s : State) : Host.Outcome State Fault Refusal :=
  .next (runShort s f.val 0x900 (fun s _ _ => .ok (fwQuery s) s false))

/-- FW_UPDATE_BEGIN. -/
def fwBegin (s : State) (_f : Nat) (b : List Byte) : MOut :=
  let n := leAt b 8 4
  checked [(n < 512 || 4194304 < n || n % 4 ≠ 0, 0x12, 8), (s.fw.sess.isSome, 0x17, 1), amcUp s]
    (.ok (leBytes 4 (inactive s)) (openSession s .mailbox n) false)

def execFwUpdateBegin (f : Fn) (s : State) : Host.Outcome State Fault Refusal :=
  .next (runShort s f.val 0x901 fwBegin)

/-- Whether any of n bytes from a on has been programmed. -/
def anyWritten (x : ImgSlot) (a n : Nat) : Bool := x.bytes.any (fun e => decide (a ≤ e.1) && decide (e.1 < a + n))

/-- FW_UPDATE_DATA: the checks. -/
def fwData (s : State) (_f : Nat) (b : List Byte) : MOut :=
  let off := leAt b 8 4
  let n := leAt b 0x0C 4
  let len := match mbxSess s with | some x => x.len | none => 0
  checked [
    (match s.fw.sess with | some x => x.path == .pldm | none => false, 0x17, 1),
    rangeBad [(8, off % 4 != 0 || anyWritten (slotOf s (inactive s)) off n),
      (0x0C, decide (n < 4) || decide (1048576 < n) || n % 4 != 0 || decide (len < off + n)),
      (0x10, badAddr (leAt b 0x10 8) 4)],
    ((opRunning s 0x902).isSome, 0x17, 2), amcUp s]
    (.start (cdiv n 4096) [] (touchSession s))

/-- Program what has landed; a source that faults fails the operation (log entry 24). -/
def fwDataGo (s : State) (o : Op) : State :=
  let off := leAt o.req 8 4
  if s.mgmt.amcDown then s
  else
    match readAt (opCtx s o) (leAt o.req 0x10 8) (leAt o.req 0x0C 4) with
    | .need l => askOp s o l
    | .stop _ _ => finishOp s o .failed 0x12 0x10
    | .ok l _ =>
      match mbxSess s with
      | none => finishOp s o .failed 0x12 0x08
      | some x =>
        let sl := slotOf s (inactive s)
        let s := setSlot s (inactive s) { sl with bytes := putAll sl.bytes ((pbBytes l).zipIdx.map (fun e => (off + e.2, e.1))) }
        let s := { s with fw := { s.fw with sess := some { x with bytes := x.bytes + l.length } } }
        finishOp s { o with unitsDone := o.unitsTotal } .done 0 0

def execFwUpdateData (f : Fn) (s : State) : Host.Outcome State Fault Refusal :=
  .next (runCmd s f.val 0x902 (fun _ => true) false fwData fwDataGo)

/-- FW_UPDATE_END: refused while a byte is unwritten. -/
def fwEnd (s : State) (_f : Nat) (_b : List Byte) : MOut :=
  match mbxSess s with
  | none => .fail 0x19 9
  | some x =>
    checked [((opRunning s 0x902).isSome, 0x17, 2), (x.bytes < x.len, 0x19, 9), amcUp s]
      (.start (cdiv x.len 65536) [] (touchSession s))

/-- The slot is verified, and the session ends. -/
def fwEndGo (s : State) (o : Op) : State :=
  if s.mgmt.amcDown then s
  else
    let n := inactive s
    let x := slotOf s n
    let o := { o with unitsDone := o.unitsTotal }
    match imageFault s x with
    | some (ms, d) => finishOp (cancelSession s) o .failed ms d
    | none =>
      let s := setSlot s n (verified x)
      finishOp { s with fw := { s.fw with sess := none } } o .done 0 0

def execFwUpdateEnd (f : Fn) (s : State) : Host.Outcome State Fault Refusal :=
  .next (runCmd s f.val 0x903 (fun _ => true) false fwEnd fwEndGo)

/-- FW_UPDATE_CANCEL ends a mailbox session at any point; a data operation of it ends CANCELLED. -/
def fwCancel (s : State) (_f : Nat) (_b : List Byte) : MOut :=
  checked [(match s.fw.sess with | some x => x.path == .pldm | none => false, 0x17, 1), amcUp s]
    (if (mbxSess s).isNone then .ok [] s false
     else
      let ops := s.ops.filter (fun o => o.st == .running && (o.opcode == 0x902 || o.opcode == 0x903))
      .ok [] (cancelSession (ops.foldl (fun s o => finishOp s o .cancelled 0 0) s)) false)

def execFwUpdateCancel (f : Fn) (s : State) : Host.Outcome State Fault Refusal :=
  .next (runShort s f.val 0x904 fwCancel)

/-- FW_ACTIVATE (R126). -/
def fwActivate (s : State) (_f : Nat) (b : List Byte) : MOut :=
  let n := leAt b 8 1 % 2
  checked [(!slotOk s n, 0x19, 6), amcUp s] (.ok [] { s with fw := { s.fw with marked := n } } false)

def execFwActivate (f : Fn) (s : State) : Host.Outcome State Fault Refusal :=
  .next (runShort s f.val 0x905 fwActivate)

/-- FW_COMMIT_SVN (R123). -/
def fwCommitSvn (s : State) (_f : Nat) (_b : List Byte) : MOut :=
  let n := max s.fw.rollback (min 64 (runningSlot s).svn)
  checked [(s.fw.fallback, 0x19, 4)] (.ok (leBytes 4 n) { s with fw := { s.fw with rollback := n } } false)

def execFwCommitSvn (f : Fn) (s : State) : Host.Outcome State Fault Refusal :=
  .next (runShort s f.val 0x907 fwCommitSvn)

/-- FW_REVOKE_KEY (R124). -/
def fwRevoke (s : State) (_f : Nat) (b : List Byte) : MOut :=
  let k := leAt b 8 1 % 4
  let used (n : Nat) : Bool := (n == s.fw.running || (slotOf s n).valid) && (slotOf s n).keySlot == k
  checked [(used 0 || used 1, 0x19, 5)] (.ok [] { s with fw := { s.fw with revoked := put s.fw.revoked k true } } false)

def execFwRevokeKey (f : Fn) (s : State) : Host.Outcome State Fault Refusal :=
  .next (runShort s f.val 0x908 fwRevoke)

/-- FW_SESSION_TIMEOUT (R125): a session with no command for 60 s is cancelled by the AMC, unless an operation of it
runs. -/
def execFwSessionTimeout (s : State) : Host.Outcome State Fault Refusal :=
  .next (match s.fw.sess with
    | none => s
    | some x =>
      if s.mgmt.amcDown || s.pwr.off || (opRunning s 0x902).isSome || (opRunning s 0x903).isSome ||
        s.clk.aon < x.lastAt + 60 * secT then s
      else
        let s := cancelSession s
        let s := if x.path = .pldm then { s with mgmt := { s.mgmt with pldm := .idle } } else s
        postG s 0x0205 2 x.bytes 0 0 0)

end Sys2Proof.Machine
end

