-- ==== Sys2Proof/Machine/Text.lean ====
section
/-! DEFINITION. What the text units share (chapters 16, 17): reads of an image in its pages, UTF-8 decoding (R444), the
normalization tables (R446, R447), and which unit takes which task (R438, R465). -/

namespace Sys2Proof.Machine

/-! ### Images -/

/-- What the reads of an image have met: a poisoned one, the accesses made (newest first), and node reads served by a
cache or from memory (R459, R461). -/
structure Rd where
  bad : Bool
  tr : List Acc
  hit : Nat
  miss : Nat
def Rd.zero : Rd := ⟨false, [], 0, 0⟩

/-- An image: its pages and the bytes of its header. -/
structure Img where
  s : State
  pages : List Nat
  hdr : List Byte

/-- The device-physical address of byte `off` of an object in pages. -/
def objPa (pages : List Nat) (off : Nat) : Nat := pages.getD (off / 65536) 0 * 65536 + off % 65536

/-- Read n bytes at an offset of an object in device pages. -/
def objRead (s : State) (pages : List Nat) (r : Rd) (off n : Nat) : List Byte × Rd :=
  (pieces 65536 off n).foldl (fun (x : List Byte × Rd) (_, a, l) =>
    let b := devRead s (objPa pages a) l
    (x.1 ++ pbBytes b, { x.2 with bad := x.2.bad || pbBad b, tr := ⟨objPa pages a, l⟩ :: x.2.tr })) ([], r)

/-- Open an image: its header is read. -/
def openImg (s : State) (pages : List Nat) : Img × Rd :=
  let (h, r) := objRead s pages Rd.zero 0 256
  (⟨s, pages, h⟩, r)

/-- A header word. -/
def Img.h (g : Img) (o : Nat) : Nat := leAt g.hdr o 4

/-- A little-endian field of n bytes in the image. -/
def Img.nat (g : Img) (r : Rd) (off n : Nat) : Nat × Rd :=
  let (b, r) := objRead g.s g.pages r off n
  (leNat b, r)
/-- Bytes of the image. -/
def Img.bytes (g : Img) (r : Rd) (off n : Nat) : List Byte × Rd := objRead g.s g.pages r off n

/-! ### Decoding (R444) -/

/-- The ranges of the bytes that follow a first byte (Table 16.2). -/
def utfRows (b : Nat) : Option (List (Nat × Nat)) :=
  let k := (0x80, 0xBF)
  if b ≤ 0x7F then some []
  else if 0xC2 ≤ b ∧ b ≤ 0xDF then some [k]
  else if b = 0xE0 then some [(0xA0, 0xBF), k]
  else if b = 0xED then some [(0x80, 0x9F), k]
  else if 0xE1 ≤ b ∧ b ≤ 0xEF then some [k, k]
  else if b = 0xF0 then some [(0x90, 0xBF), k, k]
  else if 0xF1 ≤ b ∧ b ≤ 0xF3 then some [k, k, k]
  else if b = 0xF4 then some [(0x80, 0x8F), k, k]
  else none

/-- What stands at a byte position of an input. -/
inductive Dec where
  /-- A code point of l bytes. -/
  | char (l : Nat)
  /-- The bytes to the end are a proper prefix of a well-formed sequence. -/
  | open_
  | invalid
  | done
deriving DecidableEq, Repr

/-- Match following bytes against their ranges. -/
def utfTail (l : Nat) : List (Nat × Nat) → List Byte → Dec
  | [], _ => .char l
  | _ :: _, [] => .open_
  | (a, z) :: rs, b :: t => if a ≤ b.toNat ∧ b.toNat ≤ z then utfTail l rs t else .invalid

/-- Decode at the start of a byte string. -/
def decodeUtf : List Byte → Dec
  | [] => .done
  | b :: t =>
    match utfRows b.toNat with
    | none => .invalid
    | some rs => utfTail (rs.length + 1) rs t

/-- The code point of a well-formed sequence. -/
def codePoint : List Byte → Nat
  | [] => 0
  | b :: t =>
    let lead := if t.isEmpty then b.toNat else b.toNat % 2 ^ (6 - t.length)
    t.foldl (fun v x => v * 64 + x.toNat % 64) lead

/-- Whether a byte string is well-formed throughout. -/
def wellFormedUtf : Nat → List Byte → Bool
  | 0, l => l.isEmpty
  | n + 1, l =>
    match decodeUtf l with
    | .done => true
    | .char k => wellFormedUtf n (l.drop k)
    | _ => false

/-! ### Normalization (R446, R447) -/

/-- The stage-2 entry of a code point or pseudo code point. -/
def normEntry (g : Img) (r : Rd) (u : Nat) : Nat × Rd :=
  let (blk, r) := g.nat r (g.h 0x24 + 2 * (u / 256)) 2
  g.nat r (g.h 0x28 + 4 * (blk * 256 + u % 256)) 4

/-- The string that a REPLACE entry names. -/
def poolStr (g : Img) (r : Rd) (e : Nat) : List Byte × Rd := g.bytes r (g.h 0x30 + e / 256) (e / 16 % 16)

/-- What a unit appends to N, each byte with its mark as a character start: `raw` is the sequence decoded, or the
invalid byte alone. -/
def normalize (g : Img) (r : Rd) (raw : List Byte) (valid : Bool) : List (Byte × Bool) × Rd :=
  let u := if valid then codePoint raw else 0x110000 + leNat raw
  let (e, r) := normEntry g r u
  match e % 4 with
  | 0 => (raw.zipIdx.map (fun (b, k) => (b, k == 0)), r)
  | 2 =>
    let (b, r) := poolStr g r e
    (b.map (fun x => (x, !(0x80 ≤ x.toNat && x.toNat ≤ 0xBF))), r)
  | _ => ([], r)

/-! ### Units (R438, R465) -/

/-- The units that serve a task type: first unit and number. -/
def unitsOf (type : Nat) : Nat × Nat := if type = 5 then (0, 4) else if type = 6 then (4, 4) else (8, 2)

/-- Whether a stream's task runs on a unit. -/
def onUnit (s : State) (i : Nat) : Bool := s.units.any (fun e => e.2 == i)

/-- The type of a stream's task. -/
def taskType (s : State) (i : Nat) : Nat := match (stream s i).task with | some t => t.type | none => 0

/-- The waiting task of a type that a free unit takes: highest STR_PRIO, of which 0 is the highest, then first in order
(R438); under PART_RR the partitions rotate (R167). -/
def nextWaiting (s : State) (type : Nat) : Option Nat :=
  let l := s.unitWait.filter (fun e => taskType s e.1 == type)
  let top := (l.map (·.2)).foldl min 7
  let l := l.filter (fun e => e.2 == top)
  let key (e : Nat × Nat) : Nat := if partRr s then rrKey s (type - 4) (streamPart s e.1) else 0
  let best := (l.map key).foldl min 64
  (l.find? (fun e => key e == best)).map (·.1)

/-- A free unit of a type takes stream i's task where it is that task's turn. -/
def takeUnit (s : State) (i type : Nat) : State :=
  let (a, n) := unitsOf type
  match ((List.range n).map (a + ·)).find? (fun u => !has s.units u) with
  | some u =>
    if nextWaiting s type == some i then
      rrServe { s with units := put s.units u i, unitWait := s.unitWait.filter (fun e => e.1 != i) } (type - 4)
        (streamPart s i)
    else s
  | none => s

/-- Run a text task that holds a unit, or gets one now, by its plan. -/
def textRun (s : State) (i type : Nat) (plan : State → Nat → TaskRun → Plan) : State :=
  match runningTask s i type with
  | none => s
  | some t =>
    let s := if onUnit s i then s else takeUnit s i type
    if onUnit s i then runPlan s i t (plan s i t) else s

/-! ### What every text task does -/

/-- The image in a slot that a partition number reaches (R439). -/
def imgFor (l : Tab TextImg) (slot p : Nat) : Option TextImg :=
  match lk l slot with
  | some x => if x.loaded && x.owner == p then some x else none
  | none => none

/-- Read an input of a task as walk 0; a fault names the element of the list in COORD [31:0] and the byte within it in
POSITION (R283, R302). -/
def inputRead (c : Ctx) (a n elem : Nat) : Ev (List PB) :=
  (readAt c a n).at_ 0 (fun off => (off % elem, coordAt 0 (off / elem)))

/-- Write an output of a task as walk 1. -/
def outputWrite (c : Ctx) (a : Nat) (b : List Byte) (elem : Nat) : Ev (List OutW) :=
  (writeAt c a b false).at_ 0 (fun off => (off % elem, coordAt 1 (off / elem)))

/-- Little-endian words of a byte string. -/
def wordsOf (b : List Byte) : List Nat := (chunks 4 b).map leNat

/-- The task ends TS_POISONED, with the record of R486. -/
def endPoisoned (s : State) (i : Nat) (t : TaskRun) : State :=
  let s := postTask s i t 0x0601 4 0 (2 ^ 32) (2 ^ 64 - 1) 0
  endTask s i t { Rec.ok 1 0 0 with status := 2, poison := true }

/-- The task ends where an evaluation stopped. -/
def endStop (s : State) (i : Nat) (t : TaskRun) (e : Stop) : State :=
  endTask s i t (Rec.abort e.status e.detail 0 e.pos e.coord)

/-- The plan of a task that does nothing but end with an abort. -/
def planAbort (i status detail : Nat) : Plan :=
  .fin false [] (fun t s => endTask s i t (Rec.abort status detail 0 0 0))
/-- The plan of a task whose evaluation stopped. -/
def planStop (i : Nat) (e : Stop) (tr : List Acc) : Plan := .fin true tr (fun t s => endStop s i t e)

end Sys2Proof.Machine
end

