-- ==== Sys2Proof/Machine/Case.lean ====
section
/-! DEFINITION. The Case units: TOKENIZE (chapter 16). The normalized string N is held from the last commit C on, so
positions here are relative to C. -/

namespace Sys2Proof.Machine

/-! ### The trie (R448) -/

/-- A trie node (Table 16.6). -/
structure TNode where
  idx : Nat
  base : Int
  check : Nat
  w : Nat
  score : Int

/-- Read a node; the first min(HOT_NODES, 4096) are in the unit's cache (R461). -/
def nodeAt (g : Img) (r : Rd) (n : Nat) : TNode × Rd :=
  let pa := objPa g.pages (g.h 0x38 + 16 * n)
  let d := devRead g.s pa 16
  let b := pbBytes d
  let hot := decide (n < min (g.h 0x40) 4096)
  let r := { r with
    bad := r.bad || pbBad d, tr := if hot then r.tr else ⟨pa, 16⟩ :: r.tr
    hit := r.hit + b2n hot, miss := r.miss + b2n (!hot) }
  (⟨n, sext 32 (leAt b 0 4), leAt b 4 4, leAt b 8 4, sext 32 (leAt b 12 4)⟩, r)

/-- A step from a node on a byte. -/
def trieStep (g : Img) (r : Rd) (x : TNode) (b : Byte) : Option TNode × Rd :=
  let t := x.base + b.toNat
  if 1 ≤ t ∧ t < g.h 0x3C then
    let (y, r) := nodeAt g r t.toNat
    (if y.check = x.idx then some y else none, r)
  else (none, r)

/-- The pieces that a walk finds, as (length, token, score), and whether the walk over the whole string ends at a node
with HAS_CHILD. -/
def trieWalk (g : Img) (r : Rd) (x : TNode) (len : Nat) : List (Byte × Bool) → List (Nat × Nat × Int) × Bool × Rd
  | [] => ([], bitOf x.w 30, r)
  | (b, _) :: t =>
    match trieStep g r x b with
    | (none, r) => ([], false, r)
    | (some y, r) =>
      let (l, o, r) := trieWalk g r y (len + 1) t
      (if bitOf y.w 31 then (len + 1, y.w % 2 ^ 20, y.score) :: l else l, o, r)

/-! ### The lattice (R448, R449) -/

/-- A candidate of a position: its score, the length of its last edge, and that edge's token. -/
abbrev Cand := Option (Int × Nat × Nat)

/-- A position: its best edge, and whether the walk from it to E is still open (R450); E itself counts as open. -/
structure LPos where
  best : Cand
  open_ : Bool

/-- Take an edge of length n where it beats what stands at its end: positions come in ascending order and pieces
before the fallback edge, so an equal score never replaces (R449). -/
def takeEdge : List Cand → Nat → Int × Nat × Nat → List Cand
  | [], 0, e => [some e]
  | [], n + 1, e => none :: takeEdge [] n e
  | c :: t, 0, e =>
    (match c with
     | none => some e
     | some o => if o.1 < e.1 then some e else some o) :: t
  | c :: t, n + 1, e => c :: takeEdge t n e

/-- The length of the unknown edge from a character start: to the next one, or to E. -/
def charLen : List (Byte × Bool) → Nat
  | [] => 0
  | (_, st) :: t => if st then 0 else 1 + charLen t

/-- The positions from here to E, `cands` holding the candidates of this position and the ones after it. -/
def lattice (g : Img) (r : Rd) : List (Byte × Bool) → List Cand → List LPos × Rd
  | [], cands => ([⟨cands.headD none, true⟩], r)
  | (b, st) :: t, cands =>
    match cands.headD none with
    | none =>
      let (l, r) := lattice g r t cands.tail
      (⟨none, false⟩ :: l, r)
    | some (v, n, tok) =>
      let (root, r) := nodeAt g r 0
      let (ps, o, r) := trieWalk g r root 0 ((b, st) :: t)
      let cs := ps.foldl (fun cs (len, tk, sc) => takeEdge cs (len - 1) (v + sc, len, tk)) cands.tail
      let (cs, r) :=
        if bitOf (g.h 0x10) 0 then
          (if st then takeEdge cs (charLen t) (v + sext 32 (g.h 0x18), charLen t + 1, g.h 0x14) else cs, r)
        else
          let (tk, r) := g.nat r (g.h 0x20 + 4 * b.toNat) 4
          (takeEdge cs 0 (v + sext 32 (g.h 0x1C), 1, tk), r)
      let (l, r) := lattice g r t cs
      (⟨some (v, n, tok), o⟩ :: l, r)

/-- The nodes of the best path to position j, from j down to C. -/
def pathTo (l : List LPos) : Nat → Nat → List Nat
  | 0, j => [j]
  | f + 1, j =>
    match (l[j]?).bind (·.best) with
    | some (_, n, _) => if j = 0 ∨ n = 0 then [j] else j :: pathTo l f (j - n)
    | none => [j]
/-- The best path to j, and the tokens along it in path order. -/
def path (l : List LPos) (j : Nat) : List Nat := pathTo l l.length j
def pathToks (l : List LPos) (j : Nat) : List Nat :=
  ((path l j).filter (· != 0)).reverse.map (fun k => match (l[k]?).bind (·.best) with | some (_, _, t) => t | none => 0)

/-- The frontier (R450). -/
def frontier (l : List LPos) : List Nat :=
  (l.zipIdx.filter (fun (p, _) => p.best.isSome && p.open_)).map (·.2)

/-- The highest convergence point (R450). -/
def converge (l : List LPos) : Nat :=
  let ps := (frontier l).map (path l)
  ((path l (l.length - 1)).find? (fun k => ps.all (·.contains k))).getD 0

/-! ### A task's progress -/

/-- Where a task stands: N from C, T − C, the tokens written (newest first) and their number, the POSITION of the first
forced commit and how many there were, and the reads. -/
structure CaseSt where
  n : List (Byte × Bool)
  t : Int
  out : List Nat
  written : Nat
  forced : Option Nat
  nForced : Nat
  r : Rd

/-- The positions of the lattice as it stands. -/
def CaseSt.lat (g : Img) (c : CaseSt) : List LPos × Rd := lattice g c.r c.n [some (0, 0, 0)]

/-- Commit the best path to position p. -/
def CaseSt.commit (c : CaseSt) (toks : List Nat) (p : Nat) (r : Rd) : CaseSt :=
  { c with n := c.n.drop p, t := c.t - p, out := toks.reverse ++ c.out, written := c.written + toks.length, r := r }

/-- A test (R450, R451). -/
def CaseSt.test (g : Img) (c : CaseSt) : CaseSt :=
  let (l, r) := c.lat g
  let p := converge l
  { c with t := c.n.length }.commit (pathToks l p) p r

/-- A forced commit (R452): the best path to E, up to its highest node at or below C + 4,096. -/
def CaseSt.force (g : Img) (c : CaseSt) : CaseSt :=
  let (l, r) := c.lat g
  let p := ((path l (l.length - 1)).find? (· ≤ 4096)).getD 0
  let ns := (path l (l.length - 1)).filter (· ≤ p)
  let toks := (ns.filter (· != 0)).reverse.map (fun k =>
    match (l[k]?).bind (·.best) with | some (_, _, t) => t | none => 0)
  let c := c.commit toks p r
  { c with forced := some (c.forced.getD c.written), nForced := c.nForced + 1 }

/-- An append, with its test and its forced commit (R451, R452). -/
def CaseSt.append (g : Img) (c : CaseSt) (b : List (Byte × Bool)) : CaseSt :=
  let c := { c with n := c.n ++ b }
  let c := if 512 ≤ (c.n.length : Int) - c.t then c.test g else c
  if 4096 < c.n.length then c.force g else c

/-- Consume code points and invalid bytes while R456 admits them: the state, the bytes left, and whether capacity
stopped it. -/
def consume (g : Img) (cap : Nat) : Nat → CaseSt → List Byte → CaseSt × List Byte × Bool
  | 0, c, l => (c, l, false)
  | f + 1, c, l =>
    let go (raw : List Byte) (valid : Bool) : CaseSt × List Byte × Bool :=
      let (b, r) := normalize g c.r raw valid
      if c.written + c.n.length + b.length + 45 ≤ cap then
        consume g cap f ({ c with r := r }.append g b) (l.drop raw.length)
      else ({ c with r := r }, l, true)
    match decodeUtf l with
    | .done => (c, [], false)
    | .open_ => (c, l, false)
    | .char k => go (l.take k) true
    | .invalid => go (l.take 1) false

/-- FINAL (R445, R453): the carry byte by byte, then the whole best path. -/
def CaseSt.finish (g : Img) (c : CaseSt) (carry : List Byte) : CaseSt :=
  let c := carry.foldl (fun c b =>
    let (x, r) := normalize g c.r [b] false
    { c with r := r }.append g x) c
  let (l, r) := c.lat g
  { c.commit (pathToks l c.n.length) c.n.length r with t := 0 }

/-! ### Contexts (R443, R458) -/

/-- Read the two copies of a context: each with its SEQ, or none where it is not valid (R443, R459). -/
def ctxCopy (s : State) (pages : List Nat) (n : Nat) (k : Nat) : Option (List Byte) × Acc :=
  let pa := objPa pages (16384 * n + 8192 * k)
  let d := devRead s pa 8192
  let b := pbBytes d
  (if !pbBad d && crc32c (b.drop 8) = BitVec.ofNat 32 (leAt b 4 4) then some b else none, ⟨pa, 8192⟩)

/-- Which copy is current: the valid one of higher SEQ modulo 2^32. -/
def ctxCurrent (a b : Option (List Byte)) : Option (Nat × List Byte) :=
  match a, b with
  | some x, some y => if (leAt y 0 4 + 2 ^ 32 - leAt x 0 4) % 2 ^ 32 ∈ List.range' 1 (2 ^ 31 - 1) then some (1, y) else some (0, x)
  | some x, none => some (0, x)
  | none, some y => some (1, y)
  | none, none => none

/-- N from C, and the carry, of a copy (Table 16.7). -/
def ctxN (b : List Byte) : List (Byte × Bool) :=
  (List.range (leAt b 8 4 % 2 ^ 13)).map (fun k => (b.getD (0x240 + k) 0, (b.getD (0x40 + k / 8) 0).getLsbD (k % 8)))
def ctxCarry (b : List Byte) : List Byte := slice b 0x0C (leAt b 8 4 / 2 ^ 13 % 4)
def ctxT (b : List Byte) : Nat := leAt b 0x10 4 % 2 ^ 13

/-- The bytes of a copy. -/
def ctxBytes (seq : Nat) (n : List (Byte × Bool)) (t : Nat) (carry : List Byte) : List Byte :=
  let starts := (List.range 512).map (fun j =>
    BitVec.ofNat 8 (((List.range 8).map (fun i => if (n.getD (8 * j + i) (0, false)).2 then 2 ^ i else 0)).sum))
  let body := leBytes 4 (n.length + 2 ^ 13 * carry.length) ++ slice carry 0 4 ++ leBytes 4 t ++
    List.replicate 44 0 ++ starts ++ slice (n.map (·.1)) 0 4096 ++ List.replicate (0x2000 - 0x1240) 0
  leBytes 4 seq ++ leBytes 4 (crc32c body).toNat ++ body

/-- An empty context as PROFILE_LOAD leaves it: copy A with SEQ 1, copy B zero (R443). -/
def ctxEmpty : List Byte := ctxBytes 1 [] 0 [] ++ List.replicate 8192 0

/-! ### TOKENIZE -/

/-- What a TOKENIZE run gives: the engine's state, the bytes of an unfinished character that are kept, and how many
bytes of the input are used. -/
structure CaseOut where
  st : CaseSt
  keep : List Byte
  used : Nat

/-- The context a TOKENIZE starts from: the current copy, or a fresh one where it resets or none is current. -/
def caseOld (cur : Option (Nat × List Byte)) (reset : Bool) : List Byte :=
  let old := match cur with | some x => x.2 | none => ctxBytes 0 [] 0 []
  if reset then ctxBytes (leAt old 0 4) [] 0 [] else old

/-- Run the input of a TOKENIZE from a context (R456 to R461). -/
def caseEval (s : State) (t : TaskRun) (p : TextImg) (old : List Byte) (input : List PB) : CaseOut :=
  let w := t.u32 8
  let len := t.u32 0x0C % 2 ^ 25
  let (g, r) := openImg s p.pages
  let str := ctxCarry old ++ pbBytes input
  let st : CaseSt := ⟨ctxN old, ctxT old, [], 0, none, 0, r⟩
  let (st, rest, full) := consume g (t.u32 0x20 % 2 ^ 25) (str.length + 1) st str
  let st := if full then st else st.test g
  let st := if !full && bitOf w 17 then st.finish g rest else st
  ⟨st, if full then (if len < rest.length then rest.take (rest.length - len) else [])
    else if bitOf w 17 then [] else rest, if full then len - min len rest.length else len⟩

/-- The bytes that a TOKENIZE run writes. -/
def CaseOut.bytes (o : CaseOut) : List Byte := o.st.out.reverse.flatMap (leBytes 4)

/-- The context a TOKENIZE run leaves. -/
def CaseOut.ctx (o : CaseOut) (old : List Byte) : List Byte :=
  ctxBytes ((leAt old 0 4 + 1) % 2 ^ 32) o.st.n (if 0 ≤ o.st.t then o.st.t.toNat else 0) o.keep

/-- The record of a TOKENIZE run. -/
def CaseOut.record (o : CaseOut) : Rec :=
  let coord := o.used + 2 ^ 32 * o.st.n.length + 2 ^ 46 * o.keep.length
  match o.st.forced with
  | none => Rec.ok 1 o.st.written coord
  | some pos => { Rec.ok 1 o.st.written coord with status := 1, forced := true, position := pos }

/-- What a TOKENIZE task does next. -/
def tokenizePlan (s : State) (i : Nat) (t : TaskRun) : Plan :=
  let w := t.u32 8
  let c := taskCtx s i t
  let f := c.fn
  let n := w / 256 % 64
  match imgFor s.profiles (w % 16) c.part with
  | none => planAbort i 0x11 1
  | some p =>
    match inputRead c (t.u64 0x10) (t.u32 0x0C % 2 ^ 25) 1 with
    | .need l => .need l
    | .stop e tr => planStop i e tr
    | .ok input tr =>
      let (ca, aa) := ctxCopy s p.ctxPages n 0
      let (cb, ab) := ctxCopy s p.ctxPages n 1
      let cur := ctxCurrent ca cb
      let reset := bitOf w 16
      let old := caseOld cur reset
      let o := caseEval s t p old input
      match outputWrite c (t.u64 0x18) o.bytes 4 with
      | .need l => .need l
      | x =>
        .fin true (tr ++ [aa, ab] ++ o.st.r.tr.reverse) (fun t s =>
        let s := cntAdd (cntAdd s (rk2 0x90100) o.st.r.hit) (rk2 0x90108) o.st.r.miss
        if cur.isNone && !reset then endTask s i t (Rec.abort 0x13 6 0 0 0)
        else if pbBad input || o.st.r.bad then endPoisoned s i t
        else match x with
        | .stop e _ => endStop s i t e
        | .need _ => s
        | .ok ws _ =>
          let s := doWrites s f ws
          let slot := match cur with | some (k, _) => 1 - k | none => 0
          let s := memWrite s (objPa p.ctxPages (16384 * n + 8192 * slot)) (o.ctx old) false
          let s := cntAdd (cntAdd (cntAdd s (rk f 0x3368) o.used) (rk f 0x3370) o.st.written) (rk f 0x3378) o.st.nForced
          let s := match o.st.forced with | some pos => postTask s i t 0x0605 2 pos 0 0 0 | none => s
          endTask s i t o.record)

/-- TOKENIZE. -/
def execTokenize (i : SId) (s : State) : Host.Outcome State Fault Refusal :=
  .next (textRun s i.val 5 tokenizePlan)

end Sys2Proof.Machine
end

