-- ==== Sys2Proof/Machine/Proof.lean ====
section
/-! DEFINITION. The Proof units: DETOKENIZE and the frisket (chapter 17, R465 to R473). -/

namespace Sys2Proof.Machine

/-- A unit of decoded text: a character's bytes, or an invalid byte (R469). -/
structure TUnit where
  raw : List Byte
  valid : Bool
deriving DecidableEq, Repr

/-- The units of a byte string: the whole ones, and the prefix at its end. -/
def textUnits : Nat → List Byte → List TUnit × List Byte
  | 0, l => ([], l)
  | n + 1, l =>
    match decodeUtf l with
    | .done => ([], [])
    | .open_ => ([], l)
    | .char k => let (u, p) := textUnits n (l.drop k); (⟨l.take k, true⟩ :: u, p)
    | .invalid => let (u, p) := textUnits n (l.drop 1); (⟨l.take 1, false⟩ :: u, p)
def unitsOfBytes (l : List Byte) : List TUnit × List Byte := textUnits (l.length + 1) l

/-- The two ASCII digits of a byte in uppercase hexadecimal. -/
def hexDigit (n : Nat) : Byte := BitVec.ofNat 8 (if n < 10 then 0x30 + n else 0x37 + n)

/-- What an emitted unit writes (R470). -/
def unitOut (g : Img) (r : Rd) (u : TUnit) : List Byte × Rd :=
  if u.valid then (u.raw, r)
  else
    let b := leNat u.raw
    let (e, r) := normEntry g r (0x110000 + b)
    match e % 4 with
    | 0 => ([0x5C, 0x78, hexDigit (b / 16), hexDigit (b % 16)], r)
    | 2 => poolStr g r e
    | _ => ([], r)

/-- The frisket's state in a task: the units of HELD, ASM, the text written, the stop that matched, and the reads. -/
structure ProofSt where
  held : List TUnit
  asm : List Byte
  out : List Byte
  stop : Option Nat
  r : Rd

/-- The bytes of HELD. -/
def ProofSt.bytes (p : ProofSt) : List Byte := p.held.flatMap (·.raw)

/-- Emit the units of the first n bytes of HELD. -/
def emitUnits (g : Img) : Nat → List TUnit → ProofSt → List TUnit × ProofSt
  | _, [], p => ([], p)
  | n, u :: t, p =>
    if n < u.raw.length then (u :: t, p)
    else
      let (b, r) := unitOut g p.r u
      emitUnits g (n - u.raw.length) t { p with out := p.out ++ b, r := r }
def ProofSt.emit (g : Img) (p : ProofSt) (n : Nat) : ProofSt :=
  let (rest, q) := emitUnits g n p.held p
  { q with held := rest }

/-- Whether a is a suffix of l. -/
def isSuffix (a l : List Byte) : Bool := a.length ≤ l.length && l.drop (l.length - a.length) == a

/-- The stop string that HELD ends with: the earliest start, then the lowest index (R469). -/
def matching (stops : List (List Byte)) (l : List Byte) : Option (Nat × Nat) :=
  stops.zipIdx.foldl (fun m (s, i) =>
    if isSuffix s l then
      match m with
      | some (_, n) => if n < s.length then some (i, s.length) else m
      | none => some (i, s.length)
    else m) none

/-- A unit is appended to HELD. -/
def ProofSt.push (g : Img) (stops : List (List Byte)) (p : ProofSt) (u : TUnit) : ProofSt :=
  if p.stop.isSome then p
  else
    let p := { p with held := p.held ++ [u] }
    match matching stops p.bytes with
    | some (i, n) => { p.emit g (p.bytes.length - n) with held := [], asm := [], stop := some i }
    | none => p

/-- Whether bytes are a proper prefix of some stop string. -/
def isStopPrefix (stops : List (List Byte)) (l : List Byte) : Bool :=
  stops.any (fun s => decide (l.length < s.length) && s.take l.length == l)

/-- The longest suffix of HELD, of at most n bytes, that is a proper prefix of some stop string. -/
def holdBack (stops : List (List Byte)) (l : List Byte) : Nat → Nat
  | 0 => 0
  | n + 1 => if n + 1 ≤ l.length && isStopPrefix stops (l.drop (l.length - (n + 1))) then n + 1 else holdBack stops l n

/-- The end-of-token step (R469). -/
def ProofSt.endToken (g : Img) (stops : List (List Byte)) (p : ProofSt) : ProofSt :=
  if p.stop.isSome then p
  else p.emit g (p.bytes.length - holdBack stops p.bytes 63)

/-- How the token loop ended: tokens consumed, whether capacity stopped it, the position of an ID at or above VOCAB. -/
structure ProofEnd where
  p : ProofSt
  used : Nat
  full : Bool
  fault : Option Nat

/-- Consume tokens in order (R469, R472): each with its mark. -/
def consumeToks (g : Img) (stops : List (List Byte)) (cap : Nat) : List (Nat × Bool) → Nat → ProofSt → ProofEnd
  | [], k, p => ⟨p, k, false, none⟩
  | (tok, bad) :: t, k, p =>
    if p.stop.isSome then ⟨p, k, false, none⟩
    else if bad then ⟨{ p with r := { p.r with bad := true } }, k, false, none⟩
    else if g.h 0x0C ≤ tok then ⟨p, k, false, some k⟩
    else
      let (ent, r) := g.nat p.r (g.h 0x44 + 8 * tok) 8
      let n := ent / 2 ^ 32 % 256
      if cap < p.out.length + 15 * (p.asm.length + p.bytes.length + n) then ⟨{ p with r := r }, k, true, none⟩
      else
        let (str, r) := g.bytes r (g.h 0x48 + ent % 2 ^ 32) n
        let (us, rest) := unitsOfBytes (p.asm ++ str)
        let p := us.foldl (ProofSt.push g stops) { p with asm := rest, r := r }
        consumeToks g stops cap t (k + 1) (p.endToken g stops)

/-- FINAL (R471). -/
def ProofSt.finish (g : Img) (stops : List (List Byte)) (p : ProofSt) : ProofSt :=
  let p := p.asm.foldl (fun p b => p.push g stops ⟨[b], false⟩) { p with asm := [] }
  p.emit g p.bytes.length

/-- The token IDs a descriptor names, with their marks: inline, or walk 0. -/
def tokenInput (c : Ctx) (t : TaskRun) (inline : Bool) (n a : Nat) : Ev (List (Nat × Bool)) :=
  if inline then .pure ((List.range n).map (fun k => (t.u32 (0x28 + 4 * k), false)))
  else (inputRead c a (4 * n) 4).bind (fun l => .pure ((chunks 4 l).map (fun x => (leNat (pbBytes x), pbBad x))))

/-- What a DETOKENIZE run gives: the engine's state, the tokens used, whether the output is full, a token that faults,
whether it finishes, and whether the text had stopped before. -/
structure ProofOut where
  p : ProofSt
  used : Nat
  full : Bool
  fault : Option Nat
  fin : Bool
  was : Bool

/-- Run the tokens of a DETOKENIZE from the stream's text state (R469 to R473). -/
def proofEval (s : State) (x : TextSt) (t : TaskRun) (im : TextImg) (toks : List (Nat × Bool)) : ProofOut :=
  let w := t.u32 8
  let (g, r) := openImg s im.pages
  let reset := bitOf w 16
  let was := !reset && x.stopped
  let p : ProofSt := ⟨[], if reset then [] else x.asm, [], if was then some x.stopIdx else none, r⟩
  let held := unitsOfBytes (if reset then [] else x.held)
  let p := (held.1 ++ held.2.map (fun b => TUnit.mk [b] false)).foldl (ProofSt.push g x.stopsNow) p
  let e := consumeToks g x.stopsNow (t.u32 0x20 % 2 ^ 25) toks 0 (p.endToken g x.stopsNow)
  let fin := bitOf w 17 && !e.full
  ⟨if fin then e.p.finish g x.stopsNow else e.p, e.used, e.full, e.fault, fin, was⟩

/-- The text state that a DETOKENIZE run leaves. -/
def ProofOut.text (o : ProofOut) (x : TextSt) : TextSt :=
  { x with
    asm := if o.fin then [] else o.p.asm, held := if o.fin then [] else o.p.bytes
    stopped := o.p.stop.isSome && !o.fin, stopIdx := if o.fin then 0 else o.p.stop.getD 0, proofBad := false }

/-- The record of a DETOKENIZE run. -/
def ProofOut.record (o : ProofOut) : Rec :=
  let held := if o.fin then [] else o.p.bytes
  let asm := if o.fin then [] else o.p.asm
  Rec.ok 1 o.p.out.length (o.used + 2 ^ 32 * b2n o.p.stop.isSome + 2 ^ 36 * o.p.stop.getD 0 + 2 ^ 40 * held.length +
    2 ^ 48 * asm.length)

/-- What a DETOKENIZE task does next. -/
def detokenizePlan (s : State) (i : Nat) (t : TaskRun) : Plan :=
  let w := t.u32 8
  let c := taskCtx s i t
  let f := c.fn
  let x := (stream s i).text
  match imgFor s.profiles (w % 16) c.part with
  | none => planAbort i 0x11 1
  | some im =>
    match tokenInput c t (bitOf w 18) (t.u32 0x0C % 2 ^ 25) (t.u64 0x10) with
    | .need l => .need l
    | .stop e tr => planStop i e tr
    | .ok toks tr =>
      let o := proofEval s x t im toks
      match outputWrite c (t.u64 0x18) o.p.out 1 with
      | .need l => .need l
      | y =>
        .fin true (tr ++ o.p.r.tr.reverse) (fun t s =>
        if x.proofBad && !bitOf w 16 then endTask s i t (Rec.abort 0x13 6 0 0 0)
        else match o.fault with
        | some k => endTask s i t (Rec.abort 0x12 0 0 k 0)
        | none =>
          if toks.any (·.2) || o.p.r.bad then endPoisoned s i t
          else match y with
          | .stop e _ => endStop s i t e
          | .need _ => s
          | .ok ws _ =>
            let s := doWrites s f ws
            let s := cntAdd (cntAdd (cntAdd s (rk f 0x3388) o.used) (rk f 0x3390) o.p.out.length) (rk f 0x3398)
              (b2n (o.p.stop.isSome && !o.was))
            let st := stream s i
            endTask (setStream s i { st with text := o.text st.text }) i t o.record)

/-- DETOKENIZE. -/
def execDetokenize (i : SId) (s : State) : Host.Outcome State Fault Refusal :=
  .next (textRun s i.val 6 detokenizePlan)

end Sys2Proof.Machine
end

