-- ==== Sys2Proof/Machine/Forme.lean ====
section
/-! DEFINITION. The Forme units: FORME_MASK over a grammar image (chapter 17, R475 to R479). -/

namespace Sys2Proof.Machine

/-- A rule (Table 17.5). -/
structure GRule where
  first : Nat
  last : Nat
  guard : Nat
  op : Nat
  next : Nat
  arg : Nat
deriving DecidableEq, Repr

def GRule.ofNat (v : Nat) : GRule :=
  { first := v % 2 ^ 20, guard := v / 2 ^ 20 % 4, op := v / 2 ^ 22 % 4, last := v / 2 ^ 32 % 2 ^ 20
    next := v / 2 ^ 64 % 2 ^ 24, arg := v / 2 ^ 96 % 2 ^ 24 }

/-- A configuration: the state and the stack, top first. -/
structure GConf where
  q : Nat
  stack : List Nat
deriving DecidableEq, Repr

/-- Whether a rule's guard holds (17.4). -/
def GConf.guard (c : GConf) (r : GRule) : Bool :=
  match r.guard with
  | 0 => true
  | 1 => c.stack.head? == some r.arg
  | 2 => c.stack.isEmpty
  | _ => !c.stack.isEmpty

/-- A CALL at full depth (R476). -/
def GConf.overflows (c : GConf) (r : GRule) : Bool := r.op == 1 && c.stack.length == 64

/-- The operation of a rule. -/
def GConf.apply (c : GConf) (r : GRule) : GConf :=
  match r.op with
  | 0 => ⟨r.next, c.stack⟩
  | 1 => ⟨r.next, r.arg :: c.stack⟩
  | _ => ⟨c.stack.headD 0, c.stack.tail⟩

/-- The rules of a state, in index order. -/
def stateRules (g : Img) (r : Rd) (q : Nat) : List GRule × Rd :=
  let (e, r) := g.nat r (g.h 0x18 + 8 * q) 8
  (List.range (e / 2 ^ 32 % 2 ^ 16)).foldl (fun (x : List GRule × Rd) k =>
    let (v, r) := g.nat x.2 (g.h 0x20 + 16 * (e % 2 ^ 32 + k)) 16
    (x.1 ++ [GRule.ofNat v], r)) ([], r)

/-- Whether a rule covers a token and its guard holds. -/
def GConf.fires (c : GConf) (t : Nat) (r : GRule) : Bool := decide (r.first ≤ t) && decide (t ≤ r.last) && c.guard r

/-- The rule that decides a token (R476). -/
def decides (c : GConf) (rules : List GRule) (t : Nat) : Option GRule := rules.find? (c.fires t)

/-- How the advance ended. -/
inductive AdvEnd where
  | done
  | rejected
  | fault
  | overflow
  | poison
deriving DecidableEq, Repr

/-- Apply tokens in order (R477): the configuration, tokens applied, rules examined, and how it ended. -/
def advance (g : Img) : List (Nat × Bool) → GConf → Nat → Nat → Rd → GConf × Nat × Nat × AdvEnd × Rd
  | [], c, k, n, r => (c, k, n, .done, r)
  | (t, bad) :: l, c, k, n, r =>
    if bad then (c, k, n, .poison, r)
    else if g.h 0x0C ≤ t then (c, k, n, .fault, r)
    else
      let (rules, r) := stateRules g r c.q
      let n := n + match rules.findIdx? (c.fires t) with | some j => j + 1 | none => rules.length
      match decides c rules t with
      | none => (c, k, n, .rejected, r)
      | some x => if c.overflows x then (c, k, n, .overflow, r) else advance g l (c.apply x) (k + 1) n r

/-- The parts of a set of runs inside [a, b], and outside. -/
def cutRuns (a b : Nat) : List (Nat × Nat) → List (Nat × Nat) × List (Nat × Nat)
  | [] => ([], [])
  | (x, y) :: t =>
    let (i, o) := cutRuns a b t
    let lo := max a x; let hi := min b y
    if lo ≤ hi then
      ((lo, hi) :: i, (if x < lo then [(x, lo - 1)] else []) ++ (if hi < y then [(hi + 1, y)] else []) ++ o)
    else (i, (x, y) :: o)

/-- The runs of tokens that a configuration allows, unordered: each rule decides those of its range that no earlier
rule decided. -/
def allowedRuns (c : GConf) : List GRule → List (Nat × Nat) → List (Nat × Nat)
  | [], _ => []
  | r :: t, free =>
    if c.guard r then
      let (i, o) := cutRuns r.first r.last free
      (if c.overflows r then [] else i) ++ allowedRuns c t o
    else allowedRuns c t free

/-- Insert a run by its first token. -/
def insRun (x : Nat × Nat) : List (Nat × Nat) → List (Nat × Nat)
  | [] => [x]
  | y :: t => if x.1 ≤ y.1 then x :: y :: t else y :: insRun x t

/-- Join runs that touch. -/
def joinRuns : List (Nat × Nat) → List (Nat × Nat)
  | [] => []
  | (a, b) :: t =>
    match joinRuns t with
    | (x, y) :: t' => if b + 1 = x then (a, y) :: t' else (a, b) :: (x, y) :: t'
    | [] => [(a, b)]

/-- The maximal runs of the mask, ascending (R478). -/
def maskRuns (c : GConf) (rules : List GRule) (vocab : Nat) : List (Nat × Nat) :=
  joinRuns ((allowedRuns c rules (if vocab = 0 then [] else [(0, vocab - 1)])).foldl (fun l x => insRun x l) [])

/-- The bitmap size (R478). -/
def maskSize (vocab : Nat) : Nat := 64 * cdiv vocab 512

/-- The bitmap. -/
def maskBits (vocab : Nat) (runs : List (Nat × Nat)) : List Byte :=
  (List.range (maskSize vocab)).map (fun j => BitVec.ofNat 8 ((List.range 8).map (fun i =>
    if runs.any (fun (a, b) => a ≤ 8 * j + i && 8 * j + i ≤ b) then 2 ^ i else 0)).sum)

/-- The run list. -/
def maskList (runs : List (Nat × Nat)) : List Byte := runs.flatMap (fun (a, b) => leBytes 4 a ++ leBytes 4 b)

/-- What a FORME_MASK run gives: the configuration reached, the tokens taken, the rules counted, how it ended, the reader,
and the mask with whether it is a list. -/
structure FormeOut where
  conf : GConf
  k : Nat
  n : Nat
  how : AdvEnd
  r : Rd
  runs : List (Nat × Nat)
  list : Bool
  mask : List Byte

/-- Advance the configuration by the tokens of a FORME_MASK and form its mask (R476 to R480). -/
def formeEval (s : State) (x : TextSt) (t : TaskRun) (im : TextImg) (toks : List (Nat × Bool)) : FormeOut :=
  let w := t.u32 8
  let (g, r) := openImg s im.pages
  let conf : GConf := if bitOf w 8 then ⟨g.h 0x14, []⟩ else ⟨x.q, x.stack⟩
  let (conf, k, n, how, r) := advance g toks conf 0 0 r
  let (rules, r) := stateRules g r conf.q
  let vocab := g.h 0x0C
  let runs := maskRuns conf rules vocab
  let list := bitOf w 10 && decide (8 * runs.length ≤ t.u32 0x20 % 2 ^ 25)
  let mask := if bitOf w 9 then [] else if list then maskList runs else maskBits vocab runs
  ⟨conf, k, n + (if bitOf w 9 then 0 else rules.length), how, r, runs, list && !bitOf w 9, mask⟩

/-- The text state that a FORME_MASK run with a grammar leaves. -/
def FormeOut.text (o : FormeOut) (grammar : Nat) (x : TextSt) : TextSt :=
  { x with grammar := some grammar, q := o.conf.q, stack := o.conf.stack, formeBad := false }

/-- The record of a FORME_MASK run. -/
def FormeOut.record (o : FormeOut) : Rec :=
  let coord := o.k + 2 ^ 17 * b2n (o.how == .rejected) + 2 ^ 24 * o.conf.stack.length + 2 ^ 31 * b2n o.list +
    2 ^ 32 * o.conf.q
  { Rec.ok 1 (o.runs.map (fun (a, b) => b + 1 - a)).sum coord with position := o.mask.length }

/-- What a FORME_MASK task does next. -/
def formePlan (s : State) (i : Nat) (t : TaskRun) : Plan :=
  let w := t.u32 8
  let c := taskCtx s i t
  let f := c.fn
  let x := (stream s i).text
  match imgFor s.grammars (w % 32) c.part with
  | none => planAbort i 0x11 1
  | some im =>
    match tokenInput c t (bitOf w 11) (t.u32 0x0C % 2 ^ 17) (t.u64 0x10) with
    | .need l => .need l
    | .stop e tr => planStop i e tr
    | .ok toks tr =>
      let o := formeEval s x t im toks
      match outputWrite c (t.u64 0x18) o.mask 1 with
      | .need l => .need l
      | y =>
        .fin true (tr ++ o.r.tr.reverse) (fun t s =>
        let s := cntAdd s (rk2 0x90500) o.n
        if x.formeBad && !bitOf w 8 then endTask s i t (Rec.abort 0x13 6 0 0 0)
        else if o.how = .fault then endTask s i t (Rec.abort 0x12 0 0 o.k 0)
        else if o.how = .overflow then endTask (cntAdd s (rk f 0x33B8) 1) i t (Rec.abort 0x17 0 0 o.k 0)
        else if toks.any (·.2) || o.r.bad then endPoisoned s i t
        else match y with
        | .stop e _ => endStop s i t e
        | .need _ => s
        | .ok ws _ =>
          let s := doWrites s f ws
          let s := cntAdd (cntAdd s (rk f 0x33A8) o.k) (rk f 0x33B0) (b2n (o.how == .rejected))
          let st := stream s i
          endTask (setStream s i { st with text := o.text (w % 32) st.text }) i t o.record)

/-- FORME_MASK. -/
def execFormeMask (i : SId) (s : State) : Host.Outcome State Fault Refusal :=
  .next (textRun s i.val 7 formePlan)

end Sys2Proof.Machine
end

