-- ==== Sys2Proof/Machine/Tables.lean ====
section
/-! DEFINITION. Tables (8.1 to 8.5, 8.7): TABLE_CREATE, TABLE_LOAD, TABLE_REGISTER_GOLDEN, TABLE_DESTROY, TABLE_QUERY,
TABLE_MAP_SHARED and TABLE_REQUANTIZE, the pages that tables and other objects take (R170, R243, R244), and what a
load or a requantize that does not end DONE leaves (R240, R250). -/

namespace Sys2Proof.Machine

/-! ### Objects by name -/

/-- The table a function reaches in a command (R109, R178, R181): a VF its own tables and those mapped into its
partition, PF0 every table (log entry 25). -/
def reachTable (s : State) (f h : Nat) : Option Table :=
  match lk s.tables h with
  | some t => if f = 0 || reaches t (partOfFn f) then some t else none
  | none => none

/-- A shared table named from a VF by a command that would change it (R178). -/
def foreign (f : Nat) (t : Table) : Bool := f != 0 && t.owner != partOfFn f

/-- Go on with a table that exists, that the function may change, and that no RUNNING operation holds (R109, R114,
R178). -/
def withTable (s : State) (f h : Nat) (k : Table → MOut) : MOut :=
  match reachTable s f h with
  | none => .fail 0x18 0
  | some t =>
    if foreign f t then .fail 0x14 1
    else
      match tableHolder s h with
      | some o => .held o
      | none => k t

/-! ### Shards on this device -/

/-- The shards a device holds: the one it owns, then those it replicates (Table 8.4). -/
def Table.holds (t : Table) (d : Nat) : List (Nat × Bool) :=
  (((List.range t.nshard).filter (fun i => (t.shardEnt i).device == d)).map (fun i => (i, false))) ++
  (((List.range t.nshard).filter (fun i => (t.shardEnt i).replicaValid && (t.shardEnt i).replica == d)).map (fun i => (i, true)))

/-- Rows of a shard that exist: under row hash the last block may leave a shard without one (R236). -/
def Table.heldRows (t : Table) (i : Nat) : Nat :=
  let n := t.shardRows i
  if n = 0 then 0 else if (t.globalRow i (n - 1)).isSome then n else n - 1

/-- Storage pages of a shard (R243). -/
def Table.storePages (t : Table) (i : Nat) : Nat := cdiv (t.shardRows i) (max t.rowsPerPage 1)

/-- Where the rows of a range lie in the stores of this device, in ascending row order: row, store, local index. -/
def rowsHere (t : Table) (first count : Nat) : List (Nat × Store × Nat) :=
  (List.range count).flatMap (fun k =>
    let r := first + k
    let (i, l) := t.place r
    (t.stores.filter (fun x => x.shard == i)).map (fun x => (r, x, l)))

/-! ### Pages (R170, R177, R244) -/

/-- Pages of an owner's objects. -/
def objectPages (s : State) (p : Nat) : Nat := (s.pages.filter (fun e => e.2 == .object p)).length

/-- Partitions that hold a reservation. -/
def livingParts (s : State) : List (Nat × Part) := s.parts.filter (fun e => e.2.st != .absent)

/-- The pages available to an owner (R244). -/
def availPages (s : State) (p : Nat) : Nat :=
  if p < 32 then min ((part s p).q.memPages - (part s p).q.bufPages - objectPages s p) (freeCount s)
  else freeCount s - ((livingParts s).map (fun (n, x) => x.q.memPages - x.q.bufPages - objectPages s n)).sum

/-- The tables pool an owner may fill (R170, R224). -/
def tableLimit (s : State) (p : Nat) : Nat :=
  if p < 32 then (part s p).q.maxTables else 4096 - ((livingParts s).map (fun e => e.2.q.maxTables)).sum
def tablesOwned (s : State) (p : Nat) : Nat := (s.tables.filter (fun e => e.2.owner == p)).length

/-! ### TABLE_CREATE (R224 to R228, R235 to R237) -/

/-- A shard entry (Table 8.2). -/
def parseShard (b : List Byte) (i : Nat) : ShardEnt :=
  let v := leAt b (0x20 + 8 * i) 8
  ⟨v / 2 ^ 40 % 64, bitOf v 52, v / 2 ^ 46 % 64, v % 2 ^ 40⟩

/-- The table that a TABLE_CREATE request describes. -/
def parseTable (b : List Byte) : Table :=
  let w := leAt b 0x0C 4
  let x := leAt b 0x14 4
  { handle := leAt b 8 4, dim16m1 := w % 256, code := bits w 8 8, policy := bits w 9 9, train := bits w 11 10
    shardMode := bits w 12 12, rows := leAt b 0x10 5, frac := bits x 12 8, ledgerLog2 := bits x 20 16
    rowfmt := bits x 31 24, epoch := leAt b 0x18 4, shards := (List.range (bits w 22 16)).map (parseShard b)
    placed := false, stores := [], ledger := [], foldCount := 0, clamped := 0, incomplete := none, mapped := []
    golden := none, used := 0, gateClosed := false, pend := none, fold := none, claims := [], mask := 0, olds := [] }

/-- Whether shard entry i breaks R235, R236, R237 or the distinctness of owners. -/
def shardBad (t : Table) (i : Nat) : Bool :=
  let e := t.shardEnt i
  (if t.shardMode = 0 then
     (if i = 0 then e.start != 0 else decide (e.start ≤ (t.shardEnt (i - 1)).start)) || decide (t.rows ≤ e.start)
   else e.start != 0) ||
  (List.range i).any (fun j => (t.shardEnt j).device == e.device) ||
  (e.replicaValid && (e.replica == e.device || t.train != 0))

/-- Whether a table names a device other than this one (R225). -/
def Table.remote (s : State) (t : Table) : Bool :=
  decide (1 < t.nshard) || t.shards.any (fun e => e.device != me s || (e.replicaValid && e.replica != me s))

/-- TABLE_CREATE. -/
def tableCreate (s : State) (f : Nat) (b : List Byte) : MOut :=
  let t := parseTable b
  let ranged (lo hi v : Nat) : Bool := if t.train = 0 then v != 0 else decide (v < lo) || decide (hi < v)
  checked
    [rangeBad ([(0x08, t.owner != partOfFn f), (0x0D, t.train == 3), (0x0E, t.nshard == 0 || decide (64 < t.nshard)),
        (0x10, t.rows == 0), (0x15, ranged 8 24 t.frac), (0x16, ranged 10 24 t.ledgerLog2), (0x17, t.rowfmt != 1)] ++
        (List.range (min t.nshard 64)).map (fun i => (0x20 + 8 * i, shardBad t i))),
     (t.code == 1 && !capOn s f 1, 0x15, 1), (t.train == 2 && !capOn s f 2, 0x15, 2),
     (t.remote s && !capOn s f 7, 0x15, 7),
     (has s.tables t.handle, 0x19, 3),
     (decide (tableLimit s t.owner ≤ tablesOwned s t.owner), 0x16, 4)]
    (.ok [] (setTable s t) true)

def execTableCreate (f : Fn) (s : State) : Host.Outcome State Fault Refusal := .next (runShort s f.val 0x300 tableCreate)

/-! ### Sources (R238, R241) -/

/-- Bytes of a source row. -/
def srcSize (t : Table) (fmt : Nat) : Nat := if fmt = 0 then t.rowBytes else t.d * (if fmt = 1 then 4 else 2)

/-- An element of SRC_FMT 1 FP32, 2 FP16 or 3 BF16. -/
def srcVal (fmt : Nat) (b : List Byte) : W32 := inVal (if fmt = 1 then 0 else if fmt = 2 then 2 else 1) b

/-- The row that a source row is stored as, and the values clamped; none for a value that is not finite (R238, R240). -/
def convertRow (t : Table) (fmt : Nat) (b : List Byte) : Option (List Byte × Nat) :=
  if fmt = 0 then
    (if fIsFinite (rowScale b) && fIsFinite (rowOffset b) then
      some (slice (b.take (4 + t.ext + if t.code = 1 then t.d / 2 else t.d)) 0 t.rowBytes, 0) else none)
  else
    let w := if fmt = 1 then 4 else 2
    let v := (List.range t.d).map (fun k => srcVal fmt (slice b (w * k) w))
    if v.all fIsFinite then some (quantize t.code (List.replicate t.ext 0) v) else none

/-- The range checks of a source: FIRST + COUNT at FIRST, the lower field (R238, R560; log entry 25). -/
def srcRange (s : State) (f : Nat) (b : List Byte) : List (Nat × Bool) :=
  let fmt := leAt b 0x0C 1 % 4
  let n := leAt b 0x18 4
  let str := leAt b 0x1C 4
  let src := leAt b 0x20 8
  let t := reachTable s f (leAt b 8 4)
  [(0x10, match t with | some t => decide (t.rows < leAt b 0x10 5 + n) | none => false),
   (0x1C, str % 4 != 0 || (match t with | some t => n != 0 && decide (str < srcSize t fmt) | none => false)),
   (0x20, badAddr src 1)]

/-- TABLE_REGISTER_GOLDEN (R241): only from the function of the table's OWNER. -/
def tableGolden (s : State) (f : Nat) (b : List Byte) : MOut :=
  checked [rangeBad (srcRange s f b)]
    (match reachTable s f (leAt b 8 4) with
     | none => .fail 0x18 0
     | some t =>
       if t.owner ≠ partOfFn f then .fail 0x14 1
       else
         match tableHolder s t.handle with
         | some o => .held o
         | none =>
           let n := leAt b 0x18 4
           let g := if n = 0 then none else some (Golden.mk f (leAt b 0x10 5) n (leAt b 0x20 8) (leAt b 0x1C 4) (leAt b 0x0C 1 % 4))
           .ok [] (setTable s { t with golden := g }) true)

def execTableRegisterGolden (f : Fn) (s : State) : Host.Outcome State Fault Refusal :=
  .next (runShort s f.val 0x305 tableGolden)

/-! ### Writing rows -/

/-- Write bytes at the slot of local row l of a store: a spilled one over PCIe as the owner's function (R248). -/
def slotWrite (c : Ctx) (t : Table) (x : Store) (l : Nat) (b : List Byte) : Ev (List OutW) :=
  match slotAt t x l with
  | none => .pure []
  | some (.dev p, o) => .pure [.dev (p * 65536 + o) b false]
  | some (.host f a, o) => hostWrite { c with fn := f } (a + o) b false

/-- The function whose requester ID the writes of a slot carry. -/
def slotFn (t : Table) (x : Store) (l : Nat) : Nat := match slotAt t x l with | some (.host f _, _) => f | _ => 0

/-- The rows of a TABLE_LOAD from number k on: each is read, converted and written, until one waits or fails (R238,
R240). The pair is the rows done and how it stands: 0 all done, 1 waiting, 2 failed. -/
def loadRows (o : Op) (h : Nat) : List (Nat × Store × Nat) → Nat → State → Nat × Nat × List Need × State
  | [], k, s => (k, 0, [], s)
  | (r, x, l) :: rest, k, s =>
    match lk s.tables h with
    | none => (k, 2, [], s)
    | some t =>
      let b := o.req
      let fmt := leAt b 0x0C 1 % 4
      let src := addrAdd (leAt b 0x20 8) ((r - leAt b 0x10 5) * leAt b 0x1C 4)
      match readAt (opCtx s o) src (srcSize t fmt) with
      | .need q => (k, 1, q, s)
      | .stop _ _ => (k, 2, [], s)
      | .ok d tr =>
        let s := noteTrace s .task [] tr
        if pbBad d then (k, 2, [], s)
        else
          match convertRow t fmt (pbBytes d) with
          | none => (k, 2, [], s)
          | some (row, n) =>
            match slotWrite (opCtx s o) t x l row with
            | .need q => (k, 1, q, s)
            | .stop _ _ => (k, 2, [], s)
            | .ok w _ =>
              let s := doWrites s (slotFn t x l) w
              let s := { s with tables := adj s.tables h (fun t => { t with clamped := (t.clamped + n) % 2 ^ 64 }) }
              loadRows o h rest (k + 1) s

/-- The rows of a load's range that its device holds. -/
def loadList (s : State) (o : Op) : List (Nat × Store × Nat) :=
  match lk s.tables (leAt o.req 8 4) with
  | some t => rowsHere t (leAt o.req 0x10 5) (leAt o.req 0x18 4)
  | none => []

/-- What a load that does not end DONE leaves marked INCOMPLETE (R240). -/
def loadLeft (s : State) (o : Op) : State :=
  match (loadList s o)[o.unitsDone]? with
  | none => s
  | some (r, _, _) =>
    let last := leAt o.req 0x10 5 + leAt o.req 0x18 4 - 1
    { s with tables := adj s.tables (leAt o.req 8 4) (fun t =>
      let n : Nat × Nat := match t.incomplete with
        | some (a, z) => (min a r, max z last)
        | none => (r, last)
      { t with incomplete := some n }) }

/-- Work on a TABLE_LOAD. -/
def loadGo (s : State) (o : Op) : State :=
  let h := leAt o.req 8 4
  let (k, st, q, s) := loadRows o h ((loadList s o).drop o.unitsDone) o.unitsDone s
  let o := { o with unitsDone := k }
  if st = 1 then askOp s o q
  else if st = 2 then finishOp (loadLeft s o) o .failed 0x12 0x20
  else
    let first := leAt o.req 0x10 5
    let last := first + leAt o.req 0x18 4 - 1
    let epoch := if bitOf (leAt o.req 0x0C 4) 3 then some (leAt o.req 0x28 4) else none
    let s := { s with tables := adj s.tables h (fun t => { t with
      epoch := epoch.getD t.epoch
      incomplete := match t.incomplete with
        | some (a, z) => if first ≤ a && z ≤ last then none else some (a, z)
        | none => none }) }
    finishOp s o .done 0 0

/-- TABLE_LOAD (R238, R239). -/
def tableLoad (s : State) (f : Nat) (b : List Byte) : MOut :=
  checked [rangeBad ((0x18, leAt b 0x18 4 == 0) :: srcRange s f b)]
    (withTable s f (leAt b 8 4) (fun t =>
      if !t.placed || t.used != 0 then .fail 0x19 3
      else .start (rowsHere t (leAt b 0x10 5) (leAt b 0x18 4)).length [] s))

def execTableLoad (f : Fn) (s : State) : Host.Outcome State Fault Refusal :=
  .next (runCmd s f.val 0x301 (fun _ => true) false tableLoad loadGo)

/-! ### TABLE_DESTROY, TABLE_MAP_SHARED (R178, R179, R242) -/

/-- Bindings of a handle, for one partition number or all. -/
def unbind (s : State) (h : Nat) (p : Option Nat) : State :=
  { s with bindings := s.bindings.filter (fun e =>
      !(e.1 % 2 ^ 32 == h && (match p with | some p => e.1 / 2 ^ 32 == p | none => true))) }

/-- A table goes: its storage, its ledger, its registration, its descriptor and its bindings. -/
def dropTable (s : State) (t : Table) : State :=
  let pages := devPages t.stores ++ t.ledger ++ t.olds.flatMap (fun o => devPages o.stores)
  let s := releasePages s t.owner pages
  unbind { s with tables := del s.tables t.handle } t.handle none

/-- TABLE_DESTROY. -/
def tableDestroy (s : State) (f : Nat) (b : List Byte) : MOut :=
  withTable s f (leAt b 8 4) (fun t =>
    if !(naming s t.handle).isEmpty || !t.mapped.isEmpty then .fail 0x19 3 else .ok [] (dropTable s t) true)

def execTableDestroy (f : Fn) (s : State) : Host.Outcome State Fault Refusal :=
  .next (runShort s f.val 0x302 tableDestroy)

/-- The tasks of these streams keep the table as it stands until they end. -/
def keepView (t : Table) (l : List Nat) : Table :=
  let l := l.filter (fun i => !keepsOld t i)
  if l.isEmpty then t else { t with olds := t.olds ++ [⟨l, t.code, t.stores⟩] }

/-- A shared table is unmapped from a partition: its tasks in flight keep it, and its bindings go (R179). -/
def unmapFrom (s : State) (h p : Nat) : State :=
  match lk s.tables h with
  | none => s
  | some t =>
    let t := keepView t ((naming s h).filter (fun i => streamPart s i == p))
    unbind (setTable s { t with mapped := t.mapped.filter (· != p) }) h (some p)

/-- TABLE_MAP_SHARED: byte 0x0D bit 0 maps or unmaps. -/
def tableMap (s : State) (_f : Nat) (b : List Byte) : MOut :=
  let h := leAt b 8 4
  let w := leAt b 0x0C 4
  let p := w % 32
  checked [rangeBad [(0x08, handleOwner h != 32 || (match lk s.tables h with | some t => t.train != 0 | none => false))]]
    (match lk s.tables h with
     | none => .fail 0x18 0
     | some t =>
       if (part s p).st ≠ .active then .fail 0x18 0
       else
         match tableHolder s h with
         | some o => .held o
         | none =>
           if bitOf w 8 then .ok [] (setTable s { t with mapped := if t.mapped.contains p then t.mapped else t.mapped ++ [p] }) true
           else .ok [] (unmapFrom s h p) true)

def execTableMapShared (f : Fn) (s : State) : Host.Outcome State Fault Refusal :=
  .next (runCmd s f.val 0x304 (fun b => bitOf (leAt b 0x0C 4) 8) false tableMap (fun s _ => s))
def execTableUnmapShared (f : Fn) (s : State) : Host.Outcome State Fault Refusal :=
  .next (runCmd s f.val 0x304 (fun b => !bitOf (leAt b 0x0C 4) 8) false tableMap (fun s _ => s))

/-! ### TABLE_QUERY (Table 8.4) -/

/-- Spilled pages of stores, and the existing rows in them. -/
def spilledOf (t : Table) : List (Store × Nat) :=
  t.stores.flatMap (fun x => x.pages.zipIdx.filterMap (fun (q, i) => match q with | .host .. => some (x, i) | .dev _ => none))
def pageRows (t : Table) (shard lp : Nat) : Nat :=
  min (t.heldRows shard) ((lp + 1) * t.rowsPerPage) - min (t.heldRows shard) (lp * t.rowsPerPage)

/-- TABLE_QUERY. -/
def tableQuery (s : State) (f : Nat) (b : List Byte) : MOut :=
  match reachTable s f (leAt b 8 4) with
  | none => .fail 0x18 0
  | some t =>
    let sh := (t.holds (me s)).head?
    let shard := match sh with | some (i, _) => i | none => 0x7F
    let rep := match sh with | some (_, r) => r | none => false
    let w := b2n t.placed + 2 * b2n (!t.mapped.isEmpty) + 4 * b2n t.golden.isSome + 8 * b2n t.incomplete.isSome +
      16 * b2n (tableHolder s t.handle).isSome + 32 * b2n (t.used != 0) + 2 ^ 8 * t.rowfmt + 2 ^ 16 * shard + 2 ^ 23 * b2n rep
    let inc := t.incomplete.getD (2 ^ 64 - 1, 2 ^ 64 - 1)
    .ok (leBytes 4 w ++ leBytes 4 t.descCheck.toNat ++ leBytes 4 t.epoch ++ leBytes 4 (t.rowBytes + 65536 * t.slotBytes) ++
      leBytes 4 t.rowsPerPage ++ leBytes 4 (devPages t.stores).length ++ leBytes 4 t.ledger.length ++
      leBytes 4 (spilledOf t).length ++
      leBytes 8 (match sh with | some (i, _) => t.heldRows i | none => 0) ++
      leBytes 8 ((spilledOf t).map (fun e => pageRows t e.1.shard e.2)).sum ++
      leBytes 8 t.foldCount ++ leBytes 8 t.clamped ++ leBytes 8 inc.1 ++ leBytes 8 inc.2 ++ t.descBytes t.epoch) s false

def execTableQuery (f : Fn) (s : State) : Host.Outcome State Fault Refusal := .next (runShort s f.val 0x303 tableQuery)

/-! ### TABLE_REQUANTIZE (R250) -/

/-- The table under a new code. -/
def Table.withCode (t : Table) (code : Nat) : Table := { t with code := code }

/-- Write row l of a store afresh into its place under the new code; a poisoned row stays poisoned (R484, log entry 25). -/
def requantRow (code : Nat) (t : Table) (x y : Store) (l : Nat) (s : State) : State :=
  match slotAt t x l, slotAt (t.withCode code) y l with
  | some (.dev p, o), some (.dev q, u) =>
    let d := devRead s (p * 65536 + o) t.rowBytes
    let s := noteTrace s .task [] [⟨p * 65536 + o, t.rowBytes⟩]
    let row := pbBytes d
    let v := (dequant t.d t.ext t.code row).map (fun w => if fIsFinite w then w else 0)
    let (nb, n) := quantize code (slice row 4 t.ext) v
    let s := memWrite s (q * 65536 + u) nb (pbBad d)
    { s with tables := adj s.tables t.handle (fun t => { t with clamped := (t.clamped + n) % 2 ^ 64 }) }
  | _, _ => s

/-- Deal pages out to the stores of a table under a new code. -/
def dealPages (t : Table) : List Store → List Nat → List Store
  | [], _ => []
  | x :: rest, l =>
    let n := t.storePages x.shard
    ⟨x.shard, x.replica, (l.take n).map PLoc.dev⟩ :: dealPages t rest (l.drop n)

/-- Work on a TABLE_REQUANTIZE: it waits for a FOLD in flight, converts every row, and switches (R250). -/
def requantGo (s : State) (o : Op) : State :=
  let h := leAt o.req 8 4
  let w := leAt o.req 0x0C 4
  let code := w % 2
  match lk s.tables h with
  | none => finishOp s o .failed 0x18 0
  | some t =>
    let epoch := if bitOf w 3 then leAt o.req 0x10 4 else t.epoch
    let o' := { o with unitsDone := o.unitsTotal }
    if !t.placed then finishOp (setTable s { t with code := code, epoch := epoch }) o' .done 0 0
    else if t.fold.isSome then s
    else
      let ys := dealPages (t.withCode code) t.stores o.acc
      let s := (t.stores.zip ys).foldl (fun s (x, y) =>
        (List.range (t.heldRows x.shard)).foldl (fun s l => requantRow code t x y l s) s) s
      match lk s.tables h with
      | none => s
      | some t =>
        let old := devPages t.stores
        let t := keepView t (naming s h)
        let kept := t.olds.flatMap (fun o => devPages o.stores)
        let s := setTable s { t with code := code, epoch := epoch, stores := ys }
        finishOp (releasePages s t.owner (old.filter (fun p => !kept.contains p))) o' .done 0 0

/-- TABLE_REQUANTIZE. -/
def tableRequantize (s : State) (f : Nat) (b : List Byte) : MOut :=
  let code := leAt b 0x0C 4 % 2
  let h := leAt b 8 4
  let int4 := code == 1 || (match reachTable s f h with | some t => t.code == 1 | none => false)
  checked [(!capOn s f 10, 0x15, 10), (int4 && !capOn s f 1, 0x15, 1)]
    (withTable s f h (fun t =>
      if !t.placed then .start 0 [] s
      else if !(spilledOf t).isEmpty then .fail 0x19 3
      else
        let n := (t.stores.map (fun x => (t.withCode code).storePages x.shard)).sum
        let rows := (t.stores.map (fun x => t.heldRows x.shard)).sum
        if availPages s t.owner < n then .fail 0x16 1
        else
          match takePages s (fun _ => .object t.owner) n with
          | some (l, s) => .start rows l s
          | none => .fail 0x16 1))

def execTableRequantize (f : Fn) (s : State) : Host.Outcome State Fault Refusal :=
  .next (runCmd s f.val 0x308 (fun _ => true) false tableRequantize requantGo)

end Sys2Proof.Machine
end

