-- ==== Sys2Proof/Machine/Texts.lean ====
section
/-! DEFINITION. What mailbox commands load for gathers and for the text units: ADAPTER_LOAD and ADAPTER_BIND (R327,
R328), PROFILE_LOAD and PROFILE_UNLOAD (R439 to R443), GRAMMAR_LOAD and GRAMMAR_UNLOAD (R474), STOP_STRINGS_SET (R467),
and the checks of images (Tables 16.1 and 17.2). -/

namespace Sys2Proof.Machine

/-- Pages for an object of an owner, where they are available (R244, R327). -/
def takeObject (s : State) (owner n : Nat) : Option (List Nat × State) :=
  if availPages s owner < n then none else takePages s (fun _ => .object owner) n

/-! ### Adapters -/

/-- The adapter that a request describes, without its pages. -/
def parseAdapter (b : List Byte) : Adapter :=
  let w := leAt b 0x0C 4
  ⟨bits w 9 0, bits w 25 16, bitOf (leAt b 8 4) 8, []⟩

/-- ADAPTER_LOAD. -/
def adapterLoad (s : State) (f : Nat) (b : List Byte) : MOut :=
  let a := parseAdapter b
  let id := leAt b 8 1
  let p := partOfFn f
  let bad (n : Nat) : Bool := decide (n < 16) || decide (512 < n) || n % 16 != 0
  checked
    [rangeBad [(0x08, id == 0xFF), (0x0C, bad a.din), (0x0E, bad a.dout), (0x10, badAddr (leAt b 0x10 8) 1)],
     (!capOn s f 3, 0x15, 3),
     (s.bindings.any (fun e => e.1 / 2 ^ 32 == p && e.2 == id), 0x19, 3)]
    (.wait [] s)

/-- The image of an adapter from its source: the rows of W at WROW, then the bias (11.8). -/
def adapterImage (a : Adapter) (src : List Byte) : List Byte :=
  (List.range a.dout).flatMap (fun o => slice ((src.drop (2 * a.din * o)).take (2 * a.din)) 0 (alignUp (2 * a.din) 64)) ++
  (if a.bias then slice (src.drop (2 * a.din * a.dout)) 0 (alignUp (2 * a.dout) 256) else [])

/-- Work on an ADAPTER_LOAD until its source has landed; a source that faults, is poisoned or holds a value that is not
finite changes nothing (R327, log entry 26). -/
def adapterGo (s : State) (o : Op) : State :=
  let b := o.req
  let a := parseAdapter b
  let p := partOfFn o.fn
  let n := 2 * a.din * a.dout + if a.bias then 2 * a.dout else 0
  let fin (s : State) (st d : Nat) (res : List Byte) : State := answer (finishOp s o .done 0 0) o.fn st d 0 res
  match readAt (opCtx s o) (leAt b 0x10 8) n with
  | .need q => askOp s o q
  | .stop _ _ => fin s 0x12 0x10 []
  | .ok l tr =>
    let s := noteTrace s .task [] tr
    let src := pbBytes l
    if pbBad l || !(List.range (n / 2)).all (fun k => fIsFinite (f16to32 (BitVec.ofNat 16 (leAt src (2 * k) 2)))) then
      fin s 0x12 0x10 []
    else
      match takeObject s p (cdiv (adapterSize a) 65536) with
      | none => fin s 0x16 1 []
      | some (pages, s) =>
        let k := p * 256 + leAt b 8 1
        let old := lk s.adapters k
        let s := pagesWrite s pages (adapterImage a src)
        let s := { s with adapters := put s.adapters k { a with pages := pages } }
        let s := match old with | some x => freeAdapter s 64 x | none => s
        fin (fwCommit s) 0 0 (leBytes 4 pages.length)

def execAdapterLoad (f : Fn) (s : State) : Host.Outcome State Fault Refusal :=
  .next (runCmd s f.val 0x310 (fun _ => true) false adapterLoad adapterGo)

/-- ADAPTER_BIND. -/
def adapterBind (s : State) (f : Nat) (b : List Byte) : MOut :=
  let h := leAt b 8 4
  let id := leAt b 0x0C 1
  let p := partOfFn f
  let t := match lk s.tables h with | some t => if reaches t p then some t else none | none => none
  let a := lk s.adapters (p * 256 + id)
  checked
    [rangeBad [(0x0C, match t, a with | some t, some a => id != 0xFF && a.din != t.d | _, _ => false)],
     (!capOn s f 3, 0x15, 3), (t.isNone, 0x18, 0), (id != 0xFF && a.isNone, 0x18, 0)]
    (match tableHolder s h with
     | some o => .held o
     | none =>
       let k := p * 2 ^ 32 + h
       .ok [] { s with bindings := if id = 0xFF then del s.bindings k else put s.bindings k id } true)

def execAdapterBind (f : Fn) (s : State) : Host.Outcome State Fault Refusal := .next (runShort s f.val 0x311 adapterBind)

/-! ### Image checks (Tables 16.1, 17.2) -/

/-- The offset of the first failing check of a list. -/
def firstOff (l : List (Nat × Bool)) : Option Nat := (l.find? (·.2)).map (·.1)

/-- Sections by the offset of their header field, their place and their length: a multiple of 256, within the image,
after the header and apart from the sections before them. -/
def sectionChecks (len : Nat) (l : List (Nat × Nat × Nat)) : List (Nat × Bool) :=
  l.zipIdx.map (fun ((o, a, n), i) =>
    (o, a % 256 != 0 || decide (len < a + n) || (n != 0 && decide (a < 256)) ||
      (n != 0 && (l.take i).any (fun (_, a', n') => n' != 0 && decide (a < a' + n') && decide (a' < a + n)))))

/-- A 32-bit word of an image. -/
def w32 (b : List Byte) (o : Nat) : Nat := leAt b o 4

/-- The bytes on the path from the root to a node, and whether the path is of at most n bytes (R448). -/
def nodePath (b : List Byte) (trie : Nat) : Nat → Nat → Option (List Byte)
  | _, 0 => some []
  | 0, _ => none
  | n + 1, i =>
    let q := w32 b (trie + 16 * i + 4)
    match nodePath b trie n q with
    | none => none
    | some l => some (l ++ [BitVec.ofInt 8 ((i : Int) - sext 32 (w32 b (trie + 16 * q)))])

/-- The checks of a trie node other than the root. -/
def nodeChecks (b : List Byte) (trie n vocab i : Nat) : List (Nat × Bool) :=
  let o := trie + 16 * i
  let chk := w32 b (o + 4)
  let w := w32 b (o + 8)
  let used (j : Nat) : Bool := decide (j < n) && w32 b (trie + 16 * j + 4) != 0xFFFFFFFE
  if chk = 0xFFFFFFFE then []
  else
    let kids := (List.range n).any (fun j => j != 0 && w32 b (trie + 16 * j + 4) == i)
    let tok := w % 2 ^ 20
    [(o + 4, i != 0 && (!used chk || (nodePath b trie 128 i).isNone)), (o + 8, bitOf w 30 != kids),
     (o + 8, bitOf w 31 && (decide (vocab ≤ tok) || (List.range i).any (fun j =>
        used j && bitOf (w32 b (trie + 16 * j + 8)) 31 && w32 b (trie + 16 * j + 8) % 2 ^ 20 == tok)))]

/-- The string of a token. -/
def vocabStr (b : List Byte) (tok : Nat) : List Byte :=
  let e := w32 b 0x44 + 8 * tok
  slice (b.drop (w32 b 0x48 + w32 b e)) 0 (w32 b (e + 4) % 256)

/-- The first failing field of a profile image, in the order of Table 16.1. -/
def profileFault (b : List Byte) : Option Nat :=
  let len := b.length
  let vocab := w32 b 0x0C
  let nblk := w32 b 0x2C
  let pool := w32 b 0x34
  let trie := w32 b 0x38
  let n := w32 b 0x3C
  let fall := bitOf (w32 b 0x10) 0
  let header := [(0x00, w32 b 0 != 0xCA5E0001), (0x04, w32 b 4 != 1), (0x08, w32 b 8 != len),
    (0x0C, vocab == 0 || decide (1048576 < vocab)), (0x10, decide (1 < w32 b 0x10)), (0x2C, nblk == 0 || decide (4353 < nblk)),
    (0x34, decide (16777216 < pool)), (0x3C, n == 0 || decide (16777216 < n))] ++
    (List.range 44).map (fun k => (0x50 + 4 * k, w32 b (0x50 + 4 * k) != 0))
  let sections := sectionChecks len [(0x20, w32 b 0x20, 1024), (0x24, w32 b 0x24, 8706), (0x28, w32 b 0x28, 1024 * nblk),
    (0x30, w32 b 0x30, pool), (0x38, trie, 16 * n), (0x44, w32 b 0x44, 8 * vocab), (0x48, w32 b 0x48, w32 b 0x4C)]
  match firstOff (header ++ sections) with
  | some o => some o
  | none =>
    let stage1 := (List.range 4353).map (fun k => let o := w32 b 0x24 + 2 * k; (o, decide (nblk ≤ leAt b o 2)))
    let ent (k : Nat) : Nat × Nat := let o := w32 b 0x28 + 4 * k; (o, w32 b o)
    let stage2 := (List.range (256 * nblk)).map (fun k =>
      let (o, e) := ent k
      (o, e % 4 == 3 || (e % 4 == 2 && (e / 16 % 16 == 0 || decide (pool < e / 256 + e / 16 % 16)))))
    let strs := (List.range (256 * nblk)).map (fun k =>
      let (_, e) := ent k
      let s := slice (b.drop (w32 b 0x30 + e / 256)) 0 (e / 16 % 16)
      (w32 b 0x30 + e / 256, e % 4 == 2 && !wellFormedUtf 16 s))
    let root := [(trie + 4, w32 b (trie + 4) != 0xFFFFFFFF), (trie + 8, bitOf (w32 b (trie + 8)) 31)]
    let nodes := (List.range n).flatMap (nodeChecks b trie n vocab)
    let vents := (List.range vocab).flatMap (fun t =>
      let o := w32 b 0x44 + 8 * t
      let l := w32 b (o + 4) % 256
      [(o + 4, decide (128 < l)), (o, decide (w32 b 0x4C < w32 b o + l))])
    let paths := (List.range n).map (fun i =>
      let o := trie + 16 * i
      let w := w32 b (o + 8)
      (w32 b 0x44 + 8 * (w % 2 ^ 20), i != 0 && w32 b (o + 4) != 0xFFFFFFFE && bitOf w 31 &&
        nodePath b trie 128 i != some (vocabStr b (w % 2 ^ 20))))
    let bytes := (List.range 256).map (fun x =>
      let o := w32 b 0x20 + 4 * x
      (o, !fall && (decide (vocab ≤ w32 b o) || vocabStr b (w32 b o) != [BitVec.ofNat 8 x])))
    firstOff (stage1 ++ stage2 ++ strs ++ root ++ nodes ++ vents ++ paths ++ bytes ++
      [(0x14, fall && decide (vocab ≤ w32 b 0x14))])

/-- The checks of a rule (Table 17.2). -/
def ruleChecks (b : List Byte) (vocab nstate o : Nat) : List (Nat × Bool) :=
  let w := w32 b o
  let guard := bits w 21 20
  let op := bits w 23 22
  let last := w32 b (o + 4) % 2 ^ 20
  let next := w32 b (o + 8) % 2 ^ 24
  let arg := w32 b (o + 12) % 2 ^ 24
  [(o, decide (last < w % 2 ^ 20)), (o + 2, guard == 1 && op == 1), (o + 2, op == 2 && guard != 1 && guard != 3),
   (o + 2, op == 3), (o + 4, decide (vocab ≤ last)), (o + 8, decide (nstate ≤ next) || (op == 2 && next != 0)),
   (o + 12, if guard = 1 ∨ op = 1 then decide (nstate ≤ arg) else arg != 0)]

/-- The first failing field of a grammar image, in the order of Table 17.2. -/
def grammarFault (b : List Byte) : Option Nat :=
  let len := b.length
  let vocab := w32 b 0x0C
  let ns := w32 b 0x10
  let nr := w32 b 0x1C
  let header := [(0x00, w32 b 0 != 0xF0E30001), (0x04, w32 b 4 != 1), (0x08, w32 b 8 != len),
    (0x0C, vocab == 0 || decide (1048576 < vocab)), (0x10, ns == 0 || decide (16777216 < ns)),
    (0x14, decide (ns ≤ w32 b 0x14)), (0x1C, decide (67108864 < nr))] ++
    (List.range 55).map (fun k => (0x24 + 4 * k, w32 b (0x24 + 4 * k) != 0))
  match firstOff (header ++ sectionChecks len [(0x18, w32 b 0x18, 8 * ns), (0x20, w32 b 0x20, 16 * nr)]) with
  | some o => some o
  | none =>
    firstOff ((List.range ns).map (fun q =>
        let o := w32 b 0x18 + 8 * q
        (o, decide (nr < w32 b o + w32 b (o + 4) % 65536))) ++
      (List.range nr).flatMap (fun r => ruleChecks b vocab ns (w32 b 0x20 + 16 * r)))

/-! ### Profiles and grammars -/

/-- Which of the two an opcode loads or unloads. -/
def isGrammar (op : Nat) : Bool := op == 0x502 || op == 0x503
def imgs (s : State) (g : Bool) : Tab TextImg := if g then s.grammars else s.profiles
def setImgs (s : State) (g : Bool) (l : Tab TextImg) : State := if g then { s with grammars := l } else { s with profiles := l }

/-- PROFILE_LOAD and GRAMMAR_LOAD: the lowest free slot and the pages are taken, and MS_STARTED names them (R440). -/
def imgLoad (s : State) (f : Nat) (b : List Byte) : MOut :=
  let g := isGrammar (reqOp b)
  let len := leAt b 0x0C 4
  let nctx := if g then 0 else leAt b 8 1 % 128
  let n := cdiv len 65536
  let slot := (List.range (if g then 32 else 16)).find? (fun k => !has (imgs s g) k)
  checked
    [rangeBad [(0x08, decide (64 < nctx)), (0x0C, decide (len < 256) || decide (2 ^ 30 < len) || len % 4 != 0),
       (0x10, badAddr (leAt b 0x10 8) 4)],
     (slot.isNone, 0x16, if g then 8 else 7)]
    (match takeObject s (partOfFn f) (n + cdiv nctx 4) with
     | none => .fail 0x16 1
     | some (l, s) =>
       let k := slot.getD 0
       let x : TextImg := ⟨false, partOfFn f, nctx, len, l.take n, l.drop n⟩
       .startRes n [k] (leBytes 4 k ++ leBytes 4 l.length) (setImgs s g (put (imgs s g) k x)))

/-- A slot becomes free, and its pages await zeroing; Forme states bound to a grammar are unbound (R442, R474). -/
def imgDrop (s : State) (g : Bool) (slot : Nat) : State :=
  match lk (imgs s g) slot with
  | none => s
  | some x =>
    let s := releasePages s x.owner (x.pages ++ x.ctxPages)
    let s := setImgs s g (del (imgs s g) slot)
    if g then
      { s with streams := s.streams.map (fun e =>
        if e.2.text.grammar == some slot && partOfFn (match e.2.slot with | some (f, _) => f | none => 0) == x.owner then
          (e.1, { e.2 with text := { e.2.text with grammar := none, q := 0, stack := [] } }) else e) }
    else s

/-- Work on a load: copy the image, set every context empty, and check the image (R440). -/
def imgGo (s : State) (o : Op) : State :=
  let g := isGrammar o.opcode
  let slot := o.acc.headD 0
  match lk (imgs s g) slot with
  | none => finishOp s o .failed 0x12 0x10
  | some x =>
    match readAt (opCtx s o) (leAt o.req 0x10 8) x.len with
    | .need q => askOp s o q
    | .stop _ _ => finishOp (imgDrop s g slot) o .failed 0x12 0x10
    | .ok l tr =>
      let s := noteTrace s .task [] tr
      let b := pbBytes l
      if pbBad l then finishOp (imgDrop s g slot) o .failed 0x12 0x10
      else
        let s := pagesWrite s x.pages b
        let s := pagesWrite s x.ctxPages (List.replicate x.nctx ctxEmpty).flatten
        let o := { o with unitsDone := o.unitsTotal }
        match if g then grammarFault b else profileFault b with
        | some off =>
          let s := postP s x.owner 0x0206 3 (o.opcode + 2 ^ 16 * slot) off 0 0
          finishOp (imgDrop s g slot) o .failed 0x12 0x10
        | none => finishOp (setImgs s g (put (imgs s g) slot { x with loaded := true })) o .done 0 0

/-- Whether an admitted task of an owner names a profile or a grammar. -/
def imgNamed (s : State) (g : Bool) (slot owner : Nat) : Bool :=
  s.streams.any (fun e => match e.2.task with
    | some t => t.done.isNone && partOfFn (match e.2.slot with | some (f, _) => f | none => 0) == owner &&
      (if g then t.type == 7 && t.u32 8 % 32 == slot else (t.type == 5 || t.type == 6) && t.u32 8 % 16 == slot)
    | none => false)

/-- PROFILE_UNLOAD and GRAMMAR_UNLOAD. -/
def imgUnload (s : State) (f : Nat) (b : List Byte) : MOut :=
  let g := isGrammar (reqOp b)
  let slot := if g then leAt b 8 1 % 32 else leAt b 8 1 % 16
  match lk (imgs s g) slot with
  | none => .fail 0x18 0
  | some x =>
    if x.owner ≠ partOfFn f then .fail 0x18 0
    else
      match s.ops.find? (fun o => o.st == .running && o.opcode == (if g then 0x502 else 0x500) && o.acc == [slot]) with
      | some o => .held o
      | none => if imgNamed s g slot x.owner then .fail 0x19 3 else .ok [] (imgDrop s g slot) true

def execProfileLoad (f : Fn) (s : State) : Host.Outcome State Fault Refusal :=
  .next (runCmd s f.val 0x500 (fun _ => true) false imgLoad imgGo)
def execGrammarLoad (f : Fn) (s : State) : Host.Outcome State Fault Refusal :=
  .next (runCmd s f.val 0x502 (fun _ => true) false imgLoad imgGo)
def execProfileUnload (f : Fn) (s : State) : Host.Outcome State Fault Refusal := .next (runShort s f.val 0x501 imgUnload)
def execGrammarUnload (f : Fn) (s : State) : Host.Outcome State Fault Refusal := .next (runShort s f.val 0x503 imgUnload)

/-! ### Stop strings (R467) -/

/-- STOP_STRINGS_SET: string i has its LEN at 0x0C + 68 × i and its 64 bytes after that. -/
def stopStrings (s : State) (f : Nat) (b : List Byte) : MOut :=
  let i := leAt b 8 1 % 64
  let n := reqNstop b
  let len (k : Nat) : Nat := leAt b (0x0C + 68 * k) 1 % 128
  let at_ (k : Nat) : Nat := 0x10 + 68 * k
  let strs := (List.range n).map (fun k => slice (b.drop (at_ k)) 0 (len k))
  let pads := (List.range n).flatMap (fun k =>
    let l := min (len k) 64
    ((List.range 16).filter (fun w => l < 4 * w + 4)).map (fun w =>
      let a := max l (4 * w)
      (at_ k + a, (slice (b.drop (at_ k + a)) 0 (4 * w + 4 - a)).any (· != 0))))
  let inSlot := match (stream s i).slot with | some (g, _) => g == f | none => false
  checked
    [(match firstFail pads with | some o => (true, 0x13, o) | none => (false, 0, 0)),
     rangeBad ((0x09, decide (16 < n)) :: (List.range n).flatMap (fun k =>
       [(0x0C + 68 * k, len k == 0 || decide (64 < len k)), (at_ k, !wellFormedUtf 64 (strs.getD k []))])),
     (!inSlot, 0x18, 0)]
    (let x := stream s i
     .ok [] (setStream s i { x with text := { x.text with stops := strs } }) true)

def execStopStringsSet (f : Fn) (s : State) : Host.Outcome State Fault Refusal := .next (runShort s f.val 0x504 stopStrings)

end Sys2Proof.Machine
end

