-- ==== Sys2Proof/Machine/MemRows.lean ====
section
/-! DEFINITION. What the memory tier does of itself (R177, R203, R208, R209, R214) and the memory commands of chapter 7:
PAGE_RETIRE and the Hellbox (R211 to R213), CHANNEL_MAP_OUT (R214 to R217), and margining (R219 to R221). -/

namespace Sys2Proof.Machine

/-! ### Events of the channels -/

/-- A channel's PHY is on and the channel is trained: LIVE or MAPPING_OUT (R214). -/
def chOn (s : State) (c : Nat) : Bool := lkD s.mem.chState c 0 == 0 || lkD s.mem.chState c 0 == 2

/-- CE_WRITE_BACK: the oldest repair of a channel that waits is written back, if the burst still reads CORRECTED. -/
def ceWriteBack (s : State) (c : Nat) : State :=
  match s.mem.ceBack.find? (fun e => (BRef.ofKey e.1).ch == c) with
  | none => s
  | some (k, _) => capped s c 2 fun s =>
    let b := BRef.ofKey k
    let s := { s with mem := { s.mem with ceBack := s.mem.ceBack.filter (fun e => e.1 != k) } }
    let r := dramRead s b
    if r.kind = .corrected then burstStore s b r.bytes false else s

def execCeWriteBack (c : Ch) (s : State) : Host.Outcome State Fault Refusal :=
  .next (if runs s 1 && chOn s c.val then ceWriteBack s c.val else s)

/-- MEM_CE_SUMMARY: one record for a second in which a burst of the channel was corrected. -/
def execMemCeSummary (c : Ch) (s : State) : Host.Outcome State Fault Refusal :=
  let n := lkD s.mem.ceRun c.val 0
  .next (if !isDue s (.ceSum c.val) || s.pwr.off then s
    else
      let s := setDue s (.ceSum c.val) secT
      if n = 0 then s
      else
        let s := postG s 0x0402 1 c.val n (lkD s.mem.ceLast c.val 0) 0
        { s with mem := { s.mem with ceRun := del s.mem.ceRun c.val } })

/-- CHANNEL_DROP_SUMMARY: one record for a second in which a FAILED channel dropped writes. -/
def execChannelDropSummary (c : Ch) (s : State) : Host.Outcome State Fault Refusal :=
  let n := lkD s.mem.dropRun c.val 0
  .next (if !isDue s (.drop c.val) || s.pwr.off then s
    else
      let s := setDue s (.drop c.val) secT
      if n = 0 then s
      else
        let s := postG s 0x0405 4 c.val n 0 0
        { s with mem := { s.mem with dropRun := del s.mem.dropRun c.val } })

/-- WCB_WRITE_BACK: the entries of a channel whose wait has ended are merged and written (R207, R208). -/
def execWcbWriteBack (c : Ch) (s : State) : Host.Outcome State Fault Refusal :=
  .next (if runs s 1 then
      ((lkD s.mem.wcb c.val []).filter (fun w => w.due ≤ s.clk.aon)).foldl (fun s w => capped s c.val 2 (fun s => wcbMerge s c.val w)) s
    else s)

/-- Ranks of a channel (Table 7.1). -/
def ranks (s : State) : Nat := if s.ident.ordering = 2 then 3 else 2

/-- MR4_READ: every 100 us, a rank's temperature and the refresh multiplier it requires. -/
def execMr4Read (c : Ch) (rank : Fin 3) (temp : Byte) (mult : Fin 3) (s : State) : Host.Outcome State Fault Refusal :=
  .next (if isDue s (.mr4 c.val rank.val) && runs s 1 && chOn s c.val && decide (rank.val < ranks s) then
      let s := setDue s (.mr4 c.val rank.val) (100 * usT)
      { s with mem := { s.mem with
          mr4Temp := put s.mem.mr4Temp c.val temp.toNat
          mr4Mult := put s.mem.mr4Mult (4 * c.val + rank.val) mult.val } }
    else s)

/-- The refresh multiplier code in force for a rank: the larger of the step's (Table 7.4) and MR4's (R209). -/
def refreshCode (s : State) (c rank : Nat) : Nat :=
  max (min s.pwr.step 2) (lkD s.mem.mr4Mult (4 * c + rank) 0)

/-- PER_BANK_REFRESH: tREFI of 3.906 us over the multiplier has passed since the rank's last one (R209). -/
def execPerBankRefresh (c : Ch) (rank : Fin 3) (s : State) : Host.Outcome State Fault Refusal :=
  let k := 4 * c.val + rank.val
  let past := (s.clk.aon - lkD s.mem.refreshAt k 0) * 40 * 2 ^ refreshCode s c.val rank.val
  .next (if runs s 1 && chOn s c.val && decide (rank.val < ranks s) && decide (3906 ≤ past) then
      { s with mem := { s.mem with refreshAt := put s.mem.refreshAt k s.clk.aon } }
    else s)

/-- PAGE_ZEROED: a page that awaits zeroing is zeroed and joins the free pool (R177). -/
def execPageZeroed (page : Nat) (s : State) : Host.Outcome State Fault Refusal :=
  .next (match pageUse s page with
    | .zeroing _ => if runs s 1 then setPage (zeroPage s page) page .free else s
    | _ => s)

/-! ### The Hellbox (R36, R213) -/

/-- The words of an entry (Table 7.7). -/
def hbWord0 (e : HbEntry) : Nat := e.kind + 2 ^ 4 * e.reason + 2 ^ 8 * e.channel + 2 ^ 14 * e.mode
def hbBytes (e : HbEntry) : List Byte := leBytes 4 (hbWord0 e) ++ leBytes 4 e.page ++ leBytes 8 e.seq

/-- Append an entry and write the record of the change. -/
def hbAppend (s : State) (kind reason channel mode page : Nat) : State :=
  let e : HbEntry := ⟨kind, reason, channel, mode, page, s.evt.seq⟩
  let n := s.mem.hellbox.length
  let s := { s with mem := { s.mem with hellbox := s.mem.hellbox ++ [e] } }
  postG s 0x0406 2 n (hbWord0 e + 2 ^ 32 * page) 0 0

/-- HELLBOX_READ. -/
def hellboxRead (s : State) (_f : Nat) (b : List Byte) : MOut :=
  let first := leAt b 8 2 % 4096
  let n := leAt b 0x0C 1 % 128
  checked [rangeBad [(0x0C, n == 0 || n == 127)]]
    (let l := (s.mem.hellbox.drop first).take n
     .ok (leBytes 4 s.mem.hellbox.length ++ leBytes 4 l.length ++ leBytes 8 0 ++ l.flatMap hbBytes) s false)

def execHellboxRead (f : Fn) (s : State) : Host.Outcome State Fault Refusal := .next (runShort s f.val 0x602 hellboxRead)

/-! ### PAGE_RETIRE (R211, R212) -/

/-- Every reference to device page p becomes one to page q. -/
def renumber (s : State) (p q : Nat) : State :=
  let f (x : Nat) : Nat := if x = p then q else x
  let l (x : PLoc) : PLoc := match x with | .dev n => .dev (f n) | y => y
  let st (x : Store) : Store := { x with pages := x.pages.map l }
  let ad (a : Adapter) : Adapter := { a with pages := a.pages.map f }
  let im (x : TextImg) : TextImg := { x with pages := x.pages.map f, ctxPages := x.ctxPages.map f }
  { s with
    tables := s.tables.map (fun e => (e.1, { e.2 with
      stores := e.2.stores.map st, ledger := e.2.ledger.map f
      olds := e.2.olds.map (fun o => { o with stores := o.stores.map st }) }))
    adapters := s.adapters.map (fun e => (e.1, ad e.2))
    profiles := s.profiles.map (fun e => (e.1, im e.2))
    grammars := s.grammars.map (fun e => (e.1, im e.2))
    streams := s.streams.map (fun e => (e.1, { e.2 with
      task := e.2.task.map (fun t => { t with adapter := t.adapter.map ad }) }))
    ops := s.ops.map (fun o => if o.opcode = 0x308 then { o with acc := o.acc.map f } else o) }

/-- Move a page in use to page q, with its contents and its DTT entry. -/
def movePage (s : State) (p q : Nat) : State :=
  let u := pageUse s p
  renumber (setPage (copyPage s p q) q u) p q

/-- The lowest page of the repair reserve. -/
def repairPage (s : State) : Option Nat :=
  match ((List.range repairPages).map (dttPages s + ·)).find? (fun p => pageUse s p == .repair) with
  | some p => some p
  | none => (s.pages.find? (fun e => e.2 == .repair)).map (·.1)

/-- The reserve is refilled with one page of the unreserved free pool (R212). -/
def refillRepair (s : State) : State :=
  if repairCount s < repairPages && decide (0 < availPages s 32) then
    match freePage s with
    | some p => setPage s p .repair
    | none => s
  else s

/-- PAGE_RETIRE. -/
def pageRetire (s : State) (_f : Nat) (b : List Byte) : MOut :=
  let p := leAt b 8 4 % 2 ^ 23
  let w := leAt b 0x0C 4
  let reason := bits w 11 8
  let use := pageUse s p
  let idle := match use with | .free => true | .repair => true | .zeroing _ => true | _ => false
  let fin (s : State) (q : Nat) : MOut :=
    let s := refillRepair (hbAppend (setPage s p .retired) 1 reason (w % 64) 0 p)
    .ok (leBytes 4 q ++ leBytes 4 s.mem.hellbox.length) s true
  checked
    [rangeBad [(0x08, decide (s.mem.pmax ≤ p) || use == .retired), (0x0D, reason == 0 || decide (4 < reason))],
     (decide (4096 ≤ s.mem.hellbox.length), 0x1A, 0),
     (!idle && (repairPage s).isNone, 0x16, 5)]
    (if idle then fin s 0xFFFFFFFF
     else
       match repairPage s with
       | some q => fin (movePage s p q) q
       | none => .fail 0x16 5)

def execPageRetire (f : Fn) (s : State) : Host.Outcome State Fault Refusal := .next (runShort s f.val 0x600 pageRetire)

/-! ### CHANNEL_MAP_OUT (R214 to R217) -/

/-- Channels mapped out or recorded. -/
def outOrRecorded (s : State) : W64 := s.mem.mapped ||| s.mem.recorded
def maskCount (m : W64) : Nat := ((List.range 64).filter (maskBit m)).length

/-- Whether a page holds data, or belongs to the DTT or the reserve: it stays through a map-out. -/
def holdsData (u : PageUse) : Bool :=
  match u with
  | .free => false
  | .retired => false
  | .zeroing _ => false
  | _ => true

/-- The pages that must lie below the new pmax: those listed, and the default DTT and reserve that are not listed. -/
def keptPages (s : State) : Nat :=
  (s.pages.filter (fun e => holdsData e.2)).length +
  ((dttPages s + repairPages) - (s.pages.filter (fun e => e.1 < dttPages s + repairPages)).length)

/-- A RUNNING map-out or margin operation. -/
def mapOrMargin (s : State) : Option Op :=
  match opRunning s 0x601 with
  | some o => some o
  | none => opRunning s 0x603

/-- Step 2 and step 3 of Table 7.5: the new pmax, MEM_SPREAD, MAPPING_OUT, and the pages that move. -/
def sweepBegin (s : State) (c : Nat) (discard : Bool) (key : Nat) : Nat × State :=
  let s := { s with mem := { s.mem with
      sweep := some ⟨c, discard, 0, key⟩
      spread := (List.range 256).foldl (fun m st => if stripeEnt s st % 64 = c then m ||| (1#256 <<< st) else m) s.mem.spread
      chState := put s.mem.chState c 2 } }
  let lim := pmaxFor s (outCount s)
  ((s.pages.filter (fun e => lim ≤ e.1 && holdsData e.2)).map (·.1)).foldl (fun (x : Nat × State) p =>
    match freePage x.2 with
    | some q => (x.1 + 1, setPage (movePage x.2 p q) p .free)
    | none => x) (0, wcbFlush s)

/-- Copy channel c's slugs of page P into their spread locations, or write them poisoned (step 4). -/
def sweepPage (s : State) (w : Sweep) (p : Nat) : State :=
  (List.range 256).foldl (fun s i =>
    let st := stripeOf (p * 256 + i)
    if !s.mem.spread.getLsbD st || stripeEnt s st % 64 ≠ w.channel then s
    else
      (List.range 4).foldl (fun s j =>
        let r : BRead := if w.discard then ⟨.poisoned, List.replicate 64 0⟩
          else burstRead s ⟨w.channel, 4 * p + stripeEnt s st / 64 % 4, j⟩
        let s := if w.discard then s else noteBurst s p i j .retirement
        match spreadLoc s p st with
        | .at_ ch l => burstStore s ⟨ch, l, j⟩ r.bytes r.kind.bad
        | _ => s) s) s

/-- Sweep the next n pages below the new pmax. -/
def sweepSome (w : Sweep) (lim : Nat) : Nat → State → State
  | 0, s => s
  | n + 1, s =>
    match s.mem.sweep with
    | some x =>
      if lim ≤ x.cursor then s
      else
        let s := sweepPage s x x.cursor
        sweepSome w lim n { s with mem := { s.mem with sweep := some { x with cursor := x.cursor + 1 } } }
    | none => s

/-- Pages that one step of a sweep covers: the spec fixes their order alone (log entry 27). -/
def sweepBatch : Nat := 65536

/-- Steps 5 and 6: the Hellbox entry, the new capacity, and the PHY off. -/
def sweepEnd (s : State) (w : Sweep) (o : Op) (lim : Nat) : State :=
  let s := hbAppend s 2 (o.acc.headD 3) w.channel (b2n w.discard) 0
  let s := { s with mem := { s.mem with
      sweep := none, pmax := lim, mapped := s.mem.mapped ||| (1#64 <<< w.channel)
      chState := put s.mem.chState w.channel 3 } }
  finishOp s { o with unitsDone := o.unitsTotal } .done 0 0

/-- Work on a map-out: the first step moves the pages, the next ones sweep. -/
def mapOutGo (s : State) (o : Op) : State :=
  if bitOf (leAt o.req 9 1) 1 then
    let s := hbAppend s 2 (o.acc.headD 3) (leAt o.req 8 1 % 64) 2 0
    let s := { s with mem := { s.mem with recorded := s.mem.recorded ||| (1#64 <<< (leAt o.req 8 1 % 64)) } }
    finishOp s o .done 0 0
  else if !runs s 1 then s
  else
    match s.mem.sweep with
    | none =>
      let (n, s) := sweepBegin s (leAt o.req 8 1 % 64) (bitOf (leAt o.req 9 1) 0) o.key
      setOp s { o with unitsDone := n, unitsTotal := n + pmaxFor s (outCount s) }
    | some w =>
      let lim := pmaxFor s (outCount s)
      let s := sweepSome w lim sweepBatch s
      match s.mem.sweep with
      | some x =>
        let o := { o with unitsDone := o.unitsDone + (x.cursor - w.cursor) }
        if lim ≤ x.cursor then sweepEnd s x o lim else setOp s o
      | none => s

/-- CHANNEL_MAP_OUT; the reason of its entry is a training failure where the channel is FAILED, else the driver's request
(log entry 27). -/
def channelMapOut (s : State) (_f : Nat) (b : List Byte) : MOut :=
  let c := leAt b 8 1 % 64
  let discard := bitOf (leAt b 9 1) 0
  let record := bitOf (leAt b 9 1) 1
  let out := lkD s.mem.chState c 0
  let reason := if out = 1 then 4 else 3
  checked
    [rangeBad [(0x08, out == 3), (0x09, !record && !discard && out == 1)]]
    (match mapOrMargin s with
     | some o => .held o
     | none =>
       checked
         [(!record && s.mem.mapped != 0, 0x19, 3), (decide (4096 ≤ s.mem.hellbox.length), 0x1A, 0),
          (!record && decide (pmaxFor s (outCount s + 1) < keptPages s), 0x16, 1),
          (decide (8 ≤ maskCount (outOrRecorded s)), 0x16, 6)]
         (.start 0 [reason] s))

def execChannelMapOutEvacuate (f : Fn) (s : State) : Host.Outcome State Fault Refusal :=
  .next (runCmd s f.val 0x601 (fun b => leAt b 9 1 % 4 == 0) false channelMapOut mapOutGo)
def execChannelMapOutDiscard (f : Fn) (s : State) : Host.Outcome State Fault Refusal :=
  .next (runCmd s f.val 0x601 (fun b => leAt b 9 1 % 4 == 1) false channelMapOut mapOutGo)
def execChannelMapOutRecord (f : Fn) (s : State) : Host.Outcome State Fault Refusal :=
  .next (runCmd s f.val 0x601 (fun b => bitOf (leAt b 9 1) 1) false channelMapOut mapOutGo)

/-! ### Margining (R219 to R221) -/

/-- The channels and kinds of a request: pairs channel × 4 + kind. -/
def marginPairs (b : List Byte) : List Nat :=
  (List.range 256).filter (fun k => bitOf (leAt b 8 8) (k / 4) && bitOf (leAt b 0x10 1) (k % 4))

/-- A pair's result, kept in the operation until it is DONE: pair + 2^8 × (left + 2^8 × (right + 2^8 × limits)), and bit 26
for a pair that could not be measured. -/
def marginCode (k left right : Nat) (ll lr none_ : Bool) : Nat :=
  k + 2 ^ 8 * left + 2 ^ 16 * right + 2 ^ 24 * b2n ll + 2 ^ 25 * b2n lr + 2 ^ 26 * b2n none_
def marginOf (v : Nat) : Nat × Margin :=
  (v % 256, ⟨v / 2 ^ 8 % 256, v / 2 ^ 16 % 256, bitOf v 24, bitOf v 25⟩)

/-- End a margin operation whose pairs are all done: its results replace those of the last one. -/
def marginEnd (s : State) (o : Op) : State :=
  if o.acc.length < o.unitsTotal then setOp s o
  else
    let res := putAll [] ((o.acc.filter (fun v => !bitOf v 26)).map marginOf)
    finishOp { s with mem := { s.mem with marginRes := res, marginOp := some o.id } } o .done 0 0

/-- MARGIN_START. -/
def marginStart (s : State) (f : Nat) (b : List Byte) : MOut :=
  let bad (lo : Nat) : Bool := (List.range 32).any (fun i => bitOf (leAt b 8 8) (lo + i) && lkD s.mem.chState (lo + i) 0 != 0)
  let dwell := leAt b 0x11 1 % 16
  checked
    [rangeBad [(0x08, bad 0), (0x0C, bad 32), (0x10, leAt b 0x10 1 % 16 == 0), (0x11, decide (dwell < 4) || decide (12 < dwell))],
     (!capOn s f 9, 0x15, 9)]
    (match mapOrMargin s with
     | some o => .held o
     | none => .start (marginPairs b).length [] s)

/-- A margin operation with nothing left to measure ends; the slots do the work. -/
def marginGo (s : State) (o : Op) : State := marginEnd s o

def execMarginStart (f : Fn) (s : State) : Host.Outcome State Fault Refusal :=
  .next (runCmd s f.val 0x603 (fun _ => true) false marginStart marginGo)

/-- MARGIN_SLOT: one kind on one channel is swept, at least 1 ms after the channel's last slot; `left` and `right` are
what the silicon passed (R220). -/
def execMarginSlot (c : Ch) (kind : Fin 4) (left right : Nat) (s : State) : Host.Outcome State Fault Refusal :=
  let k := 4 * c.val + kind.val
  let top := if kind.val % 2 = 0 then 32 else 40
  .next (match opRunning s 0x603 with
    | none => s
    | some o =>
      let first := match lk s.mem.marginAt c.val with | some t => decide (t + msT ≤ s.clk.aon) | none => true
      if !runs s 1 || !first || !(marginPairs o.req).contains k || (o.acc.map (· % 256)).contains k then s
      else
        let v := marginCode k (min left top) (min right top) (decide (top ≤ left)) (decide (top ≤ right))
          (lkD s.mem.chState c.val 0 != 0)
        let s := { s with mem := { s.mem with marginAt := put s.mem.marginAt c.val s.clk.aon } }
        marginEnd s { o with acc := o.acc ++ [v], unitsDone := o.unitsDone + 1 })

/-- MARGIN_RESULT. -/
def marginResult (s : State) (_f : Nat) (_b : List Byte) : MOut :=
  match s.mem.marginOp with
  | none => .fail 0x18 0
  | some id =>
    .ok (leBytes 4 id ++ leBytes 12 0 ++ (List.range 256).flatMap (fun k =>
      match lk s.mem.marginRes k with
      | some m => leBytes 4 (m.left + 2 ^ 8 * m.right + 2 ^ 16 + 2 ^ 17 * b2n m.limitL + 2 ^ 18 * b2n m.limitR)
      | none => leBytes 4 0)) s false

def execMarginResult (f : Fn) (s : State) : Host.Outcome State Fault Refusal := .next (runShort s f.val 0x604 marginResult)

end Sys2Proof.Machine
end

