-- ==== Sys2Proof/Machine/Bounds.lean ====
section
/-! DEFINITION. The management words (R67, R504, R561, Tables 2.12, 5.10 and 19.6): the range of each, how a write from
any path is checked and committed, and the power commands SET_POWER_PERMIT, SET_LOOP_BOUNDS and GET_LOOP_BOUNDS
(R129, R562). -/

namespace Sys2Proof.Machine

/-- A step of 50 MHz. -/
def by50 (v : Nat) : Bool := v % 50 == 0

/-- Whether v lies in the range of word w where the other words are m (Tables 2.12 and 19.6); one with a bit outside
the word's mask does not (R561). -/
def boundOk (m : Nat → Nat) (w v : Nat) : Bool :=
  let within (lo hi : Nat) : Bool := decide (lo ≤ v) && decide (v ≤ hi)
  v &&& mgmtMask w == v && match w with
  | 0 => within 1 3
  | 1 => within 500 800
  | 2 => within (m 1) 800
  | 3 => within 100 10000
  | 4 => within 70 100
  | 5 => within 400 (m 6) && by50 v
  | 6 => within 400 1400 && by50 v
  | 7 => within 0 7
  | 8 => within (m 7) 7
  | 9 => within 1 65535
  | 10 => decide (v < m 9)
  | 11 => within 10 1000
  | 12 => within 10 100
  | 13 => within 8 256
  | 14 => within 1 600
  | 15 => within 0 31
  | 16 => within (m 15) 31
  | 17 => within 0 63
  | 18 => within 0 15
  | 19 => within 0 255
  | 20 => within 10 1000
  | 21 => within 1 40
  | _ => false

/-- The words as the AMC last wrote them, which no upset of the committed copy changes. -/
def mgmtStaged (s : State) (w : Nat) : Nat := lkD s.cfg.mgmtStaged w (mgmtDefault w)

/-- The words with word w changed to v. -/
def boundsWith (s : State) (w v : Nat) (n : Nat) : Nat := if n = w then v else mgmtStaged s n

/-- Whether the AMC accepts a write: it and every other bound lie in their ranges after it (R67, R504). -/
def boundAccepted (s : State) (w v : Nat) : Bool :=
  decide (w < 22) && boundOk (boundsWith s w v) w v &&
  (List.range 22).all (fun n => n == w || boundOk (boundsWith s w v) n (mgmtStaged s n))

/-- The AMC commits a bound it has accepted, with the words as it wrote them (R29, R504); a lower deepest state is in effect at once (R562), every other
bound at the next quoin period. -/
def setBound (s : State) (w v : Nat) : State :=
  let c := s.cfg
  let words := setD c.mgmtStaged w v (mgmtDefault w)
  let s := { s with cfg := { c with
    mgmtStaged := words, mgmtCommitted := words
    commitAt := put c.commitAt 2 s.clk.aon, seq := put c.seq 2 (lkD c.seq 2 0 + 1) } }
  let r := mgmtCheck (mgmtCommitted s)
  let s := setRefCommitted (setRefStaged s 2 r) 2 r
  if w = 0 && decide (v < lkD s.cfg.mgmtEff 0 (mgmtDefault 0)) then
    enforceDeepest { s with cfg := { s.cfg with mgmtEff := setD s.cfg.mgmtEff 0 v (mgmtDefault 0) } }
  else s

/-- SET_POWER_PERMIT. -/
def setPermit (s : State) (_f : Nat) (b : List Byte) : MOut :=
  let v := leAt b 8 1 % 4
  checked [(v == 0, 0x12, 8)] (.ok [] (enforceDeepest { s with pwr := { s.pwr with permit := v } }) true)

def execSetPowerPermit (f : Fn) (s : State) : Host.Outcome State Fault Refusal := .next (runShort s f.val 0x700 setPermit)

/-- SET_LOOP_BOUNDS. -/
def setLoopBounds (s : State) (_f : Nat) (b : List Byte) : MOut :=
  let w := leAt b 8 1
  let v := leAt b 0x0C 4
  checked [(decide (6 < w), 0x12, 8), amcUp s, (!boundAccepted s w v, 0x12, 0x0C)] (.ok [] (setBound s w v) false)

def execSetLoopBounds (f : Fn) (s : State) : Host.Outcome State Fault Refusal := .next (runShort s f.val 0x701 setLoopBounds)

/-- GET_LOOP_BOUNDS: the 22 committed words. -/
def getLoopBounds (s : State) (_f : Nat) (_b : List Byte) : MOut :=
  .ok ((List.range 22).flatMap (fun w => leBytes 4 (mgmtCommitted s w))) s false

def execGetLoopBounds (f : Fn) (s : State) : Host.Outcome State Fault Refusal := .next (runShort s f.val 0x702 getLoopBounds)

end Sys2Proof.Machine
end

