-- ==== Sys2Proof/Machine/Copy.lean ====
section
/-! DEFINITION. COPY and PREFETCH_HINT (10.6, 10.7), and the owner's side of COPY space 2: CP_RD, CP_DATA, CP_WR and
CP_WACK. A mark of a message stands for one aligned 64-byte burst of the address that the message names. -/

namespace Sys2Proof.Machine

/-! ### Ends of a copy (R298) -/

/-- The address of an element, in its own space. -/
def elemAddr (p : Pattern) (e : Nat) : Nat :=
  if isWindow p.base then 2 ^ 63 + ((windowVa p.base : Int) + p.off e).toNat else ((p.base : Int) + p.off e).toNat

/-- The pages of a table's storage on this device, in order: owner's shard and replicas by ascending shard. -/
def Table.storage (t : Table) : List PLoc := t.stores.flatMap (·.pages)

/-- Read n bytes of a table's storage at an offset. -/
def storeRead (c : Ctx) (t : Table) (off n : Nat) : Ev (List PB) :=
  (Ev.all ((pieces 65536 off n).map (fun (o, a, l) =>
    match t.storage[a / 65536]? with
    | none => walkFault 2 o
    | some (.dev p) => .ok (devRead c.s (p * 65536 + a % 65536) l) [⟨p * 65536 + a % 65536, l⟩]
    | some (.host f h) => ((hostRead { c with fn := f } (h + a % 65536) l).shift o).bind
        (fun b => .ok b [⟨spillBase + (h + a % 65536), l⟩])))).bind fun l => .pure l.flatten

/-- Write bytes into a table's storage at an offset. -/
def storeWrite (c : Ctx) (t : Table) (off : Nat) (b : List Byte) (poison : Bool) : Ev (List OutW) :=
  (Ev.all ((pieces 65536 off b.length).map (fun (o, a, l) =>
    match t.storage[a / 65536]? with
    | none => walkFault 2 o
    | some (.dev p) => .pure [OutW.dev (p * 65536 + a % 65536) (slice b o l) poison]
    | some (.host f h) => if poison then .pure [] else
        (hostWrite { c with fn := f } (h + a % 65536) (slice b o l) false).shift o))).bind
    fun l => .pure l.flatten

/-- The table of a space-1 end (R298), or the DETAIL of TS_DENIED. -/
def copyTable (s : State) (i p h : Nat) (isDst : Bool) : Except Nat Table :=
  match lk s.tables h with
  | some t => if t.owner = p then .ok (viewOf t i) else .error (if isDst && isShared s p h then 2 else 1)
  | none => .error 1

/-- Marks of the bursts that [a, a + n) touches, from bytes with marks. -/
def burstMarks (a : Nat) (b : List PB) : List Bool :=
  (pieces 64 a b.length).map (fun (o, _, l) => ((b.drop o).take l).any (·.bad))

/-- Bytes with the marks of the bursts of the address they are at. -/
def withMarks (a : Nat) (b : List Byte) (m : List Bool) : List PB :=
  b.zipIdx.map (fun (x, k) => ⟨x, m.getD ((a + k) / 64 - a / 64) false⟩)

/-- The maximal runs of equal marks: offset, bytes, mark. -/
def markRuns : Nat → List PB → List (Nat × List Byte × Bool)
  | _, [] => []
  | o, x :: t =>
    match markRuns (o + 1) t with
    | (o', b, m) :: r => if m = x.bad then (o, x.b :: b, m) :: r else (o, [x.b], x.bad) :: (o', b, m) :: r
    | [] => [(o, [x.b], x.bad)]

/-- The exchange keys of an element's remote read and remote write. -/
def cpRdKey (e : Nat) : Nat := 2 * e
def cpWrKey (e : Nat) : Nat := 2 * e + 1

/-- What an exchange of element e has come to: its last answer, or the need to wait for one. -/
def cpAnswer (c : Ctx) (key dst e : Nat) (b : MsgBody) : Ev MsgBody :=
  match lk c.ex key with
  | none => .need [.msg key dst b]
  | some x =>
    match x.answers.getLast? with
    | some a => .pure a
    | none => if x.why = 1 ∨ x.why = 2 then .stop ⟨0x16, x.why, e, 0, 0⟩ [] else .need [.msg key dst b]

/-- What an owner's DETAIL says of a remote end: 0 done, 1 denied, 2 unmapped at a byte of the element. -/
def cpDetail (d e : Nat) : Ev Unit :=
  if d % 256 = 0 then .pure () else if d % 256 = 1 then .stop ⟨0x11, 1, e, 0, 0⟩ [] else walkFault 2 (d / 256)

/-- Element e of the source, for spaces 0 to 2. -/
def copySrc (c : Ctx) (p : Pattern) (src peer e : Nat) : Ev (List PB) :=
  match src with
  | 0 => readAt c (elemAddr p e) p.elem
  | 1 =>
    match copyTable c.s c.strm c.part peer false with
    | .ok t => storeRead c t (elemAddr p e) p.elem
    | .error d => .stop ⟨0x11, d, 0, 0, 0⟩ []
  | _ =>
    let a := elemAddr p e
    (cpAnswer c (cpRdKey e) (peer % 64) e (.cpRd 0 a p.elem)).bind fun m =>
      match m with
      | .cpData _ d b marks => (cpDetail d e).bind fun _ => .pure (withMarks a (slice b 0 p.elem) marks)
      | _ => .pure []

/-- The writes of element e at the destination, for spaces 0 to 2. -/
def copyDst (c : Ctx) (p : Pattern) (dst peer d e : Nat) (b : List PB) : Ev (List OutW) :=
  match dst with
  | 0 =>
    let a := addrAdd d (e * p.elem)
    (Ev.all ((markRuns 0 b).map (fun (o, x, m) =>
      if m && !isWindow a then .pure [] else (writeAt c (addrAdd a o) x m).shift o))).bind fun l => .pure l.flatten
  | 1 =>
    match copyTable c.s c.strm c.part peer true with
    | .ok t => (Ev.all ((markRuns 0 b).map (fun (o, x, m) => (storeWrite c t (d + e * p.elem + o) x m).shift o))).bind
        fun l => .pure l.flatten
    | .error k => .stop ⟨0x11, k, 0, 0, 0⟩ []
  | _ =>
    let a := addrAdd d (e * p.elem)
    (cpAnswer c (cpWrKey e) (peer % 64) e (.cpWr 0 a (pbBytes b) (burstMarks a b))).bind fun m =>
      match m with
      | .cpWack _ k => (cpDetail k e).bind fun _ => .pure []
      | _ => .pure []

/-- Element e, moved: its marked bytes and its writes. A fault names walk 0 or walk 1 (R301, R302). -/
def copyElem (c : Ctx) (p : Pattern) (src dst peer d e : Nat) : Ev (List PB × List OutW) :=
  ((copySrc c p src peer e).at_ e (fun o => (o, p.coord 0 e))).bind fun b =>
    ((copyDst c p dst peer d e b).at_ e (fun o => (o, 2 ^ 60 + p.coord 0 e))).bind fun w => .pure (b, w)

/-! ### Chains (10.6.2) -/

/-- The cells of the next whole record that a chain's consumer has not read. -/
def nextRecord (s : State) (q : Nat) : Option Nat :=
  match gq s q with
  | none => none
  | some x =>
    if x.val 2 = qEnd then none
    else match walkCells s q qEnd (x.val 3) 65537 (x.val 2) with
      | .ok l => (l.findIdx? (fun e => e.2.last)).map (· + 1)
      | .error _ => some 1

/-- Read n cells of a queue: what they delivered, each byte with its sector's mark (R254). -/
def readCells (s : State) (q n : Nat) : List PB × State :=
  let k := s.gal.reads.length
  let s := (List.range n).foldl (fun s _ => readOp s q) s
  ((s.gal.reads.drop k).flatMap (fun r =>
    ((r.words.flatMap (fun w => leBytes 8 w.toNat)).take r.len).zipIdx.map
      (fun (b, j) => ⟨b, bitOf r.poison (j / 64)⟩)), s)

/-- Words of a cell from bytes, and the poison bits of its sectors. -/
def cellWords (b : List PB) : List W64 := (chunks 8 b).map (fun x => BitVec.ofNat 64 (leNat (pbBytes x)))
def cellPoison (b : List PB) : Nat := ((chunks 64 b).zipIdx.map (fun (x, i) => if pbBad x then 2 ^ i else 0)).sum

/-- Link a record's cells into a chain (R256, R258), and whether all of them were linked: where one must wait for a cell,
none is linked yet, and the request waits. -/
def linkRecord (s : State) (q : Nat) (b : List PB) : Bool × State :=
  let cs := chunks 256 b
  let n := cs.length
  cs.zipIdx.foldl (fun (r : Bool × State) (x, k) =>
    if !r.1 then r
    else
      let s' := enq r.2 q (cellWords x) (k + 1 == n) (cellPoison x)
      if (gq s' q).map (·.wcount) != (gq r.2 q).map (·.wcount) then (true, s')
      else if s'.gal.waiting.any (fun w => w.q == q) then
        (false, match gq s q with | some x => waitCell s q x | none => s)
      else (false, s')) (true, s)

/-- The task goes on later, unless it has ended meanwhile. -/
def holdTask (s : State) (i : Nat) (t : TaskRun) : State :=
  match (stream s i).task with
  | some x => if x.done.isSome then s else setTask s i t
  | none => s

/-! ### COPY (R299) -/

/-- The fields of a COPY. -/
def cpSrc (t : TaskRun) : Nat := t.u32 8 % 4
def cpDst (t : TaskRun) : Nat := t.u32 8 / 4 % 4

/-- The chains a COPY ends on are closed (R261, R263): RELEASE, or REWIND under task discipline after an abort; TRIM of a
chain that an aborted task was producing into. -/
def closeCopy (s : State) (i : Nat) (t : TaskRun) (status : Nat) : State :=
  let s := if cpSrc t = 3 then
      match chainIn s i with
      | some j => if chainTask s i && 16 ≤ status then rewindOp s (0x200 + j) else releaseOp s (0x200 + j)
      | none => s
    else s
  if cpDst t = 3 && 16 ≤ status then
    match chainOut s i with
    | some j => trimOp s (0x200 + j)
    | none => s
  else s

/-- A COPY ends, with its poison flag and the record of R486. -/
def endCopy (s : State) (i : Nat) (t : TaskRun) (r : Rec) : State :=
  let s := closeCopy s i t r.status
  let s := if t.poison then postTask s i t 0x0601 4 0 (t.result + 2 ^ 32 * t.total) (2 ^ 64 - 1) 0 else s
  let r := { r with poison := t.poison }
  endTask s i t (if r.status = 0 && t.poison then { r with status := 2 } else r)

/-- Element e is done: its poison is noted, and its exchanges are forgotten. -/
def elemDone (t : TaskRun) (e : Nat) (b : List PB) (reads : Nat) : TaskRun :=
  let bad := pbBad b
  { t with
    progress := e + 1, base := t.base + reads, ex := del (del t.ex (cpRdKey e)) (cpWrKey e)
    poison := t.poison || bad, result := if bad && !t.poison then e else t.result, total := t.total + b2n bad }

/-- The needs of the elements after the one that waits, as far ahead as DEPTH lets the walk run. -/
def aheadNeeds (c : Ctx) (p : Pattern) (src dst peer d : Nat) : Nat → Nat → List Need
  | 0, _ => []
  | n + 1, e =>
    if p.size ≤ e then []
    else match copyElem c p src dst peer d e with
      | .need l => l ++ aheadNeeds c p src dst peer d n (e + 1)
      | .ok _ _ => aheadNeeds c p src dst peer d n (e + 1)
      | .stop _ _ => []

/-- Move elements from a memory or remote source to a memory or remote destination until one has to wait. -/
def copyElems (i : Nat) (p : Pattern) (src dst peer d depth : Nat) : Nat → TaskRun → State → State
  | 0, t, s => setTask s i t
  | n + 1, t, s =>
    let e := t.progress
    if p.size ≤ e then endCopy s i t (Rec.ok e 0 0)
    else
      let c := taskCtx s i t
      match copyElem c p src dst peer d e with
      | .need l => issueNeeds s i t (l ++ aheadNeeds c p src dst peer d depth (e + 1))
      | .stop x _ => endCopy s i t (Rec.abort x.status x.detail (if x.status = 0x11 then 0 else e) x.pos x.coord)
      | .ok (b, w) tr =>
        match chargeReads s i t tr with
        | (false, t, s) => setTask s i t
        | (true, t, s) =>
          let s := noteTrace s .task (t.returned.map (· - t.base)) tr
          let s := doWrites s c.fn w
          copyElems i p src dst peer d depth n (elemDone t e b (readsOf tr).length) s

/-- Move elements from a memory source into the OUT chain. -/
def copyToChain (i : Nat) (p : Pattern) (src peer q : Nat) : Nat → TaskRun → State → State
  | 0, t, s => setTask s i t
  | n + 1, t, s =>
    let e := t.progress
    if p.size ≤ e then endCopy s i t (Rec.ok e 0 0)
    else
      let c := taskCtx s i t
      match (copySrc c p src peer e).at_ e (fun o => (o, p.coord 0 e)) with
      | .need l => issueNeeds s i t l
      | .stop x _ => endCopy s i t (Rec.abort x.status x.detail (if x.status = 0x11 then 0 else e) x.pos x.coord)
      | .ok b tr =>
        match chargeReads s i t tr with
        | (false, t, s) => setTask s i t
        | (true, t, s) =>
          match linkRecord s q b with
          | (false, s) => holdTask s i t
          | (true, s) =>
            match (stream s i).task with
            | some x =>
              if x.done.isSome then s
              else copyToChain i p src peer q n (elemDone t e b (readsOf tr).length)
                (noteTrace s .task (t.returned.map (· - t.base)) tr)
            | none => s

/-- Move records of the IN chain to a destination (R261, R296). -/
def copyFromChain (i : Nat) (p : Pattern) (dst peer d q : Nat) (task : Bool) (out : Option Nat) :
    Nat → TaskRun → State → State
  | 0, t, s => setTask s i t
  | n + 1, t, s =>
    let e := t.progress
    if p.size ≤ e then endCopy s i t (Rec.ok e 0 0)
    else
      -- the record of element e: already held in the task's landing place, or read now
      let got : Option (List PB × TaskRun × State) :=
        match lk t.land e with
        | some (.data b) => some ((chunks 2 b).map (fun x => ⟨x.getD 0 0, x.getD 1 0 != 0⟩), t, s)
        | _ =>
          match nextRecord s q with
          | none => none
          | some k =>
            let s := if task then s else if e = 0 then markOp s q else releaseMarkOp (markOp s q) q
            let (b, s) := readCells s q k
            let b := b.take p.elem ++ List.replicate (p.elem - b.length) ⟨0, false⟩
            some (b, { t with land := put t.land e (.data (b.flatMap (fun x => [x.b, BitVec.ofNat 8 (b2n x.bad)]))) }, s)
      match got with
      | none => setTask s i t
      | some (b, t, s) =>
        match (stream s i).task with
        | none => s
        | some x =>
          if x.done.isSome then s
          else match out with
          | some o =>
            (match linkRecord s (0x200 + o) b with
             | (false, s) => holdTask s i t
             | (true, s) => copyFromChain i p dst peer d q task out n { elemDone t e b 0 with land := [] } s)
          | none =>
            match (copyDst (taskCtx s i t) p dst peer d e b).at_ e (fun o => (o, 2 ^ 60 + p.coord 0 e)) with
            | .need l => issueNeeds s i t l
            | .stop x _ => endCopy s i t (Rec.abort x.status x.detail (if x.status = 0x11 then 0 else e) x.pos x.coord)
            | .ok w _ =>
              let s := doWrites s (streamFn s i) w
              copyFromChain i p dst peer d q task out n { elemDone t e b 0 with land := [] } s

/-- TS_DENIED of a space-1 end, before any element moves (R298). -/
def copyDenied (s : State) (i : Nat) (t : TaskRun) : Option Nat :=
  let p := streamPart s i
  let d (isDst : Bool) : Option Nat := match copyTable s i p (t.u32 0x0C) isDst with | .error k => some k | .ok _ => none
  if cpSrc t = 1 then d false else if cpDst t = 1 then d true else none

/-- Bring a COPY as far as what has landed, its chains and the quoin allow. -/
def copyRun (s : State) (i : Nat) : State :=
  match runningTask s i 8 with
  | none => s
  | some t =>
    let p := patternOf t.desc
    let src := cpSrc t; let dst := cpDst t; let peer := t.u32 0x0C; let d := t.u64 0x18
    match copyDenied s i t with
    | some k => endCopy s i t (Rec.abort 0x11 k 0 0 0)
    | none =>
      if (src == 3 || dst == 3) && !runs s 0 then demandOn s 0
      else if src = 3 then
        match chainIn s i with
        | none => s
        | some j =>
          let task := chainTask s i
          let (t, s) := if task && t.passes == 0 then ({ t with passes := 1 }, markOp s (0x200 + j)) else (t, s)
          copyFromChain i p dst peer d (0x200 + j) task (if dst = 3 then chainOut s i else none) (p.size + 1) t s
      else if dst = 3 then
        match chainOut s i with
        | none => s
        | some j => copyToChain i p src peer (0x200 + j) (p.size + 1) t s
      else copyElems i p src dst peer d (strEff s i 0x30 % 1024) (p.size + 1) t s

/-- COPY (R299). -/
def execCopy (i : SId) (s : State) : Host.Outcome State Fault Refusal := .next (copyRun s i.val)

/-! ### PREFETCH_HINT (R300) -/

/-- The 4 KiB host pages that element e touches. -/
def elemPages (p : Pattern) (e : Nat) : List Nat := (pieces 4096 (elemAddr p e) p.elem).map (fun (_, a, _) => a / 4096)

/-- Ask for the translations of the walk; end once all have answered. -/
def prefetchRun (s : State) (i : Nat) : State :=
  match runningTask s i 10 with
  | none => s
  | some t =>
    let p := patternOf t.desc
    let f := streamFn s i
    let finish (s : State) (refused coord : Nat) : State :=
      let s := setStream s i { stream s i with holdUntil := s.clk.aon + t.u32 0x0C % 65536 * usT }
      endTask s i t (Rec.ok p.size refused coord)
    if isWindow p.base || !atsOn s f then finish s 0 (2 ^ 64 - 1)
    else
      let pages := (List.range p.size).map (fun e => (e, elemPages p e))
      let open_ := (pages.flatMap (·.2)).filter (fun g => !has s.hif.ats (atsKey f g))
      if !open_.isEmpty then issueNeeds s i t (open_.map (Need.ats f))
      else
        let no (g : Nat) : Bool := lk s.hif.ats (atsKey f g) == some false
        let refused := (pages.map (fun x => (x.2.filter no).length)).sum
        match pages.find? (fun x => x.2.any no) with
        | some (e, _) => finish s refused (p.coord 0 e)
        | none => finish s 0 (2 ^ 64 - 1)

/-- PREFETCH_HINT. -/
def execPrefetchHint (i : SId) (s : State) : Host.Outcome State Fault Refusal := .next (prefetchRun s i.val)

end Sys2Proof.Machine
end

