-- ==== Sys2Proof/Machine/Ledger.lean ====
section
/-! DEFINITION. Ledgers and Platens (12.3, 12.4, 15.4): entries and their slots (R340), claims (R341, R433), the
conversion of contributions (R338, R339), adds (R342), and what an owner answers (R344, R345, R347). -/

namespace Sys2Proof.Machine

/-! ### Entries -/

/-- CAPE (R340). -/
def Table.cape (t : Table) : Nat := 2 ^ t.ledgerLog2 - 2 ^ t.ledgerLog2 / 8

/-- The home slot of a row. -/
def Table.homeSlot (t : Table) (r : Nat) : Nat := r * 0x9D2C56801B3E6F47 % 2 ^ 64 / 2 ^ (64 - t.ledgerLog2)

/-- The device-physical address of a byte of the ledger's space. -/
def ledPa (t : Table) (off : Nat) : Nat := t.ledger.getD (off / 65536) 0 * 65536 + off % 65536

/-- A burst of the ledger, and the channel that serves it. -/
def ledBurst (s : State) (t : Table) (off : Nat) : BRead :=
  let pa := ledPa t off
  pageBurst s (pa / 65536) (pa % 65536 / 256) (pa % 256 / 64)
def ledChan (s : State) (t : Table) (off : Nat) : Nat :=
  let pa := ledPa t off
  match slugLoc s (pa / 65536) (pa % 65536 / 256) with
  | .at_ c _ => c
  | .failed c => c
  | .gone c => c

/-- Write bytes of the ledger, burst by burst. -/
def ledWrite (s : State) (t : Table) (off : Nat) (b : List Byte) (poison : Bool) : State :=
  (List.range (cdiv b.length 64)).foldl (fun s j => memWrite s (ledPa t (off + 64 * j)) (slice b (64 * j) 64) poison) s

/-- Header fields (Table 12.3). -/
def hdrRow (b : List Byte) : Nat := leAt b 0 5
def hdrUsed (b : List Byte) : Bool := bitOf (leAt b 0 8) 40
def hdrSat (b : List Byte) : Bool := bitOf (leAt b 0 8) 41
def hdrMag (b : List Byte) : Nat := leAt b 8 8

/-- Keys of the Platen registers (Table 12.6). -/
def pltKey (o : Nat) : Nat := rk2 (0x70000 + o)

/-! ### Claims (R341) -/

/-- Where a walk of a probe sequence ends: the slot, whether it holds the row, and the slots walked. -/
def probe (s : State) (t : Table) (r : Nat) : Nat → Nat → Nat → Option (Nat × Bool × Nat)
  | 0, _, _ => none
  | n + 1, i, w =>
    let b := ledBurst s t (i * t.leb)
    let next := probe s t r n ((i + 1) % 2 ^ t.ledgerLog2) (w + 1)
    if b.kind.bad then next
    else if !hdrUsed b.bytes then some (i, false, w + 1)
    else if hdrRow b.bytes = r then some (i, true, w + 1)
    else next

/-- The probe of a row from its home slot. -/
def probeRow (s : State) (t : Table) (r : Nat) : Option (Nat × Bool × Nat) :=
  probe s t r (2 ^ t.ledgerLog2) (t.homeSlot r) 0

/-- A count rises to at least v. -/
def cntMax (s : State) (k v : Nat) : State :=
  if cnt s k < v then { s with cfg := { s.cfg with cnt := put s.cfg.cnt k v } } else s

/-- Claim one row: found, or inserted with every other byte zero. -/
def claimRow (s : State) (h r : Nat) : State :=
  match lk s.tables h with
  | none => s
  | some t =>
    match probeRow s t r with
    | none => s
    | some (i, found, w) =>
      let c := ledChan s t (i * t.leb)
      let s := cntMax s (pltKey (0x0C + 16 * c)) w
      if found then s
      else
        let s := ledWrite s t (i * t.leb) (slice (leBytes 8 (r + 2 ^ 40)) 0 t.leb) false
        cntAdd (setTable s { t with used := t.used + 1 }) (pltKey (0x08 + 16 * c)) 1

/-! ### Contributions (R338, R339) -/

/-- The contribution of one occurrence. -/
def contrib (mode pooled : Nat) (wt : W32) (g : W32) : W32 :=
  match mode with
  | 1 => fDiv g (f32ofInt pooled)
  | 2 => fMul wt g
  | _ => g

/-- An element as a Platen converts it: its fixed-point value, and its magnitude, 2^32 for NaN and infinity. -/
def toFixed (frac : Nat) (c : W32) : Int × Nat :=
  match f32 c with
  | .fin s m e =>
    let b := fvToInt (.fin s m (e + frac))
    (clampI b (-(2 ^ 31)) (2 ^ 31 - 1), b.natAbs)
  | _ => (0, 2 ^ 32)

/-- A contribution in fixed point. -/
def platen (frac row : Nat) (c : List W32) : SaAdd :=
  let l := c.map (toFixed frac)
  ⟨row, l.map (fun x => BitVec.ofNat 32 (twos 32 x.1)), min (2 ^ 32) ((l.map (·.2)).foldl max 0)⟩

/-- Every contribution of a claim, in sublist order. -/
def claimAdds (t : Table) (b : SaClaim) : List SaAdd :=
  let z := fmtSize b.gradFmt
  let g := (List.range t.d).map (fun k => inVal b.gradFmt (slice b.grad (z * k) z))
  b.rows.zipIdx.map (fun (r, i) =>
    platen t.frac r (g.map (contrib b.mode b.pooled (f16to32 (b.wts.getD i 0)))))

/-! ### Adds (R342) -/

/-- The bytes of an entry after an add. -/
def addBytes (t : Table) (e : List Byte) (x : SaAdd) : List Byte :=
  let mag := min (hdrMag e + x.m) (2 ^ 64 - 1)
  let sat := hdrSat e || decide (2 ^ 31 ≤ mag)
  slice (leBytes 8 (hdrRow e + 2 ^ 40 + 2 ^ 41 * b2n sat) ++ leBytes 8 mag ++
    (List.range t.d).flatMap (fun k =>
      leBytes 4 ((leAt e (16 + 4 * k) 4 + (x.a.getD k 0).toNat) % 2 ^ 32))) 0 t.leb

/-- One add: whether the row is saturated now, and whether a burst was poisoned or dropped. -/
def addRowTo (s : State) (h : Nat) (x : SaAdd) : Bool × Bool × State :=
  match lk s.tables h with
  | none => (false, false, s)
  | some t =>
    match probeRow s t x.row with
    | some (i, true, _) =>
      let base := i * t.leb
      let n := t.leb / 64
      let bs := (List.range n).map (fun j => ledBurst s t (base + 64 * j))
      let e := bs.flatMap (fun b => slice b.bytes 0 64)
      let new := addBytes t e x
      let s := (List.range n).foldl (fun s j =>
        let bad := match bs[j]? with | some b => b.kind.bad | none => false
        let s := cntAdd s (pltKey (16 * ledChan s t (base + 64 * j))) 1
        ledWrite s t (base + 64 * j) (slice new (64 * j) 64) bad) s
      let sat := hdrSat new
      (sat, bs.any (·.kind.bad), if sat && !hdrSat e then cntAdd s (pltKey 0x404) 1 else s)
    | _ => (false, true, s)

/-- The adds of a claim, in order. -/
def addAll (s : State) (h : Nat) : List SaAdd → Bool × Bool × State
  | [] => (false, false, s)
  | x :: l =>
    let (a, b, s) := addRowTo s h x
    let (a', b', s) := addAll s h l
    (a || a', b || b', s)

/-! ### The owner's side (R344, R345, R347, R433) -/

/-- Cells that a claim's staged contributions take. -/
def claimCells (t : Table) (n : Nat) : Nat := n * cdiv (4 * t.d + 8) 256

/-- Whether those cells can be granted at once: from the partition's reservation or the shared pool, within GAL_MAX. -/
def claimRoom (s : State) (p n : Nat) : Bool :=
  let q := (part s p).q
  let held := lkD s.gal.held p 0
  if p < 32 then decide (held + n ≤ q.galMax) && decide (n ≤ (q.galRes - lkD s.gal.resCh p 0) + sharedFree s)
  else decide (n ≤ sharedFree s)

/-- SA_WAITING: the requester's device joins the ledger's waiting mask. -/
def claimWaits (s : State) (t : Table) (dev req why : Nat) : MsgBody × State :=
  (.saWaiting (BitVec.ofNat 32 req) (BitVec.ofNat 2 why),
    cntAdd (setTable s { t with mask := t.mask ||| (1#64 <<< dev) }) (pltKey 0x400) 1)

/-- An owner takes a claim: it answers SA_DENIED, SA_WAITING or SA_CLAIMED. -/
def ownerClaim (s : State) (dev p req : Nat) (b : SaClaim) : MsgBody × State :=
  let r := BitVec.ofNat 32 req
  match servedTable s p b.handle.toNat b.descCheck with
  | none => (.saDenied r, s)
  | some t =>
    if !t.placed || t.train = 0 then (.saDenied r, s)
    else if t.gateClosed then claimWaits s t dev req 2
    else if t.cape < t.used + b.rows.length then claimWaits s t dev req 1
    else if !claimRoom s p (claimCells t b.rows.length) then claimWaits s t dev req 0
    else
      let s := b.rows.foldl (fun s r => claimRow s t.handle r) s
      match lk s.tables t.handle with
      | none => (.saDenied r, s)
      | some t' => (.saClaimed r, setTable s { t' with claims := t'.claims ++ [⟨dev, req, claimAdds t b⟩] })

/-- The table and the claim of a request. -/
def claimOf (s : State) (dev req : Nat) : Option (Table × Claim) :=
  s.tables.findSome? (fun e => (e.2.claims.find? (fun c => c.dev == dev && c.req == req)).map (fun c => (e.2, c)))

/-- The bag's staged contributions are discarded. -/
def ownerUnclaim (s : State) (dev req : Nat) : State :=
  { s with tables := s.tables.map (fun e =>
      (e.1, { e.2 with claims := e.2.claims.filter (fun c => !(c.dev == dev && c.req == req)) })) }

/-- Every staged contribution of the bag is added: saturation and poison met, and how many there were. -/
def ownerApply (s : State) (dev req : Nat) : Option (Bool × Bool × Nat × State) :=
  match claimOf s dev req with
  | none => none
  | some (t, c) =>
    let (sat, bad, s) := addAll s t.handle c.adds
    some (sat, bad, c.adds.length, ownerUnclaim s dev req)

end Sys2Proof.Machine
end

