-- ==== Sys2Proof/Machine/Scatter.lean ====
section
/-! DEFINITION. SCATTER_ADD at the requester (12.2, 12.5): staging and classing of bags (R335 to R337), claims in bag
order, the whole-bag rule (R345), the ledger-wait timer (R347), partial bags (R348), and the scatter messages (Table
12.4). -/

namespace Sys2Proof.Machine

/-! ### Staging (R335 to R337) -/

/-- The body of SCATTER_ADD (Table 12.1). -/
structure SBody where
  handle : Nat
  mode : Nat
  fmt : Nat
  stride4 : Nat
  nbags : Nat
  wait : Nat
  grad : Nat
deriving DecidableEq, Repr

def sBody (d : List Byte) : SBody :=
  let w := leAt d 0x0C 4
  { handle := leAt d 8 4, mode := w % 4, fmt := w / 4 % 4, stride4 := w / 65536, nbags := leAt d 0x10 4 % 2 ^ 21
    wait := leAt d 0x14 4 / 2 ^ 22, grad := leAt d 0x30 8 }

/-- Bytes of a gradient vector, and their stride. -/
def gradBytes (t : Table) (b : SBody) : Nat := t.d * fmtSize b.fmt
def gradStride (t : Table) (b : SBody) : Nat := if b.stride4 = 0 then gradBytes t b else 4 * b.stride4

/-- WAIT_MS in AON periods. -/
def waitLimit (b : SBody) : Nat := (if b.wait = 0 then 100 else b.wait) * msT

/-- A staged bag: the sublist of each shard, POOLED, the entries dropped, the gradient, and whether it is poisoned. -/
structure SaBag where
  subs : List (Nat × List Ent)
  pooled : Nat
  dropped : Nat
  grad : List Byte
  poison : Bool
deriving DecidableEq, Repr

/-- Staging need in galley cells (R335). -/
def stageCells (n mode gbytes : Nat) : Nat :=
  cdiv (8 * n) 256 + (if mode = 2 then cdiv (2 * n) 256 else 0) + cdiv gbytes 256

/-- GAL_MAX of a partition number. -/
def galMaxOf (s : State) (p : Nat) : Nat := if p < 32 then (part s p).q.galMax else 65536

/-- Whether a shard's owner holds the table PLACED, as its grant reported (R334). -/
def shardPlaced (c : Ctx) (t : Table) (shard : Nat) : Bool :=
  let d := (t.shardEnt shard).device
  if d = me c.s then t.placed
  else match lk c.ex d with
    | some e => e.answers.any (fun m => match m with | .grantAns _ ok p => ok && p | _ => false)
    | none => false

/-- A list that may hold poisoned sectors, which a bag reports as such (R337). -/
def stageRead (c : Ctx) (a n b walk pos elem : Nat) : Ev (List PB) :=
  (readAt c a n).at_ b (fun o => (o % elem, coordAt walk (pos + o / elem)))

/-- Stage bag b, whose n entries start at list position off. -/
def saBag (c : Ctx) (t : Table) (g : SBody) (l : GBody) (b off n : Nat) : Ev SaBag :=
  if galMaxOf c.s c.part < stageCells n g.mode (gradBytes t g) then .stop ⟨0x12, 0, b, 0xFFFFFFFF, coordAt 1 b⟩ []
  else
    (stageRead c (addrAdd l.idx (8 * off)) (8 * n) b 0 off 8).bind fun x =>
    (if g.mode = 2 then stageRead c (addrAdd l.wgt (2 * off)) (2 * n) b 2 off 2 else .pure []).bind fun w =>
    (stageRead c (addrAdd g.grad (b * gradStride t g)) (gradBytes t g) b 3 b (gradBytes t g)).bind fun gr =>
    let ents := (List.range n).map (fun i => (⟨i, leAt (pbBytes x) (8 * i) 5,
      f16to32 (BitVec.ofNat 16 (leAt (pbBytes w) (2 * i) 2))⟩ : Ent))
    let ents := ents.filter (fun e => e.row != sentinel)
    let gone (e : Ent) : Bool := decide (t.rows ≤ e.row) || !shardPlaced c t (t.place e.row).1
    let bad := pbBad x || pbBad w || pbBad gr
    match (if t.policy = 1 && !bad then ents.find? gone else none) with
    | some e => .stop ⟨0x12, 0, b, e.pos, coordAt 0 (off + e.pos)⟩ []
    | none =>
      let live := ents.filter (fun e => !gone e)
      let subs := ((List.range t.nshard).map (fun i => (i, live.filter (fun e => (t.place e.row).1 == i)))).filter
        (fun e => !e.2.isEmpty)
      .pure ⟨if bad then [] else subs, live.length, if bad then 0 else ents.length - live.length, pbBytes gr, bad⟩

/-- How a scatter task's staging stands. -/
inductive SOut where
  | need (l : List Need)
  | staged (bags : List SaBag) (stop : Option Stop) (tr : List Acc)
deriving Repr

/-- Stage bags b to b + k − 1. -/
def saBags (c : Ctx) (t : Table) (g : SBody) (l : GBody) : Nat → Nat → Nat → SOut
  | 0, _, _ => .staged [] none []
  | k + 1, b, off =>
    match (bagLen c l b off).bind fun n => (saBag c t g l b off n).bind fun x => .pure (n, x) with
    | .need q => .need q
    | .stop e tr => .staged [] (some e) tr
    | .ok (n, x) tr =>
      match saBags c t g l k (b + 1) (off + n) with
      | .need q => .need q
      | .staged bs e tr' => .staged (x :: bs) e (tr ++ tr')

/-- Evaluate the staging of a task: the grants first (R334). -/
def saEval (c : Ctx) (t : Table) (d : List Byte) : SOut :=
  let g := sBody d
  match tableGrants c t with
  | .need q => .need q
  | .stop e tr => .staged [] (some e) tr
  | .ok _ tr =>
    match saBags c t g (gBody d) g.nbags 0 0 with
    | .need q => .need q
    | .staged bs e tr' => .staged bs e (tr ++ tr')

/-! ### Claims and applies (R344, R345) -/

/-- The key of the exchange of a bag and a shard. -/
def saKey (b shard : Nat) : Nat := 2 ^ 20 + b * 64 + shard

/-- Whether SA_APPLY has been sent on an exchange, and the last answer's meaning. -/
def Exch.applying (e : Exch) : Bool := match e.body with | .saApply _ => true | _ => false
def Exch.lastAns (e : Exch) : Option MsgBody := e.answers.getLast?
def Exch.claimed (e : Exch) : Bool :=
  e.applying || (e.why != 1 && e.why != 2 && (match e.lastAns with | some (.saClaimed _) => true | _ => false))
def Exch.applied (e : Exch) : Bool := match e.lastAns with | some (.saApplied _) => true | _ => false
def Exch.waits (e : Exch) : Bool := match e.lastAns with | some (.saWaiting ..) => true | _ => false
def Exch.denied (e : Exch) : Bool := match e.lastAns with | some (.saDenied _) => true | _ => false

/-- The claim of a shard of a bag. -/
def saClaimBody (t : Table) (g : SBody) (x : SaBag) (l : List Ent) (req : Nat) : SaClaim :=
  { reqId := BitVec.ofNat 32 req, handle := BitVec.ofNat 32 g.handle, descCheck := t.descCheck, mode := g.mode
    gradFmt := g.fmt, pooled := x.pooled, rows := l.map (·.row)
    wts := if g.mode = 2 then l.map (fun e => f32to16 e.wt) else [], grad := x.grad }

/-- Take a claim here, or send it: the exchange as it then stands (R344). -/
def sendClaim (s : State) (i : Nat) (dev req : Nat) (b : SaClaim) : Exch × State :=
  if dev = me s then
    let (a, s) := ownerClaim s dev (streamPart s i) req b
    (⟨req, dev, .saClaim b, s.clk.timer, [a], 3⟩, s)
  else if !mayOpen s dev (match (stream s i).task with | some t => t.admitted | none => 0) then (⟨req, dev, .saClaim b, s.clk.timer, [], 2⟩, s)
  else (⟨req, dev, .saClaim b, s.clk.timer, [], 0⟩, sendMsg s dev (streamPart s i) (.saClaim b))

/-- The exchange of a bag and shard. -/
def saEx (t : TaskRun) (b shard : Nat) : Option Exch := lk t.ex (saKey b shard)

/-- Whether every earlier bag in progress has its claims on a device answered (R344). -/
def ownerReady (tb : Table) (t : TaskRun) (bags : List SaBag) (b dev : Nat) : Bool :=
  (List.range b).all (fun b' => decide (b' < t.progress) || (match bags[b']? with
    | some x => x.subs.all (fun (sh, _) => (tb.shardEnt sh).device != dev ||
        (match saEx t b' sh with | some e => e.claimed | none => false))
    | none => true))

/-- Send the claims of a bag that may be sent. -/
def claimBag (s : State) (i : Nat) (tb : Table) (g : SBody) (bags : List SaBag) (b : Nat) (t : TaskRun) : TaskRun × State :=
  match bags[b]? with
  | none => (t, s)
  | some x => x.subs.foldl (fun (t, s) (sh, l) =>
      let dev := (tb.shardEnt sh).device
      if has t.ex (saKey b sh) || !ownerReady tb t bags b dev then (t, s)
      else
        let (req, s) := newReq s
        let (e, s) := sendClaim s i dev req (saClaimBody tb g x l req)
        ({ t with ex := put t.ex (saKey b sh) e }, s)) (t, s)

/-- Whether every owner of a bag has claimed, and whether every one has been sent SA_APPLY, or has applied. -/
def bagAll (t : TaskRun) (bags : List SaBag) (b : Nat) (p : Exch → Bool) : Bool :=
  match bags[b]? with
  | some x => x.subs.all (fun (sh, _) => match saEx t b sh with | some e => p e | none => false)
  | none => false

/-- Send SA_APPLY of one exchange, or apply here. -/
def sendApply (s : State) (i : Nat) (e : Exch) (t : TaskRun) : Exch × TaskRun × State :=
  let r := BitVec.ofNat 32 e.reqId
  if e.dst = me s then
    match ownerApply s e.dst e.reqId with
    | some (sat, bad, _, s) =>
      ({ e with body := .saApply r, answers := [.saApplied r] }, { t with sat := t.sat || sat, poison := t.poison || bad }, s)
    | none => ({ e with body := .saApply r, answers := [.saApplied r] }, t, s)
  else
    ({ e with body := .saApply r, answers := [], last := s.clk.timer, why := if e.why = 3 then 0 else e.why }, t,
      sendMsg s e.dst (streamPart s i) (.saApply r))

/-- SA_APPLY to every owner of a bag, once every owner has claimed and every earlier bag has been sent its own. -/
def applyBag (s : State) (i : Nat) (bags : List SaBag) (b : Nat) (t : TaskRun) : TaskRun × State :=
  let earlier := (List.range b).all (fun b' => decide (b' < t.progress) || bagAll t bags b' Exch.applying)
  if earlier && bagAll t bags b Exch.claimed then
    match bags[b]? with
    | none => (t, s)
    | some x => x.subs.foldl (fun (t, s) (sh, _) =>
        match saEx t b sh with
        | some e =>
          if e.applying then (t, s)
          else
            let (e, t, s) := sendApply s i e t
            ({ t with ex := put t.ex (saKey b sh) e }, s)
        | none => (t, s)) (t, s)
  else (t, s)

/-- The lowest bags that are done are passed over: applied, empty or poisoned (R337, R345). -/
def passBags (s : State) (i : Nat) (bags : List SaBag) : Nat → TaskRun → TaskRun × State
  | 0, t => (t, s)
  | n + 1, t =>
    match bags[t.progress]? with
    | none => (t, s)
    | some x =>
      if bagAll t bags t.progress Exch.applied then
        let f := streamFn s i
        let k := (x.subs.map (fun e => e.2.length)).sum
        let s := cntAdd (cntAdd (cntAdd s (rk f 0x3300) (b2n !x.poison)) (rk f 0x3308) k) (rk f 0x3310) x.dropped
        let s := if x.poison then postTask s i t 0x0603 4 (t.u32 8) t.progress 0 0 else s
        passBags s i bags n { t with
          progress := t.progress + 1, total := t.total + k, result := t.result + x.dropped, poison := t.poison || x.poison
          ex := t.ex.filter (fun e => !(decide (saKey t.progress 0 ≤ e.1) && decide (e.1 < saKey (t.progress + 1) 0))) }
      else (t, s)

/-- One round over the bags in the window of R345. -/
def saRound (s : State) (i : Nat) (tb : Table) (g : SBody) (bags : List SaBag) (t : TaskRun) : TaskRun × State :=
  let win := (List.range 17).map (· + t.progress)
  let (t, s) := win.foldl (fun (t, s) b => claimBag s i tb g bags b t) (t, s)
  let (t, s) := win.foldl (fun (t, s) b => applyBag s i bags b t) (t, s)
  passBags s i bags 17 t

/-- Rounds until no bag passes. -/
def saRounds (i : Nat) (tb : Table) (g : SBody) (bags : List SaBag) : Nat → TaskRun → State → TaskRun × State
  | 0, t, s => (t, s)
  | n + 1, t, s =>
    let p := t.progress
    let (t, s) := saRound s i tb g bags t
    if t.progress = p then (t, s) else saRounds i tb g bags n t s

/-! ### Ending (R347, R348, Table 12.5) -/

/-- Microseconds of the ledger-wait timer are counted when it stops. -/
def stopWait (s : State) (i : Nat) (t : TaskRun) : TaskRun × State :=
  match t.waitAt with
  | some a => ({ t with waitAt := none }, cntAdd s (rk (streamFn s i) 0x3318) ((s.clk.timer - a) / usT))
  | none => (t, s)

/-- The timer runs while the lowest bag not yet applied has an owner whose last answer is SA_WAITING. -/
def saTimer (s : State) (i : Nat) (t : TaskRun) : TaskRun × State :=
  let w := (List.range 64).any (fun sh => match saEx t t.progress sh with | some e => e.waits | none => false)
  if w then ({ t with waitAt := some (t.waitAt.getD s.clk.timer) }, s) else stopWait s i t

/-- Claims that are not applied are unclaimed, here and at the other owners (R347). -/
def unclaimAll (s : State) (i : Nat) (t : TaskRun) : State :=
  t.ex.foldl (fun s (k, e) =>
    if k < 2 ^ 20 || e.applying then s
    else if e.dst = me s then ownerUnclaim s e.dst e.reqId
    else if e.claimed then sendMsg s e.dst (streamPart s i) (.saUnclaim (BitVec.ofNat 32 e.reqId))
    else s) s

/-- A scatter task ends: what it still claims is released. -/
def endScatter (s : State) (i : Nat) (t : TaskRun) (r : Rec) : State :=
  let s := unclaimAll s i t
  let (t, s) := stopWait s i t
  let r := { r with
    dropped := r.dropped || decide (0 < t.result), poison := r.poison || t.poison, sat := t.sat, result := sat32 t.result }
  endTask s i t (if r.status = 0 && r.poison then { r with status := 2 } else r)

/-- PARTIAL: SA_APPLY of the lowest bag has been sent and it is not wholly applied. -/
def partialBag (t : TaskRun) : Bool :=
  (List.range 64).any (fun sh => match saEx t t.progress sh with | some e => e.applying | none => false)

/-- The first exchange of the lowest bags that has failed, with its shard. -/
def saFailed (t : TaskRun) (p : Exch → Bool) : Option (Nat × Exch) :=
  (t.ex.find? (fun e => decide (2 ^ 20 ≤ e.1) && p e.2)).map (fun e => ((e.1 - 2 ^ 20) % 64, e.2))

/-- What a SCATTER_ADD task does next. -/
def saPlan (s : State) (i : Nat) (t : TaskRun) : Plan :=
  let p := streamPart s i
  match tableFor s p (t.u32 8) with
  | none => .fin false [] (fun t s => endScatter s i t (Rec.abort 0x11 1 0 0 0))
  | some tb =>
    if isShared s p (t.u32 8) then .fin false [] (fun t s => endScatter s i t (Rec.abort 0x11 2 0 0 0))
    else
      match saEval (taskCtx s i t) tb t.desc with
      | .need l => .need l
      | .staged bags stop tr =>
        match (match stop with | some e => if e.status = 0x11 || e.status = 0x16 then some e else none | none => none) with
        | some e => .fin false [] (fun t s => endScatter s i t (Rec.abort e.status e.detail 0 e.pos e.coord))
        | none => .fin true tr (fun t s =>
          let (t, s) := saRounds i tb (sBody t.desc) bags (bags.length + 1) t s
          match saFailed t Exch.denied with
          | some _ => endScatter s i t (Rec.abort 0x11 1 0 0 0)
          | none =>
            match saFailed t (fun e => e.why = 1 || e.why = 2) with
            | some (sh, e) =>
              endScatter s i t (Rec.abort 0x16 e.why t.progress sh (e.dst + 256 * b2n (partialBag t)))
            | none =>
              if bags.length ≤ t.progress then
                match stop with
                | some e => endScatter s i t (Rec.abort e.status e.detail t.progress e.pos e.coord)
                | none => endScatter s i t (Rec.ok t.progress 0 t.total)
              else
                let (t, s) := saTimer s i t
                setTask s i t)

/-- Bring a SCATTER_ADD task as far as what has landed, its claims and the quoin allow (R336, R345 to R348). -/
def saRun (s : State) (i : Nat) : State :=
  match runningTask s i 3 with
  | none => s
  | some t => runPlan s i t (saPlan s i t)

/-- SCATTER_ADD (R345). -/
def execScatterAdd (i : SId) (s : State) : Host.Outcome State Fault Refusal := .next (saRun s i.val)

/-- LEDGER_WAIT_TIMEOUT (R347). -/
def execLedgerWaitTimeout (i : SId) (s : State) : Host.Outcome State Fault Refusal :=
  .next (if s.pwr.off then s else match runningTask s i.val 3 with
    | none => s
    | some t =>
      match t.waitAt with
      | none => s
      | some a =>
        if s.clk.timer < a + waitLimit (sBody t.desc) then s
        else
          match (List.range 64).find? (fun sh => match saEx t t.progress sh with | some e => e.waits | none => false) with
          | none => s
          | some sh =>
            let dev := match saEx t t.progress sh with | some e => e.dst | none => 0
            endScatter s i.val t (Rec.abort 0x14 0 t.progress sh dev))

/-! ### The scatter messages (Table 12.4) -/

/-- SA_CLAIM at an owner. -/
def execSaClaim (h : MsgHdr) (b : SaClaim) (s : State) : Host.Outcome State Fault Refusal :=
  .next (onMsg s h (.saClaim b) (fun s =>
    let (a, s) := ownerClaim s h.src.val (hdrPart h) b.reqId.toNat b
    replyMsg s h a))

/-- SA_APPLY at an owner: every add of the bag, then SA_APPLIED. -/
def execSaApply (h : MsgHdr) (reqId : W32) (s : State) : Host.Outcome State Fault Refusal :=
  .next (onMsg s h (.saApply reqId) (fun s =>
    match ownerApply s h.src.val reqId.toNat with
    | some (_, _, _, s) => replyMsg s h (.saApplied reqId)
    | none => replyMsg s h (.saApplied reqId)))

/-- SA_UNCLAIM at an owner. -/
def execSaUnclaim (h : MsgHdr) (reqId : W32) (s : State) : Host.Outcome State Fault Refusal :=
  .next (onMsg s h (.saUnclaim reqId) (fun s => ownerUnclaim s h.src.val reqId.toNat))

/-- An answer reaches the task that waits for it, which goes on. -/
def saAnswer (h : MsgHdr) (reqId : W32) (b : MsgBody) (s : State) : State :=
  onMsg s h b (fun s =>
    let s := answerExch s h.src.val reqId.toNat b
    let s := onExch s reqId.toNat (fun e => if e.dst == h.src.val && e.why == 0 then { e with why := 3 } else e)
    match taskOfReq s reqId.toNat with
    | some (i, _) => saRun s i
    | none => s)

/-- SA_CLAIMED, SA_APPLIED, SA_DENIED at the requester. -/
def execSaClaimed (h : MsgHdr) (reqId : W32) (s : State) : Host.Outcome State Fault Refusal :=
  .next (saAnswer h reqId (.saClaimed reqId) s)
def execSaApplied (h : MsgHdr) (reqId : W32) (s : State) : Host.Outcome State Fault Refusal :=
  .next (saAnswer h reqId (.saApplied reqId) s)
def execSaDenied (h : MsgHdr) (reqId : W32) (s : State) : Host.Outcome State Fault Refusal :=
  .next (saAnswer h reqId (.saDenied reqId) s)

/-- SA_WAITING at the requester: the exchange is owed nothing more, and the ledger-wait timer runs (R347). -/
def execSaWaiting (h : MsgHdr) (reqId : W32) (why : BitVec 2) (s : State) : Host.Outcome State Fault Refusal :=
  .next (onMsg s h (.saWaiting reqId why) (fun s =>
    let s := answerExch s h.src.val reqId.toNat (.saWaiting reqId why)
    let s := onExch s reqId.toNat (fun e => if e.dst == h.src.val && e.why == 0 then { e with why := 3 } else e)
    match taskOfReq s reqId.toNat with
    | some (i, _) => saRun s i
    | none => s))

/-- Claims of a task on an owner that wait are sent again, in bag order (R433): the timer restarts where one of them
is of the lowest bag. -/
def resendClaims (s : State) (i : Nat) (t : TaskRun) (p : Exch → Bool) : State :=
  let l := t.ex.filter (fun e => decide (2 ^ 20 ≤ e.1) && p e.2)
  let (t, s) := l.foldl (fun (t, s) (k, e) =>
    match e.body with
    | .saClaim b =>
      let (e', s) := sendClaim s i e.dst e.reqId b
      ({ t with ex := put t.ex k e' }, s)
    | _ => (t, s)) (t, s)
  setTask s i t

/-- A fold of a ledger of a device has completed: waiting claims on that device start again. -/
def foldedAt (s : State) (dev : Nat) : State :=
  s.streams.foldl (fun s (i, x) =>
    match x.task with
    | some t =>
      if t.done.isNone && t.type == 3 && t.ex.any (fun e => decide (2 ^ 20 ≤ e.1) && e.2.dst == dev && e.2.waits) then
        let (t, s) := stopWait s i t
        saRun (resendClaims s i t (fun e => e.dst == dev && e.waits)) i
      else s
    | none => s) s

/-- SA_FOLDED at the requester (R344, R433). -/
def execSaFolded (h : MsgHdr) (reqId : W32) (s : State) : Host.Outcome State Fault Refusal :=
  .next (onMsg s h (.saFolded reqId) (fun s => foldedAt s h.src.val))

/-- SA_CLAIM_RESEND: 50 us after an SA_WAITING for staging cells (R433). -/
def execSaClaimResend (reqId : W32) (s : State) : Host.Outcome State Fault Refusal :=
  .next (if s.pwr.off then s else match taskOfReq s reqId.toNat with
    | none => s
    | some (i, t) =>
      saRun (resendClaims s i t (fun e => e.reqId == reqId.toNat && decide (e.last + 50 * usT ≤ s.clk.timer) &&
        (match e.lastAns with | some (.saWaiting _ w) => w == 0#2 | _ => false))) i)

end Sys2Proof.Machine
end

