-- ==== Sys2Proof/Machine/Fold.lean ====
section
/-! DEFINITION. FOLD (12.6): the gate (R352), the fold of one slot (R353), SGD and row-wise Adagrad (R354, R355),
stochastic rounding (R356, R357), FOLD_PENDING (R358), DISCARD (R359) and the record (R360). -/

namespace Sys2Proof.Machine

/-! ### The generator (R357) -/

/-- mix. -/
def mix64 (z : Nat) : Nat :=
  let z := z ^^^ z / 2 ^ 33
  let z := z * 0xE4C37F219A580B6D % 2 ^ 64
  let z := z ^^^ z / 2 ^ 29
  let z := z * 0x3D9FB604C17AE28B % 2 ^ 64
  z ^^^ z / 2 ^ 32

/-- rnd(seed, step, r, k), from 0 to 2^24 − 1. -/
def rnd (seed step r k : Nat) : Nat :=
  let key := mix64 (seed % 2 ^ 64 ^^^ step * 0x8F3A61C52E97B40D % 2 ^ 64)
  let hr := mix64 (key ^^^ r * 0x5C4E93A107D8F26B % 2 ^ 64)
  mix64 (hr ^^^ (k + 1) * 0xB7E21946AD530C9F % 2 ^ 64) / 2 ^ 40

/-- The code of y under stochastic rounding: floor, plus one where the draw is below the fraction (R356). -/
def stochCode (draw : Nat) (y : W32) : Int :=
  match f32 y with
  | .fin s m e =>
    let n : Int := if s then -(m : Int) else m
    if 0 ≤ e then n * 2 ^ e.toNat
    else
      let d : Nat := 2 ^ (-e).toNat
      let t := n / (d : Int)
      let f := (n % (d : Int)).toNat
      if draw * d < f * 2 ^ 24 then t + 1 else t
  | _ => 0

/-! ### One row (R354 to R356) -/

/-- Fields of a FOLD (Table 12.2). -/
structure FBody where
  nearest : Bool
  lr : W32
  eps : W32
  seed : Nat
  step : Nat
deriving DecidableEq, Repr
def fBody (d : List Byte) : FBody :=
  ⟨bitOf (leAt d 0x0C 4) 2, BitVec.ofNat 32 (leAt d 0x10 4), BitVec.ofNat 32 (leAt d 0x14 4), leAt d 0x18 8, leAt d 0x20 8⟩

/-- g[k]: the accumulator over 2^FRAC, rounded once. -/
def ledGrad (frac : Nat) (acc : Nat) : W32 :=
  let a := sext 32 acc
  r32 (.fin (decide (a < 0)) a.natAbs (-(frac : Int)))

/-- A value with its sign turned. -/
def fNegate (a : W32) : W32 := a ^^^ 0x80000000#32

/-- The updated values and the header extension of a row. -/
def foldVals (t : Table) (b : FBody) (g : List W32) (row : List Byte) : List W32 × List W32 :=
  let x := dequant t.d t.ext t.code row
  if t.train = 2 then
    let s2 := g.foldl (fun a v => fFma v v a) 0
    let sn := fAdd (BitVec.ofNat 32 (leAt row 4 4)) (fDiv s2 (f32ofInt t.d))
    let step := fDiv b.lr (fAdd (fSqrt sn) b.eps)
    (List.zipWith (fun v y => fFma (fNegate step) v y) g x, [sn])
  else (List.zipWith (fun v y => fFma (fNegate b.lr) v y) g x, [])

/-- The new bytes of row r and how many values were clamped; none where an update is not finite. -/
def foldRow (t : Table) (b : FBody) (r : Nat) (g : List W32) (row : List Byte) : Option (List Byte × Nat) :=
  let (v, e) := foldVals t b g row
  if (v ++ e).all fIsFinite then
    let ext := e.flatMap (fun x => leBytes 4 x.toNat)
    some (if b.nearest then quantize t.code ext v
      else quantizeBy (fun k y => stochCode (rnd b.seed b.step r k) y) t.code ext v)
  else none

/-! ### One slot (R353) -/

/-- What a fold has done so far. -/
structure FoldAcc where
  rows : Nat
  cleared : Nat
  disc : Nat
  clamp : Nat
  poison : Bool
  sat : Bool
deriving DecidableEq, Repr

/-- Where the row of an entry lies on this device. -/
def rowPlace (t : Table) (r : Nat) : Option (PLoc × Nat) :=
  let (sh, l) := t.place r
  match t.stores.find? (fun x => x.shard == sh && !x.replica) with
  | some x => slotAt t x l
  | none => none

/-- The entry of slot k as its bursts read. -/
def ledEntry (s : State) (t : Table) (k : Nat) : List BRead :=
  (List.range (t.leb / 64)).map (fun j => ledBurst s t (k * t.leb + 64 * j))

/-- The row an entry folds into, as far as it has landed. -/
def foldRead (c : Ctx) (t : Table) (k : Nat) (e : List Byte) : Ev (List PB) :=
  let (sh, l) := t.place (hdrRow e)
  match t.stores.find? (fun x => x.shard == sh && !x.replica) with
  | some x => (rowRead c t x l).at_ k (fun o => (o, coordAt 1 k))
  | none => .pure []

/-- Whether the fold of a slot reads its row. -/
def foldsRow (bs : List BRead) (e : List Byte) : Bool :=
  !bs.any (·.kind.bad) && hdrUsed e && hdrMag e != 0 && !hdrSat e

/-- Write a row's new bytes (R361). -/
def writeRow (s : State) (t : Table) (r : Nat) (b : List Byte) : State :=
  match rowPlace t r with
  | some (.dev p, o) => memWrite s (p * 65536 + o) b false
  | some (.host f a, o) => { s with hif := { s.hif with writes := s.hif.writes ++ [⟨f, a + o, b⟩] } }
  | none => s

/-- Clear slot k's entry. -/
def clearSlot (s : State) (h k : Nat) : State :=
  match lk s.tables h with
  | none => s
  | some t => ledWrite (setTable s { t with used := t.used - 1 }) t (k * t.leb) (List.replicate t.leb 0) false

/-- Fold slot k. -/
def foldSlot (c : Ctx) (b : FBody) (h k : Nat) (a : FoldAcc) (s : State) : FoldAcc × State :=
  match lk s.tables h with
  | none => (a, s)
  | some t =>
    let bs := ledEntry s t k
    let e := bs.flatMap (fun x => slice x.bytes 0 64)
    let s := (List.range (t.leb / 64)).foldl (fun s j => noteRead s (ledPa t (k * t.leb + 64 * j)) 64 .platen) s
    let gone := { a with cleared := a.cleared + 1 }
    if bs.any (·.kind.bad) then ({ gone with poison := true }, clearSlot s h k)
    else if !hdrUsed e then (a, s)
    else if hdrSat e then ({ gone with disc := a.disc + 1, sat := true }, clearSlot s h k)
    else if hdrMag e = 0 then (gone, clearSlot s h k)
    else
      match foldRead { c with s := s } t k e with
      | .ok row tr =>
        let s := noteTrace s .platen [] tr
        if row.isEmpty || pbBad row then ({ gone with poison := true }, clearSlot s h k)
        else
          let g := (List.range t.d).map (fun j => ledGrad t.frac (leAt e (16 + 4 * j) 4))
          (match foldRow t b (hdrRow e) g (pbBytes row) with
           | none => ({ gone with disc := a.disc + 1 }, clearSlot s h k)
           | some (nb, n) =>
             ({ gone with rows := a.rows + 1, clamp := a.clamp + n }, clearSlot (writeRow s t (hdrRow e) nb) h k))
      | _ => (a, s)

/-- What the fold of the slots still needs, and the first slot whose row faults (R301). -/
def foldNeeds (c : Ctx) (t : Table) : List Need × Option Stop :=
  let l := (List.range (2 ^ t.ledgerLog2)).map (fun k =>
    let bs := ledEntry c.s t k
    let e := bs.flatMap (fun x => slice x.bytes 0 64)
    if foldsRow bs e then foldRead c t k e else .pure [])
  (l.flatMap (fun x => match x with | .need q => q | _ => []),
    l.findSome? (fun x => match x with | .stop e _ => some e | _ => none))

/-- The reads a fold makes: every ledger entry, and the rows of those in use. -/
def foldTrace (c : Ctx) (t : Table) : List Acc :=
  (List.range (2 ^ t.ledgerLog2)).flatMap (fun k =>
    let bs := ledEntry c.s t k
    let e := bs.flatMap (fun x => slice x.bytes 0 64)
    ⟨ledPa t (k * t.leb), t.leb⟩ :: (if foldsRow bs e then
      (match foldRead c t k e with | .ok _ tr => tr | _ => []) else []))

/-- Slots 0 to n − 1, in ascending order. -/
def foldSlots (c : Ctx) (b : FBody) (h : Nat) : Nat → FoldAcc × State → FoldAcc × State
  | 0, x => x
  | n + 1, x =>
    let (a, s) := foldSlots c b h n x
    foldSlot c b h n a s

/-! ### The task -/

/-- A TABLE_REQUANTIZE or a ROW_REPAIR of a table is running (R250, R490). -/
def requantizing (s : State) (h : Nat) : Bool :=
  s.ops.any (fun o => o.st == .running && (o.opcode == 0x308 || o.opcode == 0x605) && leAt o.req 8 4 == h)

/-- SA_FOLDED to every device of a ledger's waiting mask (R433). -/
def tellFolded (s : State) (t : Table) : State :=
  let s := setTable s { t with mask := 0 }
  (List.range 64).foldl (fun s d =>
    if !t.mask.getLsbD d then s
    else if d = me s then foldedAt s d
    else sendMsg s d (if t.owner < 33 then t.owner else 32) (.saFolded 0)) s

/-- The gate opens at the end of a fold below 0x10, and waiting claims start again. -/
def afterFold (s : State) (h : Nat) : State :=
  match lk s.tables h with
  | some t => if t.gateClosed then s else tellFolded s t
  | none => s

/-- The end of an APPLY after n slots. -/
def endApply (s : State) (i : Nat) (t : TaskRun) (h n : Nat) (a : FoldAcc) (stop : Option Stop) : State :=
  let f := streamFn s i
  let s := cntAdd (cntAdd (cntAdd s (rk f 0x3320) a.rows) (rk f 0x3328) a.disc) (rk f 0x3330) n
  let s := if a.disc = 0 then s else postTask s i t 0x0604 3 h a.disc 0 0
  let s := { s with tables := adj s.tables h (fun tb =>
    { tb with clamped := tb.clamped + a.clamp, foldCount := tb.foldCount + b2n stop.isNone }) }
  let base : Rec := match stop with
    | some e => Rec.abort e.status e.detail n e.pos e.coord
    | none => { Rec.ok n 0 (a.rows + 2 ^ 32 * a.cleared) with status := if a.poison then 2 else 0 }
  afterFold (endTask s i t { base with poison := a.poison, sat := a.sat, result := sat32 a.disc }) h

/-- Fold every slot, or those below the first that faults. -/
def foldNow (s : State) (i : Nat) (t : TaskRun) (tb : Table) : State :=
  let c := taskCtx s i t
  match foldNeeds c tb with
  | (n :: ns, _) => issueNeeds s i t (n :: ns)
  | ([], stop) =>
    let k := match stop with | some e => e.unit | none => 2 ^ tb.ledgerLog2
    runPlan s i t (.fin false (foldTrace c tb) (fun t s =>
      let (a, s) := foldSlots c (fBody t.desc) tb.handle k (⟨0, 0, 0, 0, false, false⟩, s)
      endApply s i t tb.handle k a stop))

/-- Clear every entry (R359). -/
def discardNow (s : State) (i : Nat) (t : TaskRun) (tb : Table) : State :=
  let n := 2 ^ tb.ledgerLog2
  let used := ((List.range n).filter (fun k =>
    let b := ledBurst s tb (k * tb.leb)
    b.kind.bad || hdrUsed b.bytes)).length
  let s := (List.range n).foldl (fun s k => clearSlot s tb.handle k) s
  let s := cntAdd s (rk (streamFn s i) 0x3330) n
  let s := { s with tables := adj s.tables tb.handle (fun x => { x with used := 0 }) }
  afterFold (endTask s i t (Rec.ok n 0 (2 ^ 32 * used))) tb.handle

/-- FOLD up to the point where the slots can be folded: rights, DEFINED, another FOLD, the gate, claimed bags (R351,
R352, R250). -/
def foldRun (s : State) (i action : Nat) (go : State → Nat → TaskRun → Table → State) : State :=
  match runningTask s i 4 with
  | none => s
  | some t =>
    if t.u32 0x0C % 4 ≠ action then s
    else
      let h := t.u32 8
      let p := streamPart s i
      match tableFor s p h with
      | none => endTask s i t (Rec.abort 0x11 1 0 0 0)
      | some tb =>
        if isShared s p h then endTask s i t (Rec.abort 0x11 2 0 0 0)
        else if !tb.placed then
          endTask { s with tables := adj s.tables h (fun x => { x with foldCount := x.foldCount + b2n (action == 0) }) } i t
            (Rec.ok 0 0 0)
        else if requantizing s h then s
        else
          match tb.fold with
          | some j =>
            if j ≠ i then setTask s i { t with waiting := true }
            else if tb.claims.isEmpty then go s i { t with waiting := false } tb else s
          | none =>
            let tb := { tb with fold := some i, gateClosed := true }
            let s := setTable s tb
            if tb.claims.isEmpty then go s i { t with waiting := false } tb else s

/-- FOLD_APPLY (R352, R353). -/
def execFoldApply (i : SId) (s : State) : Host.Outcome State Fault Refusal := .next (foldRun s i.val 0 foldNow)

/-- FOLD_DISCARD (R359). -/
def execFoldDiscard (i : SId) (s : State) : Host.Outcome State Fault Refusal := .next (foldRun s i.val 1 discardNow)

end Sys2Proof.Machine
end

