-- ==== Sys2Proof/Machine/Streams.lean ====
section
/-! DEFINITION. Streams: validation and admission of descriptors (R88, R86, R460), the fetcher (R79, R80), completion records
(R82), the HOST_STALL timer (R87), reads (R285, R286), core halves (R290 to R292) and the chase (R323). -/

namespace Sys2Proof.Machine

/-! ### Validation, continued (R88) -/

/-- SCATTER_ADD (R334). -/
def scatterRange (s : State) (i : Nat) (d : List Byte) : List (Nat × Bool) :=
  let g := sBody d
  let l := gBody d
  let tb := tableFor s (streamPart s i) g.handle
  [(0x08, match tb with | some t => t.train == 0 | none => false),
   (0x0C, g.mode == 3 || g.fmt == 3),
   (0x0E, match tb with | some t => g.stride4 != 0 && decide (g.stride4 < gradBytes t g / 4) | none => false),
   (0x10, g.nbags == 0 || decide (1048576 < g.nbags)),
   (0x14, decide (65536 < l.baglen) || (l.baglen != 0 && l.len != 0)),
   (0x16, decide (1000 < g.wait)),
   (0x18, badAddr l.idx 8), (0x20, badAddr l.len 4),
   (0x28, badAddr l.wgt 2 || (g.mode == 2) == (l.wgt == 0)),
   (0x30, badAddr g.grad (fmtSize g.fmt))]

/-- FOLD (R351, R358, R359). -/
def foldRange (s : State) (i : Nat) (d : List Byte) : List (Nat × Bool) :=
  let w := leAt d 0x0C 4
  let lr := BitVec.ofNat 32 (leAt d 0x10 4)
  let eps := BitVec.ofNat 32 (leAt d 0x14 4)
  match tableFor s (streamPart s i) (leAt d 8 4) with
  | none => [(0x0C, decide (1 < w % 4))]
  | some t =>
    let kept : List Byte := match t.pend with | some k => k.key | none => slice d 0x0C 28
    let differs (a n : Nat) : Bool := slice d a n != slice kept (a - 0x0C) n
    [(0x08, t.train == 0), (0x0C, decide (1 < w % 4))] ++
    (if w % 4 = 0 then
      [(0x10, !fIsFinite lr || fLt lr 0),
       (0x14, (t.train == 2 && (!fIsFinite eps || !fLt 0 eps)) || (t.train == 1 && eps != 0)),
       (0x0C, differs 0x0C 4), (0x10, differs 0x10 4), (0x14, differs 0x14 4), (0x18, differs 0x18 8),
       (0x20, differs 0x20 8)]
     else
      [(0x0C, bitOf w 2), (0x10, lr != 0), (0x14, eps != 0), (0x18, leAt d 0x18 8 != 0), (0x20, leAt d 0x20 8 != 0)])

/-- TOKENIZE (R455). -/
def tokenizeRange (s : State) (i : Nat) (d : List Byte) : List (Nat × Bool) :=
  let w := leAt d 8 4
  let cap := leAt d 0x20 4
  [(0x09, match imgFor s.profiles (w % 16) (streamPart s i) with
      | some p => decide (p.nctx ≤ w / 256 % 64) | none => false),
   (0x0C, decide (16777216 < leAt d 0x0C 4)), (0x10, badAddr (leAt d 0x10 8) 1), (0x18, badAddr (leAt d 0x18 8) 4),
   (0x20, decide (cap < 4160) || decide (16777216 < cap))]

/-- The inline token entries of a DETOKENIZE or FORME_MASK (R468, R475). -/
def inlineRange (d : List Byte) (inline : Bool) (lim : Nat) : List (Nat × Bool) :=
  let n := leAt d 0x0C 4
  let a := leAt d 0x10 8
  [(0x0C, if inline then decide (4 < n) else decide (lim < n)), (0x10, if inline then a != 0 else badAddr a 4)] ++
  (List.range 4).map (fun k => (0x28 + 4 * k, inline && decide (n ≤ k) && leAt d (0x28 + 4 * k) 4 != 0))

/-- DETOKENIZE (R468). -/
def detokenizeRange (d : List Byte) : List (Nat × Bool) :=
  let cap := leAt d 0x20 4
  inlineRange d (bitOf (leAt d 8 4) 18) 16777216 ++
  [(0x18, badAddr (leAt d 0x18 8) 1), (0x20, decide (cap < 4096) || decide (16777216 < cap))]

/-- FORME_MASK (R475). -/
def formeRange (s : State) (i : Nat) (d : List Byte) : List (Nat × Bool) :=
  let w := leAt d 8 4
  let a := leAt d 0x18 8
  let cap := leAt d 0x20 4
  let size := match imgFor s.grammars (w % 32) (streamPart s i) with
    | some g => maskSize ((openImg s g.pages).1.h 0x0C)
    | none => 0
  inlineRange d (bitOf w 11) 65536 ++
  [(0x08, !bitOf w 8 && (stream s i).text.grammar != some (w % 32)),
   (0x18, if bitOf w 9 then a != 0 else badAddr a 8),
   (0x20, if bitOf w 9 then cap != 0 else decide (cap < size) || decide (16777216 < cap))]

/-- LOCKUP (Table 14.3, R182). -/
def lockupRange (s : State) (i : Nat) (d : List Byte) : List (Nat × Bool) :=
  let w := leAt d 8 4
  let op := w % 4
  let remote := bitOf w 8
  let n := leAt d 0x11 1
  [(0x02, leAt d 2 1 % 4 != 0), (0x08, op == 3), (0x09, remote && op == 0),
   (0x0A, remote && w / 65536 % 64 == me s),
   (0x0C, !remote && (op == 1 || op == 2) && !lockIn s (streamPart s i) (leAt d 0x0C 4)),
   (0x11, op == 0 && (n == 0 || decide (64 < n)))]

/-- The range checks of a descriptor. -/
def rangeChecks (s : State) (i : Nat) (d : List Byte) : List (Nat × Bool) :=
  match leAt d 0 1 with
  | 1 => gatherRange s i d
  | 2 => gatherRange s i d
  | 3 => scatterRange s i d
  | 4 => foldRange s i d
  | 5 => tokenizeRange s i d
  | 6 => detokenizeRange d
  | 7 => formeRange s i d
  | 8 => copyRange s i d
  | 9 => lockupRange s i d
  | _ => prefetchRange d

/-- The capability checks of a descriptor (Table 4.5). -/
def capChecks (s : State) (i : Nat) (d : List Byte) : List (Nat × Bool) :=
  let f := streamFn s i
  let w := leAt d 8 4
  match leAt d 0 1 with
  | 1 => gatherCaps s i d
  | 2 => gatherCaps s i d
  | 4 => [(0x08, (match tableFor s (streamPart s i) w with | some t => t.train == 2 | none => false) && !capOn s f 2)]
  | 7 => [(0x09, bitOf w 10 && !capOn s f 8)]
  | 8 => [(0x08, (w % 4 == 2 || w / 4 % 4 == 2) && !capOn s f 7)]
  | 9 => [(0x09, bitOf w 8 && !capOn s f 7)]
  | _ => []

/-- DETAIL of TS_BAD_DESCRIPTOR, or none where the descriptor passes (R88, R560, Table 3.5). -/
def validate (s : State) (i : Nat) (d : List Byte) : Option Nat :=
  let type := leAt d 0 1
  if type = 0 ∨ 10 < type then some (badDetail 0 0)
  else if leAt d 1 1 ≠ 1 then some (badDetail 0 1)
  else match reservedFail d 0 (descMasks type) with
  | some o => some (badDetail 1 o)
  | none =>
    match firstFail (rangeChecks s i d) with
    | some o => some (badDetail 2 o)
    | none => (firstFail (capChecks s i d)).map (badDetail 3)

/-! ### Admission -/

/-- A record of a task that never ran. -/
def Rec.unrun (status detail : Nat) : Rec := Rec.abort status detail 0 0 0

/-- Whether another stream's TOKENIZE on the same context is admitted and has not ended (R460). -/
def contextBusy (s : State) (i : Nat) (d : List Byte) : Bool :=
  leAt d 0 1 == 5 && s.streams.any (fun e =>
    e.1 != i && (match e.2.task with
      | some t => t.type == 5 && leAt t.desc 8 4 % 2 ^ 14 == leAt d 8 4 % 2 ^ 14 && streamPart s e.1 == streamPart s i
      | none => false))

/-- What becomes of a fetched descriptor: a record at once, or none where the task runs. -/
def verdict (s : State) (i : Nat) (f : Fetched) : Option Rec :=
  match f.bad with
  | some (st, d) => some (Rec.unrun st d)
  | none =>
    if f.cancel then some (Rec.unrun 0x18 0)
    else match validate s i f.bytes with
    | some d => some (Rec.unrun 0x10 d)
    | none => if bitOf (leAt f.bytes 0 4) 18 && (stream s i).lastBad then some (Rec.unrun 0x18 1) else none

/-- Admit the next fetched task of a stream, where none is in flight: a task boundary, at which held writes take effect
(R55, R80, R87, R133). -/
def admitNext (s : State) (i : Nat) : State :=
  let s := taskBoundary s i
  let x := stream s i
  match x.fetched, x.task with
  | f :: rest, none =>
    if x.stallHold || !admitOpen s (streamFn s i) || (f.bad.isNone && contextBusy s i f.bytes) then s
    else
      let type := leAt f.bytes 0 1
      let v := verdict s i f
      let ad := if v.isNone ∧ type = 1 ∧ (gBody f.bytes).adapt then boundAdapter s (streamPart s i) (gBody f.bytes).handle else none
      let t := { TaskRun.start f.idx f.bytes s.clk.aon ad with done := v, ran := v.isNone }
      let s := setStream s i { x with fetched := rest, task := some t, text := { x.text with stopsNow := x.text.stops } }
      if v.isNone && (type == 5 || type == 6 || type == 7) then
        { s with unitWait := s.unitWait ++ [(i, strEff s i 0x0C)] }
      else s
  | _, _ => s

/-- Admit on every stream. -/
def admitAll (s : State) : State := (s.streams.map (·.1)).foldl admitNext s

/-! ### The fetcher (R79) -/

/-- Descriptors arrive: copied in, with CANCEL as it stands, HEAD advanced. What a descriptor that could not be read
says, its TAG and TYPE among it, is free (log entry 3). -/
def gotDescs (s : State) (i : Nat) (descs : List (List Byte)) (bad : Option (Nat × Nat)) : State :=
  let (descs, s) := if bad.isSome then
      descs.foldl (fun (l, s) _ => let (b, s) := freshBytes 64 s; (l ++ [b], s)) (([] : List (List Byte)), s)
    else (descs, s)
  let x := stream s i
  let cancel := bitOf (strEff s i 0x08) 1
  let l := descs.zipIdx.map (fun (b, k) => (⟨(x.head.toNat + k) % 2 ^ 32, b, cancel, bad⟩ : Fetched))
  let s := setStream s i { x with
    head := x.head + BitVec.ofNat 32 descs.length, fetched := x.fetched ++ l, fetchAsked := none }
  admitNext (cntAdd s (rk (streamFn s i) 0x3008) descs.length) i

/-- The bytes of n descriptors that could not be read. -/
def noDescs (n : Nat) : List (List Byte) := List.replicate n (List.replicate 64 0)

/-- DESCRIPTOR_FETCH. -/
def fetchRun (s : State) (i : Nat) : State :=
  let x := stream s i
  match x.slot with
  | none => s
  | some (f, _) =>
    let ctrl := strEff s i 0x08
    if !bitOf ctrl 0 || x.tail == x.head || !admitOpen s f || !runs s 3 || x.fetchAsked.isSome || 8 ≤ x.fetched.length then s
    else
      let n := 2 ^ strEff s i 0x18
      let base := strEff s i 0x10 + 2 ^ 32 * strEff s i 0x14
      let at_ := x.head.toNat % n
      let a := base + 64 * at_
      let k := min (min 8 ((x.tail - x.head).toNat)) (min (n - at_) (64 - a / 64 % 64))
      if bitOf ctrl 2 then
        let c : Ctx := ⟨s, 64, f, partOfFn f, [], []⟩
        match windowRead c (windowVa a) (64 * k) with
        | .ok b tr =>
          let s := noteTrace s .task [] tr
          (chunks 64 b).foldl (fun s d => gotDescs s i [pbBytes d] (if pbBad d then some (0x13, 6) else none)) s
        | _ => gotDescs s i (noDescs k) (some (0x13, 2))
      else
        match hostPage ⟨s, 64, f, partOfFn f, [], []⟩ a with
        | .need _ =>
          if s.hif.atsAsked.contains (f, a / 4096) then s
          else { s with hif := { s.hif with atsAsked := s.hif.atsAsked ++ [(f, a / 4096)] } }
        | .stop _ _ => dropRefused (gotDescs s i (noDescs k) (some (0x13, 1))) f
        | .ok _ _ => setStream s i { x with fetchAsked := some (a, 64 * k) }

/-- DESCRIPTOR_FETCH (R79, R80). -/
def execDescriptorFetch (i : SId) (s : State) : Host.Outcome State Fault Refusal :=
  .next (if s.pwr.off then s else admitNext (fetchRun s i.val) i.val)

/-- A completion for a stream's descriptor read or for a read of its task (R79, R87, R485). -/
def streamLanded (s : State) (i a : Nat) (st : HostStatus) : State :=
  let x := stream s i
  let fits (n : Nat) : Bool := match st with | .data b => b.length == n | _ => true
  let isFetch := match x.fetchAsked with | some (b, n) => b == a && fits n | none => false
  match x.fetchAsked, isFetch with
  | some (_, n), true =>
    (match st with
     | .data b => gotDescs s i (chunks 64 b) none
     | _ => gotDescs s i (noDescs (n / 64)) (some (0x13, 3)))
  | _, _ =>
    match x.task with
    | none => s
    | some t =>
      match t.asked.find? (fun k => k / 8192 == a && fits (k % 8192)) with
      | none => s
      | some k =>
        let asked := t.asked.erase k
        setTask s i { t with
          land := put t.land k st, asked := asked, stallAt := if asked.isEmpty then none else some s.clk.timer }

/-! ### Records (R82 to R84, R90) -/

/-- What an ended task still holds is given back: claims, chains (R347, R261, R263). -/
def closeTask (s : State) (i : Nat) (t : TaskRun) (r : Rec) : State :=
  if !t.ran then s
  else if t.type = 3 then unclaimAll s i t
  else if t.type = 8 ∧ 16 ≤ r.status then closeCopy s i t r.status
  else s

/-- The bytes of a record (Table 3.4). -/
def recBytes (t : TaskRun) (r : Rec) (n : Nat) : List Byte :=
  leBytes 4 t.tag ++
  leBytes 4 (r.status % 256 + 2 ^ 8 * (r.detail % 256) + 2 ^ 16 * b2n r.empty + 2 ^ 17 * b2n r.dropped +
    2 ^ 18 * b2n r.poison + 2 ^ 19 * b2n r.forced + 2 ^ 20 * b2n r.sat) ++
  leBytes 4 r.count ++ leBytes 4 r.position ++ leBytes 8 r.coord ++ leBytes 4 r.result ++
  leBytes 4 (t.idx % 65536 + 2 ^ 16 * t.type + 2 ^ 31 * b2n (t.idx / n % 2 == 0))

/-- The counter of completed tasks of a text type (Tables 16.10, 17.8). -/
def textCount (type : Nat) : Option Nat :=
  if type = 5 then some 0x3360 else if type = 6 then some 0x3380 else if type = 7 then some 0x33A0 else none

/-- Write the record of the ended task; the stream goes on to its next. -/
def recordRun (s : State) (i : Nat) : State :=
  let x := stream s i
  match x.task, x.slot with
  | some t, some (f, _) =>
    (match t.done with
     | none => s
     | some r =>
       if !runs s 3 then s
       else
         let s := closeTask s i t r
         let n := 2 ^ strEff s i 0x18
         let a := strEff s i 0x1C + 2 ^ 32 * strEff s i 0x20 + 32 * (t.idx % n)
         let s := { s with hif := { s.hif with writes := s.hif.writes ++ [⟨f, a, recBytes t r n⟩] } }
         let x := stream s i
         let s := setStream s i { x with
           task := none, cpl := x.cpl + 1, lastBad := decide (16 ≤ r.status), stallHold := false }
         let s := cntAdd (cntAdd s (rk f 0x3010) 1) telTasks 1
         let s := match textCount t.type with | some o => cntAdd s (rk f o) 1 | none => s
         let s := if 0x12 ≤ r.status ∧ r.status ≤ 0x17 then faultStream s i else s
         admitNext s i)
  | _, _ => s

/-- COMPLETION_RECORD. -/
def execCompletionRecord (i : SId) (s : State) : Host.Outcome State Fault Refusal := .next (if s.pwr.off then s else admitAll (recordRun s i.val))

/-! ### HOST_STALL (R87) -/

/-- Units that a stalled task had delivered. -/
def stallUnits (t : TaskRun) : Nat := t.progress

/-- The task aborts with TS_HOST_STALL and the stream holds until its record is written. -/
def hostStall (s : State) (i detail : Nat) : State :=
  let x := stream s i
  match x.task with
  | none => s
  | some t =>
    if t.done.isSome then s
    else
      let r := Rec.abort 0x15 detail (stallUnits t) 0 0
      let s := if t.type = 3 then endScatter s i t r else if t.type = 8 then endCopy s i t r else endTask s i t r
      let s := setStream s i { stream s i with stallHold := true }
      cntAdd s (rk (streamFn s i) 0x3018) 1

/-- HOST_STALL_TIMEOUT: a read of the task has been outstanding for STR_HSTALL. -/
def execHostStallTimeout (i : SId) (s : State) : Host.Outcome State Fault Refusal :=
  .next (if s.pwr.off then s else match (stream s i.val).task with
    | some t =>
      (match t.stallAt with
       | some a => if a + max 1 (strEff s i.val 0x2C % 1024) * msT ≤ s.clk.timer then hostStall s i.val 3 else s
       | none => s)
    | none => s)

/-- HOST_COMPLETION_TIMEOUT: a PCIe Completion Timeout on one of the stream's reads. -/
def execHostCompletionTimeout (i : SId) (s : State) : Host.Outcome State Fault Refusal :=
  .next (if s.pwr.off then s else let x := stream s i.val
    match x.task, x.fetchAsked with
    | some t, _ => if t.asked.isEmpty then s else hostStall s i.val 3
    | none, some (_, n) => gotDescs s i.val (noDescs (n / 64)) (some (0x15, 3))
    | none, none => s)

/-! ### Reads (10.3) -/

/-- The plan of a task that still runs, as far as its reads are known. -/
def planOf (s : State) (i : Nat) (t : TaskRun) : Option Plan :=
  match t.type with
  | 1 => some (gatherPlan s i t)
  | 2 => some (gatherPlan s i t)
  | 3 => some (saPlan s i t)
  | 4 =>
    (match lk s.tables (t.u32 8) with
     | some tb => if tb.fold == some i && tb.claims.isEmpty then
         some (.fin false (foldTrace (taskCtx s i t) tb) (fun _ s => s)) else none
     | none => none)
  | 5 => if onUnit s i then some (tokenizePlan s i t) else none
  | 6 => if onUnit s i then some (detokenizePlan s i t) else none
  | 7 => if onUnit s i then some (formePlan s i t) else none
  | 8 =>
    let p := patternOf t.desc
    if cpSrc t < 2 then
      (match (copySrc (taskCtx s i t) p (cpSrc t) (t.u32 0x0C) t.progress) with
       | .ok _ tr => some (.fin false tr (fun _ s => s))
       | _ => none)
    else none
  | _ => none

/-- The reads of a task's walks that are known now, in walk order. -/
def planReads (s : State) (i : Nat) (t : TaskRun) : List Acc :=
  match planOf s i t with
  | some (.fin _ tr _) => readsOf tr
  | _ => []

/-- Segments of a task: the number of reads up to the end of each (R290). -/
def segEnds (lim : Nat) : List Acc → Nat → Nat → List Nat
  | [], n, k => if n = 0 then [] else [k]
  | a :: t, n, k => if lim < n + a.len then k :: segEnds lim t a.len (k + 1) else segEnds lim t (n + a.len) (k + 1)

/-- Whether a type's reads land in core halves. -/
def onCores (type : Nat) : Bool := decide (1 ≤ type) && decide (type ≤ 4)

/-- The reads that granted segments have room for (R285). -/
def landRoom (s : State) (i : Nat) (t : TaskRun) (l : List Acc) : Nat :=
  if onCores t.type then (segEnds (segLimit s i) l 0 0).getD (t.granted - 1) 0 * b2n (t.granted != 0) else t.base + l.length

/-- Reads of a stream that are outstanding (R284). -/
def outstanding (s : State) (i : Nat) : Nat :=
  (s.mem.reorder.map (fun e => (e.2.filter (fun r => r.stream == i)).length)).sum

/-- READ_ISSUE: the stream's next read, where DEPTH, its landing place, the quoin and its channel admit it. A channel
holds 12 entries for C1 reads (R205). -/
def readIssue (s : State) (i : Nat) : State :=
  match (stream s i).task with
  | none => s
  | some t =>
    if t.done.isSome || !engineOk s t.type then s
    else
      let l := planReads s i t
      match l[t.issued - t.base]? with
      | none => s
      | some a =>
        if strEff s i 0x30 % 1024 ≤ outstanding s i || landRoom s i t l ≤ t.issued then s
        else if tokens s i = 0 then
          { s with quo := adj s.quo (streamPart s i) (fun q => { q with refused := q.refused || q.level == 0 }) }
        else
          let go (s : State) : State := setTask (takeReads s i [a]) i { t with issued := t.issued + 1 }
          let now (s : State) : State :=
            setTask (takeReads s i [a]) i { t with issued := t.issued + 1, returned := t.returned ++ [t.issued] }
          if spillBase ≤ a.pa then now s
          else match slugLoc s (a.pa / 65536) (a.pa / 256 % 256) with
          | .failed _ => now s
          | .gone _ => now s
          | .at_ c _ =>
            let q := lkD s.mem.reorder c []
            if 12 ≤ q.length then s
            else go { s with mem := { s.mem with reorder := put s.mem.reorder c (q ++ [⟨i, t.issued, a.pa, cdiv (a.pa % 64 + a.len) 64⟩]) } }

/-- READ_ISSUE (R285). -/
def execReadIssue (i : SId) (s : State) : Host.Outcome State Fault Refusal := .next (readIssue s i.val)

/-- READ_DATA_RETURN: the oldest read of a channel's queue leaves with its data, received with these symbols in
error; the channel corrects, counts and records (R201 to R205). A read of a task that has ended is discarded. -/
def readReturn (s : State) (c : Nat) (errs : List SymErr) : State :=
  match lkD s.mem.reorder c [] with
  | [] => s
  | r :: rest => capped s c (r.bursts + 1) fun s =>
    let s := { s with mem := { s.mem with reorder := setD s.mem.reorder c rest [] } }
    let s := errs.foldl (fun s e =>
      match slugLoc s (r.pa / 65536) (r.pa / 256 % 256) with
      | .at_ ch l => if e.burst < 4 then applySymErr s ⟨ch, l, e.burst⟩ e.sym e.err else s
      | _ => s) s
    let s := noteRead s r.pa (64 * r.bursts - r.pa % 64) .task
    match (stream s r.stream).task with
    | some t => if t.done.isNone && decide (r.seqNo < t.issued) then setTask s r.stream { t with returned := t.returned ++ [r.seqNo] }
        else s
    | none => s

def execReadDataReturn (c : Ch) (errs : List SymErr) (s : State) : Host.Outcome State Fault Refusal :=
  .next (if runs s 1 then readReturn s c.val errs else s)

/-! ### Core halves (10.5) -/

def core (s : State) (n : Nat) : CoreSt := lkD s.cores n CoreSt.free
def setCore (s : State) (n : Nat) (x : CoreSt) : State := { s with cores := setD s.cores n x CoreSt.free }

/-- Whether a task's segments can wait for an answer from another device (R434). -/
def remoteTask (s : State) (i : Nat) : Bool :=
  match (stream s i).task with
  | some t =>
    (t.type == 1 || t.type == 2) && (match taskTable s i (streamPart s i) (t.u32 8) with
      | some tb => tb.shards.any (fun x => x.device != me s)
      | none => false)
  | none => false

/-- A stream's pending segment: its task, the segment's number, and the reads up to its end. -/
def pendingSeg (s : State) (i : Nat) : Option (TaskRun × Seg) :=
  match (stream s i).task with
  | some t =>
    if t.done.isNone && onCores t.type && engineOk s t.type then
      ((segEnds (segLimit s i) (planReads s i t) 0 0)[t.granted]?).map
        (fun k => (t, ⟨i, t.idx, t.granted, k, bitOf (strEff s i 0x30) 12⟩))
    else none
  | none => none

/-- Whether a free fill half takes segment a before segment b: the higher STR_PRIO, under PART_RR the partition whose turn
it is, then the earlier task (R167, R291). -/
def segBefore (s : State) (a b : TaskRun × Seg) : Bool :=
  let pa := strEff s a.2.strm 0x0C; let pb := strEff s b.2.strm 0x0C
  let ra := if partRr s then rrKey s 4 (streamPart s a.2.strm) else 0
  let rb := if partRr s then rrKey s 4 (streamPart s b.2.strm) else 0
  if pa ≠ pb then decide (pa < pb) else if ra ≠ rb then decide (ra < rb) else decide (a.1.admitted < b.1.admitted)

/-- Whether a core may take a segment: its stream's CORE_MASK names the core, both halves are free for a whole-buffer
segment, and the core's other half does not wait for another device too (R291, R434). -/
def coreTakes (s : State) (n : Nat) (g : Seg) : Bool :=
  let x := core s n
  let other := match x.work with | some h => !x.handed && remoteTask s h.strm | none => false
  bitOf (strEff s g.strm 0x3C) n && (!g.whole || x.work.isNone || x.handed) && !(other && remoteTask s g.strm)

/-- The pending segment that a core's free fill half takes. -/
def nextSeg (s : State) (n : Nat) : Option (TaskRun × Seg) :=
  let l := (s.streams.map (·.1)).filterMap (fun i =>
    match pendingSeg s i with
    | some (t, g) => if coreTakes s n g then some (t, g) else none
    | none => none)
  l.foldl (fun o y => match o with | some z => if segBefore s y z then some y else some z | none => some y) none

/-- FILL_HALF_GRANT: a free fill half goes to the pending segment of highest STR_PRIO, then of the earliest task. -/
def fillGrant (s : State) (n : Nat) : State :=
  let x := core s n
  if x.fill.isSome || (match x.work with | some g => g.whole && !x.handed | none => false) then s
  else
    match nextSeg s n with
    | none => s
    | some (t, g) =>
      let s := setCore s n { x with fill := some g, work := if g.whole then none else x.work }
      rrServe (setTask s g.strm { t with granted := t.granted + 1 }) 4 (streamPart s g.strm)

def execFillHalfGrant (n : CoreId) (s : State) : Host.Outcome State Fault Refusal :=
  .next (if runs s 0 then fillGrant s n.val else s)

/-- Whether every read of a segment has landed. -/
def landed (s : State) (g : Seg) : Bool :=
  match (stream s g.strm).task with
  | some t => t.idx == g.task && (List.range g.need).all (fun k => t.returned.contains k)
  | none => false

/-- HALF_SWAP (R291). -/
def halfSwap (s : State) (n : Nat) : State :=
  let x := core s n
  match x.fill with
  | some g => if (x.work.isNone || x.handed) && landed s g then setCore s n ⟨some g, none, false⟩ else s
  | none => s

def execHalfSwap (n : CoreId) (s : State) : Host.Outcome State Fault Refusal :=
  .next (if runs s 0 then halfSwap s n.val else s)

/-- CHASE_PASS: a core hands on its running sum once the core of the next segment has finished its block sum, or at
the last segment (R323, R435). -/
def chasePass (s : State) (n : Nat) : State :=
  let x := core s n
  match x.work with
  | none => s
  | some g =>
    match (stream s g.strm).task with
    | none => s
    | some t =>
      let last := decide ((segEnds (segLimit s g.strm) (planReads s g.strm t) 0 0).length ≤ g.num + 1)
      let next := s.cores.any (fun e => match e.2.work with
        | some h => h.strm == g.strm && h.task == g.task && h.num == g.num + 1 | none => false)
      if x.handed || !(last || next) then s
      else setCore (setTask s g.strm { t with passes := t.passes + 1 }) n { x with handed := true }

def execChasePass (n : CoreId) (s : State) : Host.Outcome State Fault Refusal :=
  .next (if runs s 0 then chasePass s n.val else s)

/-! ### The quoin (R288, R289) -/

/-- A bucket at a period edge. -/
def bucketEdge (level rate burst : Nat) : Nat := min (min level burst + rate) burst

/-- QUO_P_THROTTLE of a partition (Table 10.6). -/
def quoThrottleKey (p : Nat) : Nat := rk2 (0x60100 + 4 * p)

/-- Every bucket at a period edge: new settings first bound the level, then the rate is added (R288, R289). -/
def quoinEdge (s : State) : State :=
  let s := applyKeys s (fun k => keyAt k .quoin)
  let s := { s with cfg := { s.cfg with mgmtEff := s.cfg.mgmtCommitted } }
  let streams : Tab Stream := s.streams.map (fun (e : Nat × Stream) =>
    let v := strEff s e.1 0x34
    (e.1, { e.2 with level := bucketEdge e.2.level (v % 8192) (v / 65536) }))
  let s := { s with streams := streams }
  let s := s.quo.foldl (fun s e => if e.2.refused then cntAdd s (quoThrottleKey e.1) 1 else s) s
  let quo : Tab PQuo := s.quo.map (fun (e : Nat × PQuo) =>
    let q := (part s e.1).q
    (e.1, ⟨q.quoRate, q.quoBurst, bucketEdge e.2.level q.quoRate q.quoBurst, false⟩))
  let held : Tab Bool := s.hif.held.filter (fun (e : Nat × Bool) => e.2 && stopWhy s e.1 != 0)
  capEdge { s with quo := quo, hif := { s.hif with held := held } }

end Sys2Proof.Machine
end

