-- ==== Sys2Proof/Machine/OwnerSide.lean ====
section
/-! DEFINITION. What a device does for the tasks of pod members: grants (R325), owner-side partials (R324), COPY space 2
(R298); the answers as the requester takes them (R326); the quoin period (R288), which lets waiting work go on; and the
completions of host reads. -/

namespace Sys2Proof.Machine

/-- A function of a partition number that a member names; 32 is the driver domain. -/
def hdrFn (h : MsgHdr) : Nat := fnOfPart h.part.val

/-- A requester's grant is renewed by its work (R325). -/
def noteGrant (s : State) (h : MsgHdr) (handle : Nat) : State :=
  { s with pod := { s.pod with grants := put s.pod.grants (h.src.val * 2 ^ 32 + handle) s.clk.timer } }

/-- Whether a task of another device counts here as in flight on a table (log entry 19). -/
def grantHeld (s : State) (handle : Nat) : Bool :=
  s.pod.grants.any (fun e => e.1 % 2 ^ 32 == handle && decide (s.clk.timer < e.2 + creditTo s)) ||
  s.pod.ownerReqs.any (fun r => match r.msg.body with | .gpReq b => b.handle.toNat == handle | _ => false)

/-- GRANT_REQ: the partition number and DESC_CHECK are checked (R180, R226). -/
def execGrantReq (h : MsgHdr) (reqId handle descCheck : W32) (s : State) : Host.Outcome State Fault Refusal :=
  .next (onMsg s h (.grantReq reqId handle descCheck) (fun s =>
    match servedTable s h.part.val handle.toNat descCheck with
    | some t => replyMsg (noteGrant s h handle.toNat) h (.grantAns reqId true t.placed)
    | none => replyMsg s h (.grantAns reqId false false)))

/-- An answer that an exchange of this device takes. -/
def takeAnswer (h : MsgHdr) (req : W32) (b : MsgBody) (s : State) : State :=
  onMsg s h b (fun s => answerExch s h.src.val req.toNat b)

def execGrantAns (h : MsgHdr) (reqId : W32) (ok placed : Bool) (s : State) : Host.Outcome State Fault Refusal :=
  .next (takeAnswer h reqId (.grantAns reqId ok placed) s)

/-- GP_CHUNK: one record per request and chunk number; a duplicate is discarded and counted (R326). -/
def execGpChunk (h : MsgHdr) (b : GpChunk) (s : State) : Host.Outcome State Fault Refusal :=
  .next (onMsg s h (.gpChunk b) (fun s =>
    let dup := match taskOfReq s b.reqId.toNat with
      | some (i, t) => if t.ex.any (fun e => e.2.reqId == b.reqId.toNat && e.2.answers.any (fun m =>
          match m with | .gpChunk c => c.chunk == b.chunk | _ => false)) then some i else none
      | none => none
    match dup with
    | some i => cntAdd s (rk (streamFn s i) 0x3230) 1
    | none =>
      let s := answerExch s h.src.val b.reqId.toNat (.gpChunk b)
      match taskOfReq s b.reqId.toNat with
      | some (i, _) => cntAdd s (rk (streamFn s i) 0x3228) 1
      | none => s))

/-- GP_VALUE: one record per sublist entry. -/
def execGpValue (h : MsgHdr) (b : GpValue) (s : State) : Host.Outcome State Fault Refusal :=
  .next (takeAnswer h b.reqId (.gpValue b) s)

def execCpData (h : MsgHdr) (reqId : W32) (detail : Nat) (bytes : List Byte) (poison : List Bool) (s : State) :
    Host.Outcome State Fault Refusal :=
  .next (takeAnswer h reqId (.cpData reqId detail bytes poison) s)

def execCpWack (h : MsgHdr) (reqId : W32) (detail : Nat) (s : State) : Host.Outcome State Fault Refusal :=
  .next (takeAnswer h reqId (.cpWack reqId detail) s)

/-! ### Serving requests -/

/-- The chunk records of a shard partial (Table 11.5). -/
def chunkRecs (req : W32) (d : Nat) (p : ShardPart) : List MsgBody :=
  (List.range (cdiv d 1024)).map (fun k =>
    .gpChunk ⟨req, p.pooled, k, p.poisoned, 0, 0, p.dropped, 0, (p.sum.drop (1024 * k)).take 1024⟩)

/-- A record of KIND nonzero. -/
def kindRec (req : W32) (kind detail pos : Nat) : MsgBody := .gpChunk ⟨req, 0, 0, false, kind, detail, 0, pos, []⟩

/-- The work of one request: what it still needs, or its reads and its answers with the rows found poisoned. -/
inductive Serve where
  | need (l : List Need)
  | fin (tr : List Acc) (ans : List MsgBody) (bad : List (Nat × Nat × Nat))

/-- The body of a task as an owner pools for it. -/
def gpBody (b : GpReq) : GBody :=
  { raw := b.raw, handle := b.handle.toNat, mode := if b.raw then 3 else b.mode, fmt := 0, adapt := false, stride4 := 0
    nbags := 1, baglen := 0, idx := 0, len := 0, wgt := 0, out := 0, bstat := 0 }

/-- The table as a device that holds a shard as its replica serves it: requests reach a replica only for repair
(R237, R489). -/
def asOwner (s : State) (t : Table) : Table :=
  { t with
    shards := t.shards.map (fun e => if e.replicaValid && e.replica == me s then { e with device := me s } else e)
    stores := t.stores.map (fun x => { x with replica := false }) }

/-- Pool a sublist for a member (R324, R303). -/
def serveGp (c : Ctx) (b : GpReq) : Serve :=
  match servedTable c.s c.part b.handle.toNat b.descCheck with
  | none => .fin [] [kindRec b.reqId 2 0 0] []
  | some t =>
    let g := gpBody b
    let shard := match b.rows with | r :: _ => (t.place r).1 | [] => 0
    let ents := b.rows.zipIdx.map (fun (r, k) => (⟨k, r, f16to32 (b.wts.getD k 0)⟩ : Ent))
    match localPart c (asOwner c.s t) g 0 0 shard ents with
    | .need l => .need l
    | .stop e tr =>
      let pos := e.coord % 2 ^ 32
      .fin tr [if g.mode = 3 then .gpValue ⟨b.reqId, pos, false, 3, [BitVec.ofNat 8 e.detail]⟩
        else kindRec b.reqId 3 e.detail pos] []
    | .ok (r, bad) tr =>
      match r with
      | .denied => .fin tr [kindRec b.reqId 2 0 0] bad
      | .missing l =>
        .fin tr (if g.mode = 3 then l.map (fun p => .gpValue ⟨b.reqId, p, false, 1, []⟩)
          else [kindRec b.reqId 1 0 (l.headD 0)]) bad
      | .rows l _ =>
        .fin tr (l.map (fun (p, v) => match v with
          | some (x, m) => .gpValue ⟨b.reqId, p, m, 0, x⟩
          | none => .gpValue ⟨b.reqId, p, false, 1, []⟩)) bad
      | .vals p => .fin tr (chunkRecs b.reqId t.d p) bad

/-- Whether a partition number is served here at all (R298). -/
def partActive (s : State) (p : Nat) : Bool := p < 32 && (part s p).st == .active

/-- Read a buffer window for a member (R298). -/
def serveCpRd (c : Ctx) (req : W32) (addr len : Nat) : Serve :=
  if !partActive c.s c.part then .fin [] [.cpData req 1 [] []] []
  else match windowRead c (windowVa addr) len with
  | .ok b tr => .fin tr [.cpData req 0 (pbBytes b) (burstMarks addr b)] []
  | .stop e _ => .fin [] [.cpData req (2 + 256 * e.pos) [] []] []
  | .need l => .need l

/-- The handle a request names. -/
def reqHandle (b : MsgBody) : Nat := match b with | .gpReq x => x.handle.toNat | _ => 0

/-- What a request needs or comes to now. -/
def serveOf (s : State) (r : OwnerReq) : Serve :=
  let p := r.msg.hdr.part.val
  let f := match r.msg.body with | .gpReq b => fnOfPart (handleOwner b.handle.toNat) | _ => fnOfPart p
  let c : Ctx := ⟨s, 64, f, p, r.land, []⟩
  match r.msg.body with
  | .gpReq b => serveGp c b
  | .cpRd q a n => serveCpRd c q a n
  | _ => .fin [] [] []

/-- The function through which a request's spilled rows are read (R248). -/
def ownerFn (r : OwnerReq) : Nat :=
  match r.msg.body with | .gpReq b => fnOfPart (handleOwner b.handle.toNat) | _ => hdrFn r.msg.hdr

/-- Key of an exchange that this device owes (R391). -/
def owesKey (r : OwnerReq) : Nat := r.msg.hdr.src.val * 2 ^ 32 + bodyReq r.msg.body

/-- Issue the host reads and translations that a request needs. -/
def askFor (s : State) (r : OwnerReq) : List Need → OwnerReq × State
  | [] => (r, s)
  | .host a n :: l =>
    askFor s (if r.asked.contains (landKey a n) then r else { r with asked := r.asked ++ [landKey a n] }) l
  | .ats f p :: l =>
    if s.hif.atsAsked.contains (f, p) then askFor s r l
    else askFor { s with hif := { s.hif with atsAsked := s.hif.atsAsked ++ [(f, p)] } } r l
  | .msg .. :: l => askFor s r l

/-- Try one request: none where it has been answered. Its reads take tokens of the partition's bucket here. -/
def serveOne (s : State) (r : OwnerReq) : Option OwnerReq × State :=
  if !(runs s 0 && runs s 1) then (some r, s)
  else match serveOf s r with
  | .need l =>
    let (r, s) := askFor s r l
    (some r, s)
  | .fin tr ans bad =>
    let p := r.msg.hdr.part.val
    let l := (readsOf tr).drop r.issued
    let have_ := if p < 32 then (lkD s.quo p PQuo.none).level else l.length
    let k := min l.length have_
    let s := { s with quo := adj s.quo p (fun q =>
      { q with level := q.level - k, refused := q.refused || decide (k < l.length) }) }
    if k < l.length then (some { r with issued := r.issued + k }, s)
    else
      let s := noteTrace s .task [] tr
      let s := bad.foldl (fun s (row, sh, lr) =>
        match lk s.tables (reqHandle r.msg.body) with
        | some t => (match t.storeOf sh with | some x => postRowPoisoned s t x row lr | none => s)
        | none => s) s
      let s := ans.foldl (fun s b => replyMsg s r.msg.hdr b) s
      (none, { s with pod := { s.pod with owes := del s.pod.owes (owesKey r) } })

/-- Try every request that waits, in order of arrival. -/
def serveAll (s : State) : State :=
  let l := s.pod.ownerReqs
  let (kept, s) := l.foldl (fun (x : List OwnerReq × State) r =>
    let (o, s) := serveOne x.2 r
    (x.1 ++ o.toList, s)) ([], s)
  { s with pod := { s.pod with ownerReqs := kept } }

/-- A request arrives: it is worked on at once, and an answer is owed from now (R391). -/
def ownerTake (s : State) (h : MsgHdr) (b : MsgBody) : State :=
  onMsg s h b (fun s =>
    let r : OwnerReq := ⟨⟨h, b⟩, [], [], 0⟩
    let s := match b with | .gpReq q => noteGrant s h q.handle.toNat | _ => s
    let s := { s with pod := { s.pod with
      ownerReqs := s.pod.ownerReqs ++ [r], owes := put s.pod.owes (owesKey r) (s.clk.timer + msT) } }
    serveAll (demandOn (demandOn s 0) 1))

/-- GP_REQ (R324). -/
def execGpReq (h : MsgHdr) (b : GpReq) (s : State) : Host.Outcome State Fault Refusal :=
  .next (ownerTake s h (.gpReq b))

/-- CP_RD (R298). -/
def execCpRd (h : MsgHdr) (reqId : W32) (addr len : Nat) (s : State) : Host.Outcome State Fault Refusal :=
  .next (ownerTake s h (.cpRd reqId addr len))

/-- CP_WR: the write is performed here, and acknowledged (R298, R399). -/
def execCpWr (h : MsgHdr) (reqId : W32) (addr : Nat) (bytes : List Byte) (poison : List Bool) (s : State) :
    Host.Outcome State Fault Refusal :=
  .next (onMsg s h (.cpWr reqId addr bytes poison) (fun s =>
    if !partActive s h.part.val then replyMsg s h (.cpWack reqId 1)
    else
      let c : Ctx := ⟨s, 64, hdrFn h, h.part.val, [], []⟩
      let a := 2 ^ 63 + windowVa addr
      match Ev.all ((markRuns 0 (withMarks addr bytes poison)).map (fun (o, x, m) => (writeAt c (a + o) x m).shift o)) with
      | .ok w _ => replyMsg (doWrites s (hdrFn h) w.flatten) h (.cpWack reqId 0)
      | .stop e _ => replyMsg s h (.cpWack reqId (2 + 256 * e.pos))
      | .need _ => s))

/-! ### The quoin period (R288, R289) -/

/-- QUOIN_PERIOD: due every microsecond. Buckets refill, quoin-boundary values take effect, held admission goes on, and
work that waited for tokens goes on. -/
def execQuoinPeriod (s : State) : Host.Outcome State Fault Refusal :=
  .next (if !isDue s .quoin || s.pwr.off then s
    else
      let s := quoinEdge (setDue s .quoin 25)
      admitAll (serveAll s))

/-! ### Completions of host reads -/

/-- The first of a list of asked reads that a completion for an address answers. -/
def fitsRead (asked : List Nat) (a : Nat) (st : HostStatus) : Option Nat :=
  asked.find? (fun k => k / 8192 == a && (match st with | .data b => b.length == k % 8192 | _ => true))

/-- A completion for a read of a member's request or of a command of function f. -/
def commandLanded (s : State) (f a : Nat) (st : HostStatus) : State :=
  match s.ops.findIdx? (fun o => (o.fn == f || o.opcode == 0x605) && o.st == .running && (fitsRead o.asked a st).isSome) with
  | some n =>
    { s with ops := s.ops.modify n (fun o =>
        match fitsRead o.asked a st with
        | some k => { o with land := put o.land k st, asked := o.asked.erase k }
        | none => o) }
  | none =>
    match s.pod.ownerReqs.findIdx? (fun r => ownerFn r == f && (fitsRead r.asked a st).isSome) with
    | some n =>
      serveAll { s with pod := { s.pod with ownerReqs := s.pod.ownerReqs.modify n (fun r =>
        match fitsRead r.asked a st with
        | some k => { r with land := put r.land k st, asked := r.asked.erase k }
        | none => r) } }
    | none => s

/-- HOST_READ_COMPLETION (R87, R485): it lands only where such a read is outstanding. -/
def execHostReadCompletion (r : Requester) (addr : W64) (st : HostStatus) (s : State) : Host.Outcome State Fault Refusal :=
  .next (if s.pwr.off then s else match r with
    | .stream i => streamLanded s i.val addr.toNat st
    | .command f => commandLanded s f.val addr.toNat st)

/-! ### LINK_CREDIT_TIMEOUT (R392) -/

/-- An owed exchange that has heard nothing for LNK_CREDIT_TO ends. -/
def expire (s : State) (x : Exch) : Exch :=
  if x.why == 0 && decide (x.last + creditTo s ≤ s.clk.timer) then { x with why := 1 } else x

/-- Let a task go on that waits for an exchange: it ends where the exchange has (R392, R393). -/
def resumeTask (s : State) (i : Nat) : State :=
  match (stream s i).task with
  | none => s
  | some t =>
    if t.done.isSome then s
    else match t.type with
    | 1 => gatherRun s i 1
    | 2 => gatherRun s i 2
    | 3 => saRun s i
    | 8 => copyRun s i
    | 9 =>
      if !luRemote t then s
      else (match runningLockup s i (luOp t) with
        | some t => if luOp t = 1 then acquireRemote s i t else releaseRemote s i t
        | none => s)
    | _ => s

/-- LINK_CREDIT_TIMEOUT of the exchange of a request: it ends, and its task with it. -/
def execLinkCreditTimeout (reqId : W32) (s : State) : Host.Outcome State Fault Refusal :=
  .next (if dpStop s then s
    else
      let s := onExch s reqId.toNat (expire s)
      match taskOfReq s reqId.toNat with
      | some (i, t) => if t.ex.any (fun e => e.2.reqId == reqId.toNat && e.2.why == 1) then resumeTask s i else s
      | none => s)

end Sys2Proof.Machine
end

