-- ==== Sys2Proof/Machine/Repair.lean ====
section
/-! DEFINITION. ROW_REPAIR (R488 to R490). -/

namespace Sys2Proof.Machine

/-- The partition numbers under which a replica of a table may be asked, in ascending order (R180, R488). -/
def repairParts (t : Table) : List Nat :=
  if t.owner < 32 then [t.owner] else (List.range 32).filter (fun p => t.mapped.contains p)

/-- The device that holds the other copy of a store's shard. -/
def otherCopy (t : Table) (x : Store) : Option Nat :=
  let e := t.shardEnt x.shard
  if x.replica then some e.device else if e.replicaValid then some e.replica else none

/-- Whether a replica source exists (R488). -/
def hasReplica (t : Table) : Bool := !(repairParts t).isEmpty && t.stores.any (fun x => (otherCopy t x).isSome)

/-- What one source gives: a clean row, none, or a need. -/
inductive SrcRow where
  | row (b : List Byte)
  | none
  | need (l : List Need)

/-- The golden copy's row, as TABLE_LOAD would store it. -/
def goldenRow (s : State) (o : Op) (t : Table) (r : Nat) : SrcRow :=
  match t.golden with
  | .none => .none
  | some g =>
    if r < g.first || g.first + g.count ≤ r then .none
    else
      let c : Ctx := { opCtx s o with fn := g.fn, part := partOfFn g.fn }
      match readAt c (addrAdd g.src ((r - g.first) * g.stride)) (srcSize t g.fmt) with
      | .need l => .need l
      | .stop _ _ => .none
      | .ok d _ =>
        if pbBad d then .none
        else match convertRow t g.fmt (pbBytes d) with | some (b, _) => .row b | .none => .none

/-- The replica's row: each partition number is asked in turn while the answer is a denial. -/
def replicaRow (o : Op) (t : Table) (dst r k : Nat) : List Nat → SrcRow
  | [] => .none
  | p :: ps =>
    let key := 64 * k + p
    let req : GpReq := { reqId := 0, handle := BitVec.ofNat 32 t.handle, descCheck := t.descCheck, mode := 3, raw := true
                         home := 0, rows := [r], wts := [] }
    match lk o.ex key with
    | .none => .need [.msg key dst (.gpReq req)]
    | some e =>
      match e.answers.getLast? with
      | some (.gpValue v) => if v.kind = 0 && !v.poisoned && v.bytes.length = t.rowBytes then .row v.bytes else .none
      | some (.gpChunk v) => if v.kind = 2 then replicaRow o t dst r k ps else .none
      | _ => if e.why = 1 ∨ e.why = 2 then .none else .need [.msg key dst (.gpReq req)]

/-- The source row of row r under SOURCE (R489 step 2). -/
def sourceRow (s : State) (o : Op) (t : Table) (x : Store) (r k : Nat) : SrcRow :=
  let src := leAt o.req 0x0C 1 % 4
  let rep : SrcRow := if src = 1 then .none
    else match otherCopy t x with | some d => replicaRow o t d r k (repairParts t) | .none => .none
  if src = 2 then rep
  else match goldenRow s o t r with | .none => rep | y => y

/-- One row is done: repaired, unrepaired or passed over. The accumulator holds rows repaired, rows not, and the first of
these plus one. -/
def rowDone (o : Op) (fixed : Option Bool) (r : Nat) : Op :=
  let a := o.acc.getD 0 0
  let u := o.acc.getD 1 0
  let f := o.acc.getD 2 0
  let acc := match fixed with
    | some true => [a + 1, u, f]
    | some false => [a, u + 1, if f = 0 then r + 1 else f]
    | none => [a, u, f]
  { o with unitsDone := o.unitsDone + 1, acc := acc }

/-- Examine the rows that are left, until one waits (R489). -/
def repairRows (h : Nat) : List (Nat × Store × Nat) → Op → State → Op × List Need × State
  | [], o, s => (o, [], s)
  | (r, x, l) :: rest, o, s =>
    match lk s.tables h with
    | none => (o, [], s)
    | some t =>
      match slotAt t x l with
      | some (.dev p, off) =>
        let pa := p * 65536 + off
        let only := bitOf (leAt o.req 0x0C 4) 8
        if only && !pbBad (devRead s pa t.rowBytes) then
          repairRows h rest (rowDone o none r) (noteTrace s .task [] [⟨pa, t.rowBytes⟩])
        else
          match sourceRow s o t x r o.unitsDone with
          | .need q => (o, q, s)
          | .none => repairRows h rest (rowDone o (some false) r) s
          | .row b => repairRows h rest (rowDone o (some true) r) (memWrite s pa (slice b 0 t.slotBytes) false)
      | _ => repairRows h rest (rowDone o none r) s

/-- Work on a ROW_REPAIR. -/
def repairGo (s : State) (o : Op) : State :=
  let (o, q, s) := repairRows (leAt o.req 8 4) ((loadList s o).drop o.unitsDone) o s
  if !q.isEmpty then askOp s o q
  else
    let f := o.acc.getD 2 0
    let s := postG s 0x0606 2 (leAt o.req 8 4) (o.acc.getD 0 0 % 2 ^ 32 + 2 ^ 32 * (o.acc.getD 1 0))
      (if f = 0 then 2 ^ 40 - 1 else f - 1) 0
    finishOp s o .done 0 0

/-- ROW_REPAIR. -/
def rowRepair (s : State) (f : Nat) (b : List Byte) : MOut :=
  let h := leAt b 8 4
  let src := leAt b 0x0C 1 % 4
  let n := leAt b 0x18 4
  let folding (t : Table) : Bool := t.fold.isSome || (naming s h).any (fun i => taskType s i == 4)
  checked
    [rangeBad [(0x0C, src == 3), (0x10, match lk s.tables h with | some t => decide (t.rows < leAt b 0x10 5 + n) | none => false),
      (0x18, n == 0)]]
    (withTable s f h (fun t =>
      if !t.placed || folding t then .fail 0x19 3
      else if !((src != 2 && t.golden.isSome) || (src != 1 && hasReplica t)) then .fail 0x16 9
      else .start (rowsHere t (leAt b 0x10 5) n).length [0, 0, 0] s))

def execRowRepair (f : Fn) (s : State) : Host.Outcome State Fault Refusal :=
  .next (runCmd s f.val 0x605 (fun _ => true) false rowRepair repairGo)

end Sys2Proof.Machine
end

