-- ==== Sys2Proof/Machine/Cancel.lean ====
section
/-! DEFINITION. Operations that end before their end: what each leaves behind (R111, R240, R250, R440), and OP_CANCEL
(R112, R217). -/

namespace Sys2Proof.Machine

/-- What an operation that stops leaves on its object (R111). -/
def opLeft (s : State) (o : Op) : State :=
  if o.opcode = 0x301 then loadLeft s o
  else if o.opcode = 0x308 then releasePages s (handleOwner (leAt o.req 8 4)) o.acc
  else if o.opcode = 0x500 ∨ o.opcode = 0x502 then imgDrop s (isGrammar o.opcode) (o.acc.headD 0)
  else s

/-- A RUNNING operation ends CANCELLED or INTERRUPTED. -/
def stopOp (s : State) (o : Op) (st : OpSt) : State := finishOp (opLeft s o) o st 0 0

/-- Stop every RUNNING operation that a test selects, oldest first. -/
def stopOps (s : State) (st : OpSt) (sel : Op → Bool) : State :=
  ((s.ops.filter (fun o => o.st == .running && sel o)).map (·.key)).foldl (fun s k =>
    match opOf s k with
    | some o => stopOp s o st
    | none => s) s

/-- OP_CANCEL: a map-out is never cancelled (R217). -/
def opCancel (s : State) (f : Nat) (b : List Byte) : MOut :=
  match opById s f (leAt b 8 2) with
  | none => .fail 0x18 0
  | some o =>
    if o.st ≠ .running then .fail 0x19 2
    else if o.opcode = 0x601 then .fail 0x19 3
    else .ok [] (stopOp s o .cancelled) false

def execOpCancel (f : Fn) (s : State) : Host.Outcome State Fault Refusal := .next (runShort s f.val 0x101 opCancel)

end Sys2Proof.Machine
end

