-- ==== Sys2Proof/Machine/Member.lean ====
section
/-! DEFINITION. Pod membership (13.8, 13.9): joining on a link (R386, R395), members lost and returned (R393, R394,
Table 13.7), and the messages that say so. -/

namespace Sys2Proof.Machine

/-! ### JOIN_HELLO (R386, R395) -/

/-- Whether a device's coordinates lie within the ring sizes. -/
def coordsIn (nx ny nz d : Nat) : Bool := decide (coord d 0 < nx) && decide (coord d 1 < ny) && decide (coord d 2 < nz)

/-- The neighbour one step in a port's direction, modulo the ring size; none where the port's ring is of size 1. -/
def neighbour (s : State) (p : Nat) : Option Nat :=
  let dim := p / 2
  let n := ringSize s dim
  if n ≤ 1 then none
  else
    let c := coord (me s) dim
    let c' := if p % 2 = 0 then (c + 1) % n else (c + n - 1) % n
    some (me s - c * 4 ^ dim + c' * 4 ^ dim)

/-- Whether the peer's device and link number agree with R386, or with the express or spare role. -/
def wiringOk (s : State) (l dev plink : Nat) : Bool :=
  if l < 12 then
    let p := l / 2
    neighbour s p == some dev && plink == 2 * (p ^^^ 1) + l % 2
  else
    let k := linkOf s l
    decide (12 ≤ plink) &&
      (if k.role = 1 then k.rolePeer == dev else if k.role = 2 then neighbour s k.port == some dev else false)

/-- Whether a JOIN_HELLO carries this device's key, sizes and mask. -/
def helloSame (s : State) (b : JoinHello) : Bool :=
  b.key == s.pod.key && b.nx == s.pod.nx && b.ny == s.pod.ny && b.nz == s.pod.nz && b.mask == s.pod.members

/-- The other members of the pod. -/
def otherMembers (s : State) : List Nat := (List.range 64).filter (fun d => maskBit s.pod.members d && d != me s)

/-- A link opens its data channels where both sides have joined alike, or is FOREIGN (R395); a lost member that
returns is announced to every member (R394). -/
def settleHello (s : State) (l : Nat) : State :=
  let k := linkOf s l
  match k.hello with
  | none => s
  | some (dev, b) =>
    if !s.pod.joined || !(k.st == 3 || k.st == 9) then s
    else if helloSame s b && wiringOk s l dev b.link.val then
      let s := setLink s l { k with st := 3, open_ := true, miswired := false }
      if maskBit s.pod.lost dev then (otherMembers s).foldl (fun s d => sendMsg s d 32 .rejoin) s else s
    else setLink s l { k with st := 9, open_ := false, miswired := true }

/-- A message that restarts sequence numbers is taken whatever its own (log entry 20). -/
def onRestart (s : State) (h : MsgHdr) (b : MsgBody) (run : State → State) : State :=
  if s.pwr.off then s
  else
  let s := takeInbox s h b
  if h.dst.val ≠ me s then s
  else run { s with pod := { s.pod with mseqRx := put s.pod.mseqRx (mseqKey h.src.val b) h.mseq.toNat } }

/-- JOIN_HELLO on a link (R395). -/
def execJoinHello (l : Lnk) (h : MsgHdr) (b : JoinHello) (s : State) : Host.Outcome State Fault Refusal :=
  .next (onRestart s h (.joinHello b) (fun s =>
    settleHello (setLink s l.val { linkOf s l.val with hello := some (h.src.val, b) }) l.val))

/-! ### Losing a member (R393, Table 13.7) -/

/-- The exchanges owed by a lost member end. -/
def loseExch (s : State) (d : Nat) : State :=
  let ch (t : Tab Exch) : Tab Exch := t.map (fun e =>
    if e.2.dst == d && e.2.why != 1 && !e.2.applied then (e.1, { e.2 with why := 2 }) else e)
  { s with
    streams := s.streams.map (fun e => (e.1, { e.2 with task := e.2.task.map (fun t => { t with ex := ch t.ex }) }))
    ops := s.ops.map (fun o => { o with ex := ch o.ex }) }

/-- What this device does for a lost member stops: its requests and grants go, and its claims that have no SA_APPLY. -/
def loseRequests (s : State) (d : Nat) : State :=
  { s with
    pod := { s.pod with
      ownerReqs := s.pod.ownerReqs.filter (fun r => r.msg.hdr.src.val != d)
      owes := s.pod.owes.filter (fun e => e.1 / 2 ^ 32 != d)
      grants := s.pod.grants.filter (fun e => e.1 / 2 ^ 32 != d)
      outbox := s.pod.outbox.filter (fun m => m.hdr.dst.val != d || bodyVc m.body == 3) }
    tables := s.tables.map (fun e => (e.1, { e.2 with claims := e.2.claims.filter (fun c => c.dev != d) })) }

/-- Messages in transit to or from a lost member are discarded. -/
def loseTransit (s : State) (d : Nat) : State :=
  { s with pod := { s.pod with
      transit := s.pod.transit.filter (fun r => mDst r.bytes != d && mSrc r.bytes != d)
      links := s.pod.links.map (fun e => (e.1, { e.2 with
        queue := e.2.queue.filter (fun m => !(m.transit && m.sent == 0 && (m.dst == d || m.src == d))) })) } }

/-- Whether a holder is a stream of device d. -/
def Holder.ofDev (d : Nat) : Holder → Bool
  | .remote e _ _ _ => e == d
  | _ => false

/-- Leases of a lost member on this device's locks end at once, as at lease expiry (R421, Table 13.7). -/
def loseHolder (s : State) (d : Nat) : State :=
  (lockIds s).foldl (fun s j =>
    let n := ((lockOf s j).waiters.filter (fun w => w.who.ofDev d)).length
    let s := cntAdd (unqueueLock s j (Holder.ofDev d)) (lckKey 0x100C) n
    match (lockOf s j).holder with
    | some h =>
      if h.ofDev d then
        let s := cntAdd (abandonLock s j) (lckKey 0x100C) 1
        setLock s j { lockOf s j with notBefore := s.clk.timer + creditTo s }
      else s
    | none => s) s

/-- Leases on a lost member's locks are dropped and recorded. -/
def loseLeases (s : State) (d : Nat) : State :=
  (s.locks.leases.filter (fun l => l.dev == d && !l.lost)).foldl dropLease s

/-- The streams whose tasks wait for an exchange with a device. -/
def exchStreams (s : State) (d : Nat) : List Nat :=
  (s.streams.filter (fun e => match e.2.task with
    | some t => t.done.isNone && t.ex.any (fun x => x.2.dst == d)
    | none => false)).map (·.1)

/-- This device learns of the loss of member d by a rule of R393. -/
def loseMember (s : State) (d rule : Nat) : State :=
  if !s.pod.joined || d = me s || !maskBit s.pod.members d || maskBit s.pod.lost d then s
  else
    let w := exchStreams s d
    let s := { s with pod := { s.pod with lost := s.pod.lost ||| (1#64 <<< d) } }
    let s := postG s 0x0704 5 (d + 256 * rule) 0 0 0
    let s := loseLeases (loseHolder (loseTransit (loseRequests (loseExch s d) d) d) d) d
    w.foldl resumeTask s

/-- The links toward a neighbour. -/
def linksToward (s : State) (d : Nat) : List Nat :=
  (List.range 6).flatMap (fun p => if neighbour s p = some d then portLinks s p else [])

/-- LNK_LOST_HOLD in AON periods. -/
def lostHold (s : State) : Nat := max 1 (min 1000 (bar2Eff s 0x40028)) * msT

/-- Whether a link is in UP. A link that dozes, wakes or is stopped has not failed (R382, R384; log entry 17). -/
def Link.upState (k : Link) : Bool := k.st == 3 || k.st == 4 || k.st == 5 || k.st == 6

/-- MEMBER_LOST (R393): a neighbour to which no link has been in UP for LNK_LOST_HOLD. -/
def execMemberLost (d : Dev) (s : State) : Host.Outcome State Fault Refusal :=
  let ls := linksToward s d.val
  let gone := !ls.isEmpty && ls.all (fun l =>
    !(linkOf s l).upState && decide ((linkOf s l).downAt + lostHold s ≤ s.clk.timer))
  .next (if dpStop s || !gone || !isMember s d.val || d.val = me s then s
    else
      let s := loseMember s d.val 1
      (otherMembers s).foldl (fun s m =>
        if maskBit s.pod.lost m then s else sendMsg s m 32 (.lostNotice d)) s)

/-- LOST_NOTICE from any member. -/
def execLostNotice (h : MsgHdr) (member : Dev) (s : State) : Host.Outcome State Fault Refusal :=
  .next (onMsg s h (.lostNotice member) (fun s =>
    if maskBit s.pod.members h.src.val then loseMember s member.val 3 else s))

/-- LEAVE_NOTICE of a member. -/
def execLeaveNotice (h : MsgHdr) (s : State) : Host.Outcome State Fault Refusal :=
  .next (onMsg s h .leaveNotice (fun s => loseMember s h.src.val 2))

/-- REJOIN (R394): the bit clears, the pair's sequence numbers restart, and one record is written. -/
def execRejoin (h : MsgHdr) (s : State) : Host.Outcome State Fault Refusal :=
  .next (onRestart s h .rejoin (fun s =>
    let d := h.src.val
    if !s.pod.joined || !maskBit s.pod.members d then s
    else
      let keep (t : Tab Nat) : Tab Nat := t.filter (fun e => e.1 / 8 != d)
      postG { s with pod := { s.pod with
        lost := s.pod.lost &&& ~~~(1#64 <<< d), mseqTx := keep s.pod.mseqTx, mseqRx := keep s.pod.mseqRx } }
        0x0705 0 d 0 0 0))

end Sys2Proof.Machine
end

