-- ==== Sys2Proof/Machine/Reset.lean ====
section
/-! DEFINITION. Resets of a function (3.9, Table 3.11), hot reset and VF Enable (R73, R97), and what a partition's wipe
and a function's reset share: abandoning locks and emptying galley queues. -/

namespace Sys2Proof.Machine

/-- The streams of a function, in ascending number. -/
def fnStreams (s : State) (f : Nat) : List Nat :=
  (s.streams.filter (fun e => match e.2.slot with | some (g, _) => g == f | none => false)).map (·.1)

/-- Locks held by a function or its tasks enter ABANDONED, its waiters go, and owners of its leases are told (Table 3.11
step 4): how many locks, and the state. -/
def abandonFn (s : State) (f : Nat) : Nat × State :=
  let l := fnStreams s f
  let (n, s) := dropHolders s (fun h => match h with
    | .reg g => g == f
    | .strm i => l.contains i
    | .remote .. => false)
  (n, dropLeases s l.contains)

/-- The galley queues of an owner are reset and their cells returned (Table 3.11 step 6). -/
def resetQueues (s : State) (owner : Nat) : State :=
  ((s.gal.queues.filter (fun e => e.2.owner == owner)).map (·.1)).foldl (fun s q => (sweepQueue s q).2) s

/-- A stream's barrier arrival is taken back. -/
def leaveBarriers (s : State) (i : Nat) : State :=
  let l := s.locks.barriers.map (fun e => (e.1, { e.2 with arrived := e.2.arrived.filter (· != i) }))
  { s with locks := { s.locks with barriers := l.filter (fun e => !e.2.arrived.isEmpty) } }

/-- Whether a SCATTER_ADD task has a bag whose SA_APPLY some owner has not answered (R348, R350). -/
def partlyApplied (t : TaskRun) : Bool :=
  t.type == 3 && t.ex.any (fun e => e.2.applying && !e.2.applied)

/-- A task is dropped without a record of its own (Table 3.11 steps 3 to 5): what it holds is given back. -/
def dropTask (s : State) (i : Nat) : State :=
  match (stream s i).task with
  | none => s
  | some t =>
    let s := if t.type = 3 && t.done.isNone then unclaimAll s i t else s
    let s := leaveBarriers (dropHeld (dropUnit (dropSegs s i) i) i) i
    let s := endFold s i t 0x13
    setStream s i { stream s i with task := none }

/-- A stream of a function that is reset: indices 0, nothing fetched, text state empty; its slot stays assigned. -/
def Stream.cleared (x : Stream) : Stream := { Stream.idle with slot := x.slot }

/-- The record of a task that a reset aborts (Table 3.11 step 7). -/
def postAborted (s : State) (i : Nat) (t : TaskRun) : State :=
  postTask s i t 0x0103 3 (t.idx % 65536 + 65536 * t.type + 2 ^ 24 * b2n (partlyApplied t)) t.progress 0 0

/-- Whether a register of PF0's BAR2 keeps what is written to it across FLR (R161). -/
def unguardedKey (k : Nat) : Bool :=
  2 ^ 24 ≤ k && (match bar2Reg (k - 2 ^ 24) with
    | some _ => (decide (rk2 0x30080 ≤ k) && decide (k < rk2 0x30098)) || (decide (rk2 0x41080 ≤ k) && decide (k < rk2 0x42000))
    | none => false)

/-- A partition region takes its reset image, recommitted with a matching reference (Table 3.11 step 8, R183, R188). -/
def resetRegion (s : State) (f : Nat) : State :=
  let r := regionOfFn f
  let keep (t : Tab W32) : Tab W32 := t.filter (fun e => keyRegion e.1 != r)
  { s with cfg := { s.cfg with
      staged := keep s.cfg.staged, committed := keep s.cfg.committed, effective := keep s.cfg.effective
      refStaged := del s.cfg.refStaged r, refCommitted := del s.cfg.refCommitted r, live := del s.cfg.live r
      result := del s.cfg.result r, seq := del s.cfg.seq r, busy := del s.cfg.busy r
      commitAt := put s.cfg.commitAt r s.clk.aon } }

/-- PF0's device region stays in force: writes staged and not committed are lost, and the bits of STR_CTRL that no
commit covers are 0 (R164). -/
def keepRegion (s : State) : State :=
  let mine (k : Nat) : Bool := keyRegion k == 1 && !unguardedKey k
  let st := (s.cfg.staged.filter (fun e => !mine e.1))
  let s := { s with cfg := { s.cfg with
      staged := (s.cfg.committed.filter (fun e => mine e.1)).foldr (fun e t => put t e.1 e.2) st
      refStaged := put s.cfg.refStaged 1 (refCommitted s 1), live := put s.cfg.live 1 (committedCheck s 1)
      result := del s.cfg.result 1, seq := del s.cfg.seq 1, busy := del s.cfg.busy 1 } }
  (List.range 64).foldl (fun s k =>
    let c := slotKey 0 k 8
    let v := committed s c &&& 4
    setEffective (setStaged (setCommitted s c v) c v) c v) s

/-- A function's own registers return to their Reset values (Table 3.11 step 8). -/
def resetFnRegs (s : State) (f : Nat) : State :=
  let m := mbxOf s f
  let mine (k : Nat) : Bool := decide (rk f 0x3000 ≤ k) && decide (k < rk f 0x4000)
  let l := fnStreams s f
  let s := { s with
    cfg := { s.cfg with cnt := s.cfg.cnt.filter (fun e => !mine e.1) }
    hif := { s.hif with
      d3 := del s.hif.d3 f, held := del s.hif.held f, atsEnable := del s.hif.atsEnable f
      ats := s.hif.ats.filter (fun e => e.1 / 2 ^ 52 != f), atsAsked := s.hif.atsAsked.filter (fun e => e.1 != f)
      lckResult := del s.hif.lckResult f, snap := del s.hif.snap f }
    streams := s.streams.map (fun e => if l.contains e.1 then (e.1, e.2.cleared) else e)
    stallRem := s.stallRem.filter (fun e => !l.contains (e.1 / 8))
    ops := (s.ops.filter (fun o => !(o.fn == f && o.st != .running))).map (fun o => if o.fn = f then { o with id := 0 } else o) }
  let orphan := match m.latched with | some r => some r | none => m.orphan
  let s := setMbx s f { Mbx.fresh with orphan := orphan, permitted := m.permitted, deprecated := m.deprecated }
  if f = 0 then keepRegion s else resetRegion s f

/-- Reads of a function's BARs that stall are answered with all ones (R98). -/
def flushStalled (s : State) (f : Nat) : State :=
  let l := s.hif.stalled.filter (fun r => r.1 == f)
  let s := l.foldl (fun s r => busValue s f r.2.1 r.2.2.1 0xFFFFFFFF) s
  { s with hif := { s.hif with stalled := s.hif.stalled.filter (fun r => r.1 != f) } }

/-- FLR of one function (R95, R96), whole. -/
def flrOne (s : State) (f : Nat) : State :=
  let l := fnStreams s f
  let tasks := l.filterMap (fun i => ((stream s i).task).map (fun t => (i, t)))
  let s := flushStalled s f
  let s := l.foldl dropTask s
  let (n, s) := abandonFn s f
  let s := resetQueues s (partOfFn f)
  let s := tasks.foldl (fun s (i, t) => postAborted s i t) s
  let s := postG s 0x0104 2 f tasks.length n 0
  resetFnRegs s f

/-- Clearing VF Enable acts as an FLR of every VF (R97). -/
def clearVfs (s : State) : State :=
  let n := if s.hif.vfEnable then s.hif.numVfs else 0
  let s := (List.range n).foldl (fun s v => flrOne s (v + 1)) s
  { s with hif := { s.hif with vfEnable := false, numVfs := 0 } }

/-- FLR of a function; that of PF0 clears VF Enable. -/
def flr (s : State) (f : Nat) : State := if f = 0 then flrOne (clearVfs s) 0 else flrOne s f

/-- FLR. -/
def execFlr (f : Fn) (s : State) : Host.Outcome State Fault Refusal :=
  .next (if s.hif.pcieReady && !s.pwr.off && !s.jtag.perst && fnExists s f.val then flr s f.val else s)

/-- HOT_RESET, and DL_Down: an FLR of PF0; the link is down, and ASPM L1 is disabled (R72, R73). -/
def execHotReset (s : State) : Host.Outcome State Fault Refusal :=
  .next (if s.pwr.off || s.jtag.perst then s
    else
      let s := if s.hif.pcieReady then flr s 0 else s
      { s with hif := { s.hif with dlActive := false, aspmL1 := false } })

/-- VF_ENABLE_CLEAR. -/
def execVfEnableClear (s : State) : Host.Outcome State Fault Refusal :=
  .next (if s.hif.pcieReady && !s.pwr.off && s.hif.vfEnable then clearVfs s else s)

end Sys2Proof.Machine
end

