-- ==== Sys2Proof/Machine/Partition.lean ====
section
/-! DEFINITION. Partitions (chapter 6): quotas and their pools (R169 to R171), creation, stream assignment and release
(R183 to R186), wipe and destroy (R187, R188, Table 6.2), and PARTITION_QUERY (Table 6.4). -/

namespace Sys2Proof.Machine

/-! ### Quotas (R169 to R172, Table 6.3) -/

/-- The quota block of a request. -/
def parseQuota (b : List Byte) : Quota :=
  { memPages := leAt b 0x0C 4, bufPages := leAt b 0x10 4, galRes := leAt b 0x14 4, galMax := leAt b 0x18 4
    maxTables := leAt b 0x1C 4, quoRate := leAt b 0x20 2, quoBurst := leAt b 0x22 2, linkShare := leAt b 0x24 4
    locks := (List.range 4).map (fun n => ⟨leAt b (0x28 + 4 * n) 2, leAt b (0x2A + 4 * n) 2⟩) }

/-- Bytes 0x0C to 0x37 of the block. -/
def quotaBytes (q : Quota) : List Byte :=
  leBytes 4 q.memPages ++ leBytes 4 q.bufPages ++ leBytes 4 q.galRes ++ leBytes 4 q.galMax ++ leBytes 4 q.maxTables ++
  leBytes 2 q.quoRate ++ leBytes 2 q.quoBurst ++ leBytes 4 q.linkShare ++
  (List.range 4).flatMap (fun n => match q.locks[n]? with
    | some r => leBytes 2 r.base ++ leBytes 2 r.count
    | none => leBytes 4 0)

/-- The range checks of Table 6.1. -/
def quotaRange (target : Nat) (q : Quota) : Bool × Nat × Nat :=
  rangeBad ([(0x08, decide (32 ≤ target)), (0x10, decide (q.memPages < q.bufPages)), (0x14, decide (q.galMax < q.galRes)),
    (0x18, decide (65536 < q.galMax)), (0x1C, decide (4096 < q.maxTables)),
    (0x20, q.quoRate == 0 || decide (5333 < q.quoRate)), (0x22, decide (q.quoBurst < q.quoRate)),
    (0x24, decide (256 < q.linkShare))] ++
    q.locks.zipIdx.map (fun (r, n) => (0x2A + 4 * n, decide (1024 < r.base + r.count))))

/-- What the partitions but p reserve of a quota. -/
def othersHold (s : State) (p : Nat) (g : Quota → Nat) : Nat :=
  ((livingParts s).map (fun e => if e.1 = p then 0 else g e.2.q)).sum

/-- Pages that page retirement has taken. -/
def retiredPages (s : State) : Nat := (s.pages.filter (fun e => e.2 == .retired)).length

/-- The device pools (R170). -/
def memPool (s : State) : Nat := s.mem.pmax - dttPages s - repairPages - retiredPages s - objectPages s 32
def galPool : Nat := 61440
def linkPool : Nat := 256
def tablePool (s : State) : Nat := 4096 - tablesOwned s 32

/-- The pools that a block would exceed, in DETAIL order. -/
def poolChecks (s : State) (p : Nat) (q : Quota) : List (Bool × Nat × Nat) :=
  [(decide (memPool s < othersHold s p (·.memPages) + q.memPages), 0x16, 1),
   (decide (galPool < othersHold s p (·.galRes) + q.galRes), 0x16, 2),
   (decide (linkPool < othersHold s p (·.linkShare) + q.linkShare), 0x16, 3),
   (decide (tablePool s < othersHold s p (·.maxTables) + q.maxTables), 0x16, 4)]

/-! ### The buffer window (6.3, 6.7.3) -/

/-- The streams of a partition whose task is in flight. -/
def busyStreams (s : State) (p : Nat) : List Nat :=
  (fnStreams s (p + 1)).filter (fun i => match (stream s i).task with | some t => t.done.isNone | none => false)

/-- Pages above a lowered BUF_PAGES are unmapped, held for the tasks in flight. -/
def lowerWindow (s : State) (p n : Nat) : State :=
  let l := busyStreams s p
  { s with pages := s.pages.map (fun e => match e.2 with
      | .buffer q v =>
        if q = p ∧ n ≤ v then (e.1, if l.isEmpty then PageUse.zeroing p else PageUse.heldBuffer p v l) else e
      | _ => e) }

/-- Give a partition's window the pages from VPN n on, k of them; none where too few zeroed pages are free. -/
def growWindow (s : State) (p n k : Nat) : Option State := (takePages s (fun i => .buffer p (n + i)) k).map (·.2)

/-! ### PARTITION_CREATE and PARTITION_SET_QUOTA -/

/-- PERMITTED and ENABLED hold BASE alone. -/
def capsToBase (s : State) (f : Nat) : State := setMbx s f { mbxOf s f with permitted := 1, enabled := 1 }

/-- A block takes effect: the regulators take it at the next quoin period (R172). -/
def setQuota (s : State) (p : Nat) (q : Quota) : State := setPart s p { part s p with q := q }

/-- PARTITION_CREATE (R183). -/
def partCreate (s : State) (_f : Nat) (b : List Byte) : MOut :=
  let p := leAt b 8 1
  let q := parseQuota b
  checked ([quotaRange p q, ((part s p).st != .absent, 0x19, 3)] ++ poolChecks s p q)
    (let s := setPart s p ⟨.active, q, ((part s p).gen + 1) % 2 ^ 32⟩
     let s := resetRegion (capsToBase s (p + 1)) (p + 1)
     let s := { s with quo := put s.quo p ⟨q.quoRate, q.quoBurst, q.quoBurst, false⟩ }
     match growWindow s p 0 q.bufPages with
     | some s => .ok [] s true
     | none => .fail 0x16 1)

/-- PARTITION_SET_QUOTA (R171, R184). -/
def partSetQuota (s : State) (_f : Nat) (b : List Byte) : MOut :=
  let p := leAt b 8 1
  let q := parseQuota b
  let x := part s p
  checked ([quotaRange p q, (x.st != .active, 0x19, 3),
      (decide (q.memPages < objectPages s p + q.bufPages) || decide (q.galMax < lkD s.gal.held p 0) ||
        decide (q.maxTables < tablesOwned s p), 0x19, 3)] ++ poolChecks s p q)
    (let s := setQuota s p q
     if q.bufPages ≤ x.q.bufPages then .ok [] (lowerWindow s p q.bufPages) true
     else
       match growWindow s p x.q.bufPages (q.bufPages - x.q.bufPages) with
       | some s => .ok [] s true
       | none => .fail 0x16 1)

def execPartitionCreate (f : Fn) (s : State) : Host.Outcome State Fault Refusal := .next (runShort s f.val 0x200 partCreate)
def execPartitionSetQuota (f : Fn) (s : State) : Host.Outcome State Fault Refusal :=
  .next (runShort s f.val 0x201 partSetQuota)

/-! ### Streams (R150, R185, R186) -/

/-- The registers of a slot return to their Reset values, and its stall counters to zero. -/
def resetSlot (s : State) (f k : Nat) : State :=
  let keep (t : Tab W32) : Tab W32 := delRange t (slotKey f k 0) (slotKey f (k + 1) 0)
  { s with cfg := { s.cfg with
      staged := keep s.cfg.staged, committed := keep s.cfg.committed, effective := keep s.cfg.effective
      cnt := delRange s.cfg.cnt (rk f (0x3800 + 0x20 * k)) (rk f (0x3800 + 0x20 * (k + 1))) } }

/-- The function of a target: 0xFF is PF0. -/
def targetFn (t : Nat) : Nat := if t = 0xFF then 0 else t + 1

/-- PARTITION_ASSIGN_STREAM. -/
def assignStream (s : State) (_f : Nat) (b : List Byte) : MOut :=
  let w := leAt b 8 4
  let t := w % 256
  let i := bits w 13 8
  let k := bits w 21 16
  let f := targetFn t
  checked
    [rangeBad [(0x08, decide (32 ≤ t) && t != 0xFF)],
     (t != 0xFF && (part s t).st != .active, 0x18, 0),
     ((stream s i).slot.isSome || (slotStream s f k).isSome, 0x19, 3)]
    (.ok [] (setStream (resetSlot s f k) i { Stream.idle with slot := some (f, k) }) true)

/-- Whether chain j is bound by a STR_CHAIN value (R295). -/
def bindsChain (v : Nat) (i : Nat) : Bool :=
  let own (c : Option Nat) : Bool := match c with | some j => j / 4 == i | none => false
  own (chainsOf v).1 || own (chainsOf v).2

/-- R297: a slot of the function binds one of the stream's chains, staged or committed, or one holds a cell. -/
def chainsBusy (s : State) (i f : Nat) : Bool :=
  (List.range 64).any (fun k => bindsChain (staged s (slotKey f k 0x38)).toNat i ||
    bindsChain (committed s (slotKey f k 0x38)).toNat i) ||
  (List.range 4).any (fun n => match gq s (0x200 + 4 * i + n) with
    | some x => x.val 4 + x.headroom.length != 0
    | none => false)

/-- The galley queues of a stream: staging, platen and chain queues (Table 9.1). -/
def streamQueues (i : Nat) : List Nat := [i, 0x40 + i] ++ (List.range 4).map (fun n => 0x200 + 4 * i + n)

/-- The queues of a stream that loses its function: their cells return, and they belong to nobody. -/
def dropQueues (s : State) (i : Nat) : State :=
  let l := (streamQueues i).filter (fun q => (lk s.gal.queues q).isSome)
  let s := l.foldl (fun s q => (sweepQueue s q).2) s
  { s with gal := { s.gal with queues := l.foldl del s.gal.queues } }

/-- The conditions of R186, R150 and R297. -/
def releasable (s : State) (i f k : Nat) : Bool :=
  let x := stream s i
  x.task.isNone && x.fetched.isEmpty && x.tail == x.cpl &&
  slotOffs.all (fun o => staged s (slotKey f k o) == keyReset (slotKey f k o) &&
    committed s (slotKey f k o) == keyReset (slotKey f k o)) && !chainsBusy s i f

/-- A stream is returned to the unassigned state. -/
def unassign (s : State) (i f k : Nat) : State :=
  let s := dropQueues s i
  { resetSlot s f k with streams := del s.streams i }

/-- The same, wherever its slot is. -/
def unassignIn (s : State) (i : Nat) : State :=
  match (stream s i).slot with
  | some (f, k) => unassign s i f k
  | none => s

/-- PARTITION_RELEASE_STREAM. -/
def releaseStream (s : State) (_f : Nat) (b : List Byte) : MOut :=
  let i := leAt b 8 1 % 64
  match (stream s i).slot with
  | none => .fail 0x18 0
  | some (f, k) => if releasable s i f k then .ok [] (unassign s i f k) true else .fail 0x19 3

def execPartitionAssignStream (f : Fn) (s : State) : Host.Outcome State Fault Refusal :=
  .next (runShort s f.val 0x202 assignStream)
def execPartitionReleaseStream (f : Fn) (s : State) : Host.Outcome State Fault Refusal :=
  .next (runShort s f.val 0x203 releaseStream)

/-! ### PARTITION_WIPE and PARTITION_DESTROY (R187, R188, Table 6.2) -/

/-- Steps 1 and 2: the operations on the partition's objects end CANCELLED, and admission stops. -/
def wipeStart (s : State) (_f : Nat) (b : List Byte) : MOut :=
  let p := leAt b 8 1
  let destroy := reqOp b == 0x205
  checked [rangeBad [(0x08, decide (32 ≤ p))], ((part s p).st != .active, 0x19, 3)]
    (let s := stopOps s .cancelled (fun o => o.id != 0 && opPart o == p)
     .start (part s p).q.memPages [] (hold (setPart s p { part s p with st := if destroy then .destroying else .wiping }) [p + 1]))

/-- Step 6: every object of the partition goes, and shared tables are unmapped from it. -/
def destroyObjects (s : State) (p : Nat) : State :=
  let own (k : Nat) : Bool := k / 256 == p
  let s := ((s.tables.filter (fun e => e.2.owner == p)).map (·.2)).foldl dropTable s
  let s := ((s.tables.filter (fun e => e.2.mapped.contains p)).map (·.1)).foldl (fun s h => unmapFrom s h p) s
  let s := ((s.adapters.filter (fun e => own e.1)).map (·.2)).foldl (fun s a => releasePages s p a.pages) s
  let s := { s with adapters := s.adapters.filter (fun e => !own e.1), bindings := s.bindings.filter (fun e => e.1 / 2 ^ 32 != p) }
  let imgs (s : State) (g : Bool) : State :=
    (((if g then s.grammars else s.profiles).filter (fun e => e.2.owner == p)).map (·.1)).foldl (fun s k => imgDrop s g k) s
  let l := fnStreams s (p + 1)
  let s := imgs (imgs s false) true
  { s with streams := s.streams.map (fun e =>
      if l.contains e.1 then (e.1, { e.2 with text := { e.2.text with stops := [], stopsNow := [] } }) else e) }

/-- Step 7: every page of the partition is zeroed; its window keeps its pages, and the others join the free pool. -/
def zeroPages (s : State) (p : Nat) : State :=
  s.pages.foldl (fun s (k, u) => match u with
    | .buffer q _ => if q = p then zeroPage s k else s
    | .heldBuffer q _ _ => if q = p then setPage (zeroPage s k) k .free else s
    | .object q => if q = p then setPage (zeroPage s k) k .free else s
    | .zeroing q => if q = p then setPage (zeroPage s k) k .free else s
    | _ => s) s

/-- Step 8: GENERATION rises, and a record goes to each log. -/
def postWiped (s : State) (p : Nat) (destroy : Bool) : State :=
  let x := part s p
  let g := (x.gen + 1) % 2 ^ 32
  let s := setPart s p { x with gen := g }
  let p0 := p + 256 * b2n destroy + 2 ^ 32 * g
  postG (postP s p 0x0207 2 p0 x.q.memPages 0 0) 0x0207 2 p0 x.q.memPages 0 0

/-- The end of a destroy (R188): streams and reservations go back, and the partition is ABSENT. -/
def destroyEnd (s : State) (p : Nat) : State :=
  let f := p + 1
  let s := (fnStreams s f).foldl unassignIn s
  let s := capsToBase (resetRegion s f) f
  let s := { s with
    pages := s.pages.map (fun e => match e.2 with
      | .buffer q _ => if q = p then (e.1, PageUse.free) else e
      | _ => e)
    quo := del s.quo p }
  setPart s p ⟨.absent, Quota.none, (part s p).gen⟩

/-- Whether a short command of a function still works on its objects. -/
def shortRuns (s : State) (f : Nat) : Bool := s.ops.any (fun o => o.fn == f && o.opcode == 0x310 && o.st == .running)

/-- Work on a wipe or destroy: the tasks in flight end first (step 3), then steps 4 to 9. -/
def wipeGo (s : State) (o : Op) : State :=
  let p := leAt o.req 8 1
  let f := p + 1
  let destroy := o.opcode == 0x205
  if (fnStreams s f).any (fun i => (stream s i).task.isSome) || shortRuns s f || !runs s 1 then s
  else
    let s := (abandonFn s f).2
    let s := destroyObjects (resetQueues s p) p
    let s := postWiped (zeroPages s p) p destroy
    let s := if destroy then destroyEnd s p else hold (setPart s p { part s p with st := .active }) [f]
    finishOp (fwCommit s) { o with unitsDone := o.unitsTotal } .done 0 0

def execPartitionWipe (f : Fn) (s : State) : Host.Outcome State Fault Refusal :=
  .next (runCmd s f.val 0x204 (fun _ => true) false wipeStart wipeGo)
def execPartitionDestroy (f : Fn) (s : State) : Host.Outcome State Fault Refusal :=
  .next (runCmd s f.val 0x205 (fun _ => true) false wipeStart wipeGo)

/-! ### PARTITION_QUERY (R190) -/

/-- Galley cells that an owner holds. -/
def cellsHeld (s : State) (o : Nat) : Nat := lkD s.gal.held o 0

/-- Locks of this device that a partition number's function and tasks hold. -/
def locksHeld (s : State) (p : Nat) : Nat :=
  (s.locks.locks.filter (fun e => match e.2.holder with
    | some (.reg f) => partOfFn f == p
    | some (.strm i) => streamPart s i == p
    | _ => false)).length

/-- Pages that await zeroing. -/
def pendingZero (s : State) (sel : Nat → Bool) : Nat :=
  (s.pages.filter (fun e => match e.2 with | .zeroing q => sel q | _ => false)).length

/-- What the pools have left, in a quota block's form. -/
def poolLeft (s : State) : Quota :=
  { Quota.none with
    memPages := memPool s - othersHold s 32 (·.memPages), galRes := galPool - othersHold s 32 (·.galRes)
    maxTables := tablePool s - othersHold s 32 (·.maxTables), linkShare := linkPool - othersHold s 32 (·.linkShare) }

/-- PARTITION_QUERY. -/
def partQuery (s : State) (f : Nat) (b : List Byte) : MOut :=
  let t := leAt b 8 1
  if f ≠ 0 ∧ t ≠ f - 1 then .fail 0x18 0
  else if 32 ≤ t ∧ t ≠ 0xFF then .fail 0x12 8
  else
    let p := if t = 0xFF then 32 else t
    let st := if p = 32 then 1 else match (part s p).st with | .absent => 0 | .active => 1 | .wiping => 2 | .destroying => 3
    let q := if p = 32 then poolLeft s else (part s p).q
    let pend := if f ≠ 0 then 0 else pendingZero s (fun q => p == 32 || q == p)
    .ok (leBytes 4 (st + 2 ^ 8 * p + 2 ^ 16 * streamCount s (fnOfPart p)) ++ quotaBytes q ++ leBytes 4 (objectPages s p) ++
      leBytes 4 (cellsHeld s p) ++ leBytes 4 (tablesOwned s p) ++ leBytes 4 (locksHeld s p) ++ leBytes 4 pend ++
      leBytes 4 (if p = 32 then 0 else (part s p).gen)) s false

def execPartitionQuery (f : Fn) (s : State) : Host.Outcome State Fault Refusal := .next (runShort s f.val 0x206 partQuery)

end Sys2Proof.Machine
end

