-- ==== Sys2Proof/Machine/PodCmds.lean ====
section
/-! DEFINITION. The pod commands (13.9, Table 13.8): POD_JOIN (R395), POD_LEAVE (R396), the five actions of
LINK_CONTROL (R377, R380, R381), POD_QUERY and the words it shares with the link registers (R398). -/

namespace Sys2Proof.Machine

/-! ### The words of the link registers (Table 13.10) -/

/-- The code of a ring size: 0 for 1, 1 for 2, 2 for 4. -/
def sizeCode (n : Nat) : Nat := if n = 4 then 2 else if n = 2 then 1 else 0

/-- LNK_POD. -/
def lnkPod (s : State) : Nat :=
  me s + 2 ^ 6 * b2n s.pod.joined + 2 ^ 8 * sizeCode s.pod.nx + 2 ^ 10 * sizeCode s.pod.ny + 2 ^ 12 * sizeCode s.pod.nz

/-- Flaps of a link in the last second, saturating at 15. -/
def flapsNow (s : State) (k : Link) : Nat := min 15 (k.flaps.filter (fun t => decide (s.clk.aon < t + secT))).length

/-- LNK_STAT. -/
def lnkStat (s : State) (l : Nat) : Nat :=
  let k := linkOf s l
  k.st % 16 + 2 ^ 4 * (k.width % 4) + 2 ^ 6 * b2n k.pair + 2 ^ 7 * b2n k.open_ + 2 ^ 8 * (k.peerDev % 64) +
  2 ^ 14 * (k.peerLink % 16) + 2 ^ 18 * b2n k.miswired + 2 ^ 24 * flapsNow s k

/-- LNK_ROLE. -/
def lnkRole (s : State) (l : Nat) : Nat :=
  let k := linkOf s l
  k.role % 4 + 2 ^ 2 * (k.port % 8) + 2 ^ 8 * (k.rolePeer % 64)

/-! ### POD_JOIN (R395) -/

/-- A POD_JOIN request. -/
structure JoinReq where
  sizes : Nat
  nx : Nat
  ny : Nat
  nz : Nat
  key : Nat
  mask : W64

def parseJoin (b : List Byte) : JoinReq :=
  let w := leAt b 8 4
  ⟨w, 2 ^ (w % 4), 2 ^ (w / 4 % 4), 2 ^ (w / 16 % 4), leAt b 0x0C 4, BitVec.ofNat 64 (leAt b 0x10 8)⟩

/-- ROLE, spare PORT and express PEER of link 12 + e. -/
def joinRole (b : List Byte) (e : Nat) : Nat × Nat × Nat :=
  let w := leAt b (0x18 + 4 * e) 4
  (w % 4, w / 4 % 8, w / 256 % 64)

/-- A role that is undefined, or whose port has no neighbour. -/
def roleBad (j : JoinReq) (b : List Byte) (e : Nat) : Bool :=
  let (r, port, _) := joinRole b e
  r == 3 || (r == 2 && (decide (5 < port) || [j.nx, j.ny, j.nz].getD (port / 2) 1 == 1))

/-- An express peer that is no member, or this device. -/
def peerBad (s : State) (j : JoinReq) (b : List Byte) (e : Nat) : Bool :=
  let (r, _, peer) := joinRole b e
  r == 1 && (peer == me s || !maskBit j.mask peer)

/-- The range checks: a member outside the sizes, or this device's clear bit, is a fault of the mask word it lies in. -/
def joinRange (s : State) (b : List Byte) : List (Nat × Bool) :=
  let j := parseJoin b
  let bad (h : Nat) : Bool := (List.range 32).any (fun i =>
    let d := 32 * h + i
    (maskBit j.mask d && !coordsIn j.nx j.ny j.nz d) || (d == me s && !maskBit j.mask d))
  [(0x08, j.sizes % 4 == 3 || j.sizes / 4 % 4 == 3 || j.sizes / 16 % 4 == 3 || !coordsIn j.nx j.ny j.nz (me s)),
   (0x0C, j.key == 0), (0x10, bad 0), (0x14, bad 1)] ++
  (List.range 4).flatMap (fun e => [(0x18 + 4 * e, roleBad j b e), (0x19 + 4 * e, peerBad s j b e)])

/-- The roles that a join gives the links; an unused one takes no message. -/
def setRoles (s : State) (b : List Byte) : State :=
  let s := (List.range 12).foldl (fun s l => setLink s l { linkOf s l with role := 0, port := l / 2, rolePeer := 0 }) s
  (List.range 4).foldl (fun s e =>
    let (r, port, peer) := joinRole b e
    setLink s (12 + e) { linkOf s (12 + e) with
      role := if r = 0 then 3 else r, port := if r = 2 then port else 0, rolePeer := if r = 1 then peer else 0 }) s

/-- A link on which MGMT traffic reaches its peer. -/
def Link.carries (k : Link) : Bool := k.st == 3 || k.st == 4 || k.st == 5 || k.st == 6 || k.st == 9

/-- The device joins: sequence numbers start anew (R372), JOIN_HELLO goes out on every link, and the hellos that peers
have sent are taken up. -/
def joinNow (s : State) (b : List Byte) : State :=
  let j := parseJoin b
  let s := setRoles { s with pod := { s.pod with
    joined := true, leaving := none, nx := j.nx, ny := j.ny, nz := j.nz, key := BitVec.ofNat 32 j.key, members := j.mask
    lost := 0, mseqTx := [], mseqRx := [] } } b
  let s := (List.range 16).foldl (fun s l => if (linkOf s l).carries then helloOn s l else s) s
  (List.range 16).foldl settleHello s

/-- POD_JOIN. -/
def podJoin (s : State) (f : Nat) (b : List Byte) : MOut :=
  checked [rangeBad (joinRange s b), (!capOn s f 7, 0x15, 7), (s.pod.joined, 0x19, 3)] (.start 16 [] (joinNow s b))

/-- Links settled (R395). -/
def settledLinks (s : State) : Nat :=
  ((List.range 16).filter (fun l => [0, 1, 3, 8, 9].contains (linkOf s l).st)).length

/-- Work on a join: it ends once every link has settled, or 1 s after its acceptance. -/
def joinGo (s : State) (o : Op) : State :=
  let n := settledLinks s
  let o := { o with unitsDone := n }
  if n = 16 || decide (o.at_ + secT ≤ s.clk.aon) then finishOp s o .done 0 0 else setOp s o

def execPodJoin (f : Fn) (s : State) : Host.Outcome State Fault Refusal :=
  .next (runCmd s f.val 0x800 (fun _ => true) false podJoin joinGo)

/-! ### POD_LEAVE (R396) -/

/-- Exchanges that tasks and operations of this device are still owed an answer to. -/
def owedCount (s : State) : Nat :=
  let n (t : Tab Exch) : Nat := (t.filter (fun e => e.2.why == 0)).length
  (s.streams.map (fun e => match e.2.task with | some t => if t.done.isNone then n t.ex else 0 | none => 0)).sum +
  (s.ops.map (fun o => n o.ex)).sum

/-- POD_LEAVE: step 1. -/
def podLeave (s : State) (_f : Nat) (_b : List Byte) : MOut :=
  checked [(!s.pod.joined, 0x19, 3)]
    (.start (owedCount s) [] { s with pod := { s.pod with leaving := some s.clk.aon } })

/-- Steps 3 and 4: the notices, and the device is in no pod. -/
def leaveNow (s : State) : State :=
  let s := (otherMembers s).foldl (fun s d => if maskBit s.pod.lost d then s else sendMsg s d 32 .leaveNotice) s
  { s with pod := { s.pod with
      joined := false, leaving := none, key := 0, members := 0, lost := 0
      links := s.pod.links.map (fun e => (e.1, { e.2 with open_ := false })) } }

/-- Work on a leave: step 2. -/
def leaveGo (s : State) (o : Op) : State :=
  let n := owedCount s
  let o := { o with unitsDone := o.unitsTotal - n }
  if n = 0 || decide (o.at_ + creditTo s ≤ s.clk.aon) then finishOp (leaveNow s) o .done 0 0 else setOp s o

def execPodLeave (f : Fn) (s : State) : Host.Outcome State Fault Refusal :=
  .next (runCmd s f.val 0x801 (fun _ => true) false podLeave leaveGo)

/-! ### LINK_CONTROL -/

/-- The link and the ACTION of a request. -/
def lcLink (b : List Byte) : Nat := leAt b 8 1 % 16
def lcAction (b : List Byte) : Nat := leAt b 9 1 % 16

/-- A link goes down by command: no flap is counted, and its port fails over (R377, R379). -/
def lowerLink (s : State) (l : Nat) : State := failover (toTraining s l) l

/-- DISABLE: a quarantined link stays in QUARANTINED (R380). -/
def lcDisable (s : State) (l : Nat) : State :=
  let k := linkOf s l
  if k.st = 0 || k.st = 7 then s
  else
    let s := lowerLink s l
    setLink s l { linkOf s l with st := 0, open_ := false }

/-- ENABLE: a link that is disabled, has failed or has found no peer trains. -/
def lcEnable (s : State) (l : Nat) : State :=
  let k := linkOf s l
  if k.st = 0 || k.st = 1 || k.st = 8 then toTraining s l else s

/-- RELEASE: quarantine ends with its record, and the link trains (R380). -/
def lcRelease (s : State) (l : Nat) : State :=
  if (linkOf s l).st = 7 then toTraining (postG s 0x0702 0 l 0 0 0) l else s

/-- WIDTH_2 and WIDTH_4: a link in use retrains to the width asked for, which is no flap (R381). -/
def lcWidth (s : State) (l : Nat) (narrow : Bool) : State :=
  let k := linkOf s l
  let s := setLink s l { k with narrow := narrow }
  if (k.st == 3 || k.st == 4 || k.st == 5 || k.st == 9) && k.width != (if narrow then 1 else 2) then lowerLink s l else s

/-- LINK_CONTROL of one action. -/
def linkControl (run : State → Nat → State) (s : State) (_f : Nat) (b : List Byte) : MOut :=
  checked [rangeBad [(0x09, decide (4 < lcAction b))]] (.ok [] (run s (lcLink b)) false)

/-- A row of LINK_CONTROL. -/
def runLink (s : State) (f : Nat) (sel : Nat → Bool) (run : State → Nat → State) : State :=
  runCmd s f 0x802 (fun b => sel (lcAction b)) false (linkControl run) (fun s _ => s)

/-- LINK_CONTROL with ACTION DISABLE; an ACTION that Table 13.8 does not give is refused here. -/
def execLinkControlDisable (f : Fn) (s : State) : Host.Outcome State Fault Refusal :=
  .next (runLink s f.val (fun a => a == 0 || decide (4 < a)) lcDisable)
def execLinkControlEnable (f : Fn) (s : State) : Host.Outcome State Fault Refusal :=
  .next (runLink s f.val (· == 1) lcEnable)
def execLinkControlRelease (f : Fn) (s : State) : Host.Outcome State Fault Refusal :=
  .next (runLink s f.val (· == 2) lcRelease)
def execLinkControlWidth2 (f : Fn) (s : State) : Host.Outcome State Fault Refusal :=
  .next (runLink s f.val (· == 3) (fun s l => lcWidth s l true))
def execLinkControlWidth4 (f : Fn) (s : State) : Host.Outcome State Fault Refusal :=
  .next (runLink s f.val (· == 4) (fun s l => lcWidth s l false))

/-! ### POD_QUERY -/

/-- POD_QUERY. -/
def podQuery (s : State) (_f : Nat) (_b : List Byte) : MOut :=
  .ok (leBytes 4 (lnkPod s) ++ leBytes 4 s.pod.key.toNat ++ leBytes 8 s.pod.members.toNat ++ leBytes 8 s.pod.lost.toNat ++
    (List.range 16).flatMap (fun l => leBytes 4 (lnkStat s l))) s false

def execPodQuery (f : Fn) (s : State) : Host.Outcome State Fault Refusal := .next (runShort s f.val 0x803 podQuery)

end Sys2Proof.Machine
end

