-- ==== Sys2Proof/Machine/Control.lean ====
section
/-! DEFINITION. Resets of the control processor (R24, R100, R101, R111, R127, R217): the watchdog and SRAM reset,
CP_RESTART and an image that does not start, and the restart of Onaman. -/

namespace Sys2Proof.Machine

/-- A sweep under way goes on from its cursor under a new record (R217). -/
def resumeSweep (s : State) (o : Op) : State :=
  match s.mem.sweep with
  | none => s
  | some w =>
    let (n, s) := beginOp s o.fn o.opcode o.unitsTotal o.req o.acc (o.id == 0)
    setOp { s with mem := { s.mem with sweep := some { w with op := n.key } } } { n with unitsDone := o.unitsDone }

/-- Every RUNNING operation ends INTERRUPTED; a sweep goes on under a new record. -/
def interruptOps (s : State) : State :=
  let sweeps := s.ops.filter (fun o => o.st == .running && o.opcode == 0x601)
  sweeps.foldl resumeSweep (stopOps s .interrupted (fun _ => true))

/-- The CP is reset: CP_DOWN in every function, and the operations end. -/
def cpReset (s : State) : State := interruptOps { s with fw := { s.fw with cpDown := true } }

/-- CP_WATCHDOG_RESET (R100): 100 ms without watchdog service, or an uncorrectable word of the CP's SRAM. -/
def execCpWatchdogReset (sram : Bool) (s : State) : Host.Outcome State Fault Refusal :=
  .next (if s.fw.cpDown || s.pwr.off then s
    else
      let c := if sram then 2 else 1
      let s := postG s 0x0202 5 (c + 2 ^ 8 * s.fw.running) 0 0 0
      cpReset s)

/-- Every accepted request is answered MS_INTERRUPTED (R101). -/
def answerInterrupted (s : State) : State :=
  (List.range 33).foldl (fun s f => if (curReq s f).isSome then answer s f 0x1B 0 0 [] else s) s

/-- ONAMAN_RESTART: the image that was started reports, and CP_DOWN clears; without an intact copy of the bookkeeping
Onaman is in recovery mode (R101). -/
def execOnamanRestart (intact : Bool) (s : State) : Host.Outcome State Fault Refusal :=
  .next (if !s.fw.cpDown || s.pwr.off || s.fw.haltCause != 0 then s
    else answerInterrupted { s with fw := { s.fw with
      cpDown := false, recovery := s.fw.recovery || !intact
      running := if s.fw.restart.isSome then s.fw.marked else s.fw.running
      restart := none } })

/-- CP_RESTART: byte 0x06 bit 0 is FORCE (R127). -/
def cpRestart (s : State) (_f : Nat) (b : List Byte) : MOut :=
  let force := bitOf (leAt b 6 1) 0
  checked
    [(!slotOk s s.fw.marked, 0x19, 6),
     (decide ((slotOf s s.fw.marked).handover < (runningSlot s).handover), 0x19, 7),
     (!force && s.ops.any (fun o => o.st == .running && o.opcode != 0x310), 0x19, 8)]
    (.ok [] (cpReset { s with fw := { s.fw with restart := some (s.fw.running, s.clk.aon) } }) false)

def execCpRestart (f : Fn) (s : State) : Host.Outcome State Fault Refusal := .next (runShort s f.val 0x906 cpRestart)

/-- CP_RESTART_START_TIMEOUT: 80 ms without a report, the CP starts once more from the earlier slot. -/
def execCpRestartStartTimeout (s : State) : Host.Outcome State Fault Refusal :=
  .next (match s.fw.restart with
    | none => s
    | some (old, t) =>
      if s.pwr.off || s.clk.aon < t + 80 * msT then s
      else
        let s := postG s 0x0202 5 (3 + 2 ^ 8 * old) 0 0 0
        { s with fw := { s.fw with restart := none } })

end Sys2Proof.Machine
end

