-- ==== Sys2Proof/Machine/Reads.lean ====
section
/-! DEFINITION. What every register of the BARs reads as (Tables 3.1, 3.7 to 3.10 and the register tables of the block
chapters), register writes without a row of their own (R132), and reads that wait for their domain (R158 to R160). -/

namespace Sys2Proof.Machine

/-- A word of the bus. -/
def w32Of (v : Nat) : W32 := BitVec.ofNat 32 v
/-- The low or high word of a 64-bit counter at an offset, by its key at the low word. -/
def half (s : State) (off : Nat) (key : Nat → Nat) : Nat :=
  let v := cnt s (key (off / 8 * 8))
  if off % 8 = 0 then v else v / 2 ^ 32

/-! ### Identity and status (Table 3.7, R493) -/

/-- HIF_SLOT_MAP[j]. -/
def slotMap (s : State) (f j : Nat) : Nat :=
  ((List.range 4).map (fun b =>
    match slotStream s f (4 * j + b) with | some i => (i + 0x80) * 2 ^ (8 * b) | none => 0)).sum

/-- Streams of a function. -/
def streamsOf (s : State) (f : Nat) : List Stream :=
  (s.streams.filter (fun e => match e.2.slot with | some (g, _) => g == f | none => false)).map (·.2)

/-- HIF_STATUS. -/
def hifStatus (s : State) (f : Nat) : Nat :=
  let own := if f = 0 then mismatch s 2 else mismatch s (2 + f)
  b2n (s.hif.pcieReady && s.fw.haltCause == 0) + 2 * b2n (own || mismatch s 0 || mismatch s 1) + 4 * b2n s.fw.cpDown +
  8 * b2n (stopWhy s f != 0) + 16 * b2n ((streamsOf s f).any (·.stallHold)) +
  32 * b2n ((streamsOf s f).any (·.tailInvalid)) + 64 * b2n (bitOf (stopWhy s f) 6) +
  128 * b2n (mbxOf s f).orphan.isSome

/-- HIF_ACTIVE_LO and HIF_ACTIVE_HI: `k` is the first slot. -/
def hifActive (s : State) (f k : Nat) : Nat :=
  ((List.range 32).map (fun b =>
    match slotStream s f (k + b) with
    | some i => if (stream s i).tail = (stream s i).cpl then 0 else 2 ^ b
    | none => 0)).sum

/-- Registers at BAR0 0x0000 to 0x03FF. -/
def readIdent (s : State) (f o : Nat) : Nat :=
  if o = 0 then 0x9C0E + 0xA1 * 2 ^ 16 + s.ident.ordering * 2 ^ 24
  else if o = 4 then 0x100
  else if o = 8 then
    f + 0x80 * b2n (f == 0) + 2 ^ 8 * (f - 1) + 2 ^ 16 * (streamsOf s f).length + 2 ^ 24 * (s.ident.podId % 64)
  else if 0x10 ≤ o ∧ o < 0x50 then slotMap s f ((o - 0x10) / 4)
  else if o = 0x100 then hifStatus s f
  else if o = 0x110 then hifActive s f 0
  else if o = 0x114 then hifActive s f 32
  else 0

/-! ### Slots (Table 3.8) -/

/-- STR_STATUS. -/
def strStatus (s : State) (f i : Nat) : Nat :=
  let x := stream s i
  let work := x.tail != x.head
  let off := !bitOf (strEff s i 8) 0 && work
  b2n work + 2 * b2n (off || stopWhy s f != 0) + 4 * b2n x.stallHold + 8 * b2n x.tailInvalid

/-- A register of slot k. -/
def readSlot (s : State) (f k o : Nat) : W32 :=
  match slotStream s f k with
  | none => 0
  | some i =>
    if o = 0 then (stream s i).tail
    else if o = 4 then (stream s i).head
    else if o = 0x24 then (stream s i).cpl
    else if o = 0x28 then w32Of (strStatus s f i)
    else if (slotReg o).isSome then staged s (slotKey f k o)
    else 0

/-! ### Configuration integrity (Tables 5.6, 5.7) -/

/-- The staged copy of a region differs from its committed copy in a covered bit. -/
def stagedDiffers (s : State) (r : Nat) : Bool :=
  if r = 0 then false
  else if r = 2 then (List.range 22).any (fun w => lkD s.cfg.mgmtStaged w (mgmtDefault w) != mgmtCommitted s w)
  else ((s.cfg.staged.map (·.1)) ++ (s.cfg.committed.map (·.1))).any (fun k =>
    keyRegion k == r && (staged s k ^^^ committed s k) &&& keyMask k != 0)

/-- CFG_STATUS of a region. -/
def cfgStatus (s : State) (r : Nat) : Nat :=
  b2n (mismatch s r) + 2 * b2n (has s.cfg.busy r) + 4 * b2n (stagedDiffers s r)

/-- Registers at BAR0 0x6000 to 0x601F. -/
def readCfg (s : State) (f o : Nat) : W32 :=
  let r := regionOfFn f
  match o with
  | 0x00 => crcLive s r
  | 0x04 => refStaged s r
  | 0x0C => stagedCheck s r
  | 0x10 => w32Of (cfgStatus s r)
  | 0x14 => lkD s.cfg.result r 0
  | 0x18 => lkD s.cfg.seq r 0
  | 0x1C => refCommitted s r
  | _ => 0

/-! ### Windows of BAR0 -/

/-- Snapshot registers at BAR0 0x5000 (Table 5.8). A capture is made at its edge, so none is ever in progress or held. -/
def readSnap (s : State) (f o : Nat) : W32 :=
  let x := snapOf s f
  match o with
  | 0x04 => w32Of (x.token.toNat + 2 ^ 16 * x.count.toNat)
  | 0x08 => w32Of x.time
  | 0x0C => w32Of (x.time / 2 ^ 32)
  | 0x10 => w32Of x.domains
  | _ => 0

/-- LCK_MAP[w] (Table 14.7). -/
def lckMap (s : State) (f w : Nat) : Nat :=
  ((List.range 8).map (fun n =>
    let j := 8 * w + n
    let x := lockOf s j
    if lockIn s (partOfFn f) j then
      (x.st % 4 + 4 * b2n (x.holder == some (.reg f)) + 8 * b2n (x.waiters.any (fun w => w.who == .reg f))) * 2 ^ (4 * n)
    else 0)).sum

/-- A word of the record window of a log (R497). -/
def readRecord (s : State) (log o : Nat) : Nat :=
  match lk (lkD s.evt.logs log LogSt.empty).slots (o / 64) with
  | some x => if o / 64 < logSlots log then leAt (evBytes x) (o % 64) 4 else 0
  | none => 0

/-- Event windows (Tables 18.9, 18.10); `g` is the global one. -/
def readEvents (s : State) (f : Nat) (g : Bool) (o : Nat) : Nat :=
  let log := if g then globalLog else partOfFn f
  let l := lkD s.evt.logs log LogSt.empty
  if 0x100 ≤ o then readRecord s log (o - 0x100)
  else if o = 0 then l.posted
  else if o = 4 then l.lost
  else if o = 8 then (if g then s.evt.boot % 65536 else stopWhy s f)
  else if o = 0xC then logSlots log
  else if o = 0x10 ∧ g then min 65535 s.evt.staged.length
  else 0

/-- The whole register behind an alias index (Table 5.1). -/
def aliased (s : State) (f j : Nat) : Nat :=
  if j < 64 then (readSlot s f j 8).toNat
  else if j = 64 then hifStatus s f
  else if j = 65 then mbxStateWord s f
  else if j = 66 then cfgStatus s (regionOfFn f)
  else 0

/-- Bytes of the mailbox areas. -/
def mbxWord (t : Tab Byte) (o : Nat) : W32 :=
  w32Of (leNat ((List.range 4).map (fun i => lkD t (o + i) 0)))

/-- A register of BAR0 that has a value (the undefined bytes of the response area apart). -/
def readBar0 (s : State) (f o : Nat) : W32 :=
  let m := mbxOf s f
  if o < 0x400 then w32Of (readIdent s f o)
  else if o = 0x400 then m.reqSeq
  else if o = 0x404 then m.rspSeq
  else if o = 0x408 then w32Of (mbxStateWord s f)
  else if o < 0x800 then 0
  else if o < 0x1000 then mbxWord m.reqArea (o - 0x800)
  else if o < 0x1800 then mbxWord m.rspArea (o - 0x1000)
  else if o < 0x2000 then 0
  else if o < 0x3000 then readSlot s f ((o - 0x2000) / 64) (o % 64)
  else if o < 0x4000 then liveWord s f o
  else if o < 0x5000 then lkD (snapOf s f).hold (o - 0x4000) 0
  else if o < 0x6000 then readSnap s f (o - 0x5000)
  else if o < 0x6100 then readCfg s f (o - 0x6000)
  else if o = 0x6104 then lkD s.hif.lckResult f 0
  else if o < 0x6200 then 0
  else if o < 0x6400 then w32Of (lckMap s f ((o - 0x6200) / 4))
  else if o < 0x8000 then 0
  else if o < 0xC000 then w32Of (aliased s f ((o - 0x8000) / 0x80) / 2 ^ (o % 0x80 / 4) % 2)
  else w32Of (readEvents s f false (o - 0xC000))

/-! ### PF0 BAR2 -/

/-- States of a partition (R168). -/
def PartSt.num : PartSt → Nat
  | .absent => 0 | .active => 1 | .wiping => 2 | .destroying => 3

/-- HIF_BOOT_STAT (Table 20.5). -/
def bootStat (s : State) : Nat :=
  let w := s.fw
  w.bootPhase % 16 + 2 ^ 4 * b2n w.fallback + 2 ^ 5 * (w.running % 2) + 2 ^ 6 * b2n w.initDone + 2 ^ 8 * (w.haltCause % 16) +
  2 ^ 12 * (w.slotOutA % 16) + 2 ^ 16 * (w.slotOutB % 16) + 2 ^ 20 * (w.bistBad % 128)

/-- HIF_ global registers (Tables 3.12, 20.5). -/
def readHifG (s : State) (o : Nat) : Nat :=
  let h := s.hif
  if o = 0 then
    if h.dlActive then
      h.speed % 16 + 2 ^ 4 * (h.width % 64) + 2 ^ 16 + 2 ^ 17 * b2n h.reversed + 2 ^ 18 * b2n h.aspmL1
    else 2 ^ 18 * b2n h.aspmL1
  else if o = 4 then h.recovery
  else if o = 8 then b2n h.vfEnable + 2 ^ 16 * h.numVfs
  else if o = 0x100 then bootStat s
  else if o = 0x104 then s.fw.readyUs
  else if o = 0x108 then s.fw.doneUs
  else if o = 0x10C then s.fw.chFail
  else if o = 0x110 then s.fw.chFail / 2 ^ 32
  else if o = 0x114 then s.fw.initCursor
  else if 0x400 ≤ o ∧ o < 0x480 then
    let p := (o - 0x400) / 4
    hifStatus s (p + 1) % 256 + 2 ^ 8 * (part s p).st.num + 2 ^ 16 * (stopWhy s (p + 1) % 256)
  else 0

/-- CFG_ device-region registers and the views of every region (Tables 5.7, 5.9). -/
def readCfgG (s : State) (o : Nat) : Nat :=
  if o = 0 then (staged s (rk2 0x10000)).toNat
  else if 0xF000 ≤ o ∧ o < 0xF08C then cfgStatus s ((o - 0xF000) / 4)
  else if 0xF100 ≤ o ∧ o < 0xF18C then (crcLive s ((o - 0xF100) / 4)).toNat
  else if 0xF200 ≤ o ∧ o < 0xF28C then (refCommitted s ((o - 0xF200) / 4)).toNat
  else 0

/-- MEM_CH_STAT of a channel (Table 7.6). Margin and calibration slots are whole steps, so none is ever in progress. -/
def chStat (s : State) (c : Nat) : Nat :=
  lkD s.mem.chState c 0 % 4 + 2 ^ 8 * (lkD s.mem.mr4Temp c 0 % 256) +
  2 ^ 16 * ((List.range (ranks s)).map (refreshCode s c)).foldl max 0 + 2 ^ 18 * min 31 (lkD s.mem.reorder c []).length

/-- Pages in the repair reserve. -/
def repairFree (s : State) : Nat :=
  let d := dttPages s
  ((List.range repairPages).filter (fun i => pageUse s (d + i) == .repair)).length +
  (s.pages.filter (fun e => e.2 == .repair && (decide (e.1 < d) || decide (d + repairPages ≤ e.1)))).length

/-- Memory registers (Table 7.6). -/
def readMemG (s : State) (o : Nat) : Nat :=
  if o < 0x400 || (decide (0x1000 ≤ o) && decide (o < 0x2000)) then (staged s (rk2 (0x20000 + o))).toNat
  else if o = 0x400 then (outOrRecorded s).toNat
  else if o = 0x404 then (outOrRecorded s).toNat / 2 ^ 32
  else if o = 0x408 then s.mem.pmax
  else if o = 0x40C then (match s.mem.sweep with | some w => w.cursor % 2 ^ 23 + 2 ^ 31 | none => 0)
  else if 0x420 ≤ o ∧ o < 0x440 then s.mem.spread.toNat / 2 ^ (32 * ((o - 0x420) / 4))
  else if 0x500 ≤ o ∧ o < 0x600 then chStat s ((o - 0x500) / 4)
  else if 0x600 ≤ o ∧ o < 0xA00 then cnt s (rk2 (0x20000 + o))
  else if o = 0xA00 then s.pwr.step + 2 ^ 16 * (s.mem.burstCap % 512)
  else if o = 0xA04 then s.mem.hellbox.length % 2 ^ 13 + 2 ^ 16 * (repairFree s % 2 ^ 11)
  else 0

/-- PWR_STATE (Table 2.11). -/
def pwrState (s : State) : Nat :=
  devState s + 2 ^ 4 * deepest s + 2 ^ 8 * b2n (!s.pwr.waking.isEmpty) + 2 ^ 9 * b2n s.pwr.forceIdle + 2 ^ 10 * b2n s.pwr.globalStop +
  ((List.range 6).map (fun d => dom s d % 4 * 2 ^ (16 + 2 * d))).sum

/-- PWR_LOOP_STAT of loop n. -/
def loopStat (s : State) (n : Nat) : Nat :=
  let l := loop s n
  b2n (l.pinned != 0) + 2 * b2n (l.crossed != 0) + 2 ^ 4 * (l.crossed % 16) + 2 ^ 8 * b2n (l.pinned == 1) +
  2 ^ 9 * b2n (l.pinned == 2)

/-- A pin filter before any level has been accepted (Table 21.9). -/
def PinSt.zero : PinSt := ⟨false, false, false, 0, 0, [], 0⟩
/-- The pin presents its ignored value. -/
def PinSt.ignored (p : PinSt) : Bool := p.stuck || p.rate
/-- The filter of a pin code. -/
def pinOf (s : State) (code : Nat) : PinSt := lkD s.pins code PinSt.zero
/-- Edges accepted in the last second, saturating. -/
def pinEdges (s : State) (code : Nat) : Nat :=
  min 65535 ((pinOf s code).edges.filter (fun t => decide ((s.clk.aon : Int) < t + secT))).length

/-- PWR_PIN_STAT (Table 21.9). -/
def pinStat (s : State) (code : Nat) : Nat :=
  let p := pinOf s code
  b2n p.high + 2 * b2n p.stuck + 4 * b2n p.rate + 8 * b2n p.ignored + 2 ^ 16 * pinEdges s code

/-- Power registers (Tables 2.11, 21.9). -/
def readPwrG (s : State) (o : Nat) : Nat :=
  let p := s.pwr
  if o = 0 then pwrState s
  else if o = 4 then p.permit
  else if o = 0x20 then p.coreClk + 2 ^ 12 * p.clkWhy
  else if o = 0x24 then p.vdd
  else if o = 0x28 then p.stackT % 256 + 2 ^ 8 * (p.logicT % 256) + 2 ^ 16 * (p.step % 4) + 2 ^ 18 * b2n p.thermtrip
  else if 0x40 ≤ o ∧ o < 0x68 then
    (if o % 8 = 0 then loopStat s ((o - 0x40) / 8) else (loop s ((o - 0x40) / 8)).pinCnt)
  else if 0x68 ≤ o ∧ o < 0x7C then (loop s ((o - 0x68) / 4)).ovrCnt
  else if 0xA0 ≤ o ∧ o < 0xB8 then
    lkD p.dcoCode ((o - 0xA0) / 4) 0 % 4096 + 2 ^ 16 * lkD p.dcoErr ((o - 0xA0) / 4) 0
  else if 0x100 ≤ o ∧ o < 0x11C then lkD s.cfg.mgmtEff ((o - 0x100) / 4) (mgmtDefault ((o - 0x100) / 4))
  else if 0x200 ≤ o ∧ o < 0x288 then
    (if [1, 2, 3, 4, 0x20, 0x21].contains ((o - 0x200) / 4) then pinStat s ((o - 0x200) / 4) else 0)
  else if o = 0x300 then b2n p.avs0.fault + 2 * b2n p.avs1.fault + 2 ^ 16 * (p.avs1.conf % 1024)
  else (staged s (rk2 (0x30000 + o))).toNat

/-- Link registers (Table 13.10). -/
def readLnkG (s : State) (o : Nat) : Nat :=
  let p := s.pod
  if o = 0 then lnkPod s
  else if o = 4 then p.key.toNat
  else if o = 8 then p.members.toNat
  else if o = 0xC then p.members.toNat / 2 ^ 32
  else if o = 0x10 then p.lost.toNat
  else if o = 0x14 then p.lost.toNat / 2 ^ 32
  else if o = 0x30 ∨ o = 0x38 then cnt s (lnkKey o)
  else if o = 0x34 then cnt s (lnkKey 0x34) % 65536 + 65536 * (cnt s (lnkKey 0x36) % 65536)
  else if 0x1000 ≤ o ∧ o < 0x2000 then
    let l := (o - 0x1000) / 256
    let q := o % 256
    if q = 0 then lnkStat s l
    else if q = 4 then lnkRole s l
    else if 8 ≤ q ∧ q < 0x18 then half s o lnkKey
    else if 0x18 ≤ q ∧ q < 0x28 then cnt s (lnkKey o)
    else if 0x40 ≤ q ∧ q < 0x68 then (linkOf s l).credits.getD ((q - 0x40) / 4) 0 % 256
    else (staged s (rk2 (0x40000 + o))).toNat
  else (staged s (rk2 (0x40000 + o))).toNat

/-- GAL_Q_STAT of a queue (Table 9.6). A forced reset is one step, so the queue never reads frozen. -/
def qStat (s : State) (q : Nat) : Nat :=
  match gq s q with
  | none => 7 * 2 ^ 17
  | some x =>
    (x.val 4 + x.headroom.length) % 2 ^ 17 + 2 ^ 17 * (x.cls % 8) + 2 ^ 20 * b2n (guarded s q) + 2 ^ 21 * b2n x.markValid +
    2 ^ 22 * b2n (x.emptySeen q) + 2 ^ 23 * b2n (x.full q) + 2 ^ 24 * (x.owner % 64) + 2 ^ 30 * b2n x.aborted

/-- Global galley registers (Table 9.6). -/
def readGalG (s : State) (o : Nat) : Nat :=
  let g := s.gal
  if o = 0 then g.freeP.getD 2 0
  else if o = 4 then sharedFree s
  else if o = 8 then (staged s (rk2 0x50008)).toNat
  else if 0x10 ≤ o ∧ o < 0x24 then classRes ((o - 0x10) / 4) + 2 ^ 16 * 16
  else if 0x30 ≤ o ∧ o < 0x44 then lkD g.clsCh ((o - 0x30) / 4) 0
  else if 0x50 ≤ o ∧ o < 0x64 then lkD g.clsHeld ((o - 0x50) / 4) 0
  else if 0x70 ≤ o ∧ o < 0x88 then cnt s (galKey o)
  else if 0x100 ≤ o ∧ o < 0x180 then lkD g.held ((o - 0x100) / 4) 0
  else if 0x180 ≤ o ∧ o < 0x200 then lkD g.resCh ((o - 0x180) / 4) 0
  else if 0x2000 ≤ o ∧ o < 0x6000 then qStat s ((o - 0x2000) / 4)
  else 0

/-- A partition's bucket before its first period (Table 10.6). -/
def PQuo.zero : PQuo := ⟨0, 0, 0, false⟩

/-- Quoin and core registers (Table 10.6). A read shorter than a slug takes a sort-path entry (R286). -/
def readQuoG (s : State) (o : Nat) : Nat :=
  let q (a : Nat) : PQuo := lkD s.quo ((o - a) / 4) PQuo.zero
  if o < 0x80 then (q 0).rate + 2 ^ 16 * (q 0).burst
  else if o < 0x100 then (q 0x80).level
  else if o < 0x180 then cnt s (rk2 (0x60000 + o))
  else if 0x200 ≤ o ∧ o < 0x300 then (stream s ((o - 0x200) / 4)).level
  else if 0x1000 ≤ o ∧ o < 0x1900 then half s o (fun k => rk2 (0x60000 + k))
  else if 0x2000 ≤ o ∧ o < 0x2100 then
    ((lkD s.mem.reorder ((o - 0x2000) / 4) []).filter (fun r => decide (r.bursts < 4))).length
  else 0

/-- Platen registers (Table 12.6). -/
def readPltG (s : State) (o : Nat) : Nat :=
  if o < 0x400 then (if o % 16 < 8 then half s o pltKey else cnt s (pltKey o))
  else if o = 0x400 ∨ o = 0x404 then cnt s (pltKey o)
  else if o = 0x408 then
    (s.tables.filter (fun e => !e.2.ledger.isEmpty && decide (e.2.cape ≤ e.2.used))).length % 2 ^ 13 +
    2 ^ 16 * ((s.tables.filter (fun e => e.2.gateClosed || e.2.pend.isSome)).length % 2 ^ 13)
  else 0

/-- LCK_STATE of a lock (Table 14.8). -/
def lckState (s : State) (j : Nat) : Nat :=
  let x := lockOf s j
  x.st % 4 + 2 ^ 24 * min 255 x.waiters.length +
  (match x.holder with
   | none => 0
   | some h =>
     2 ^ 4 * (h.part s % 64) +
     (match h with
      | .reg _ => 2 ^ 16 * me s
      | .strm i => 2 ^ 3 + 2 ^ 10 * (i % 64) + 2 ^ 16 * me s
      | .remote d _ i _ => 2 ^ 2 + 2 ^ 3 + 2 ^ 10 * (i % 64) + 2 ^ 16 * (d % 64)))

/-- Global lock registers (Table 14.8). -/
def readLckG (s : State) (o : Nat) : Nat :=
  if o < 0x1000 then lckState s (o / 4)
  else if o = 0x1000 then s.clk.aon / 4
  else if o = 0x1004 ∨ o = 0x100C then cnt s (lckKey o)
  else if o = 0x1008 then
    (s.locks.leases.filter (fun l => l.granted && !l.lost)).length % 2 ^ 11 +
    2 ^ 16 * ((s.locks.locks.filter (fun e => match e.2.holder with | some (.remote ..) => true | _ => false)).length % 2 ^ 11)
  else 0

/-- The unit status of a text unit: busy, its stream, and the profile or grammar of its task (Tables 16.9, 17.7). -/
def unitStat (s : State) (u : Nat) : Nat :=
  match lk s.units u with
  | none => 0
  | some i =>
    let img := match (stream s i).task with | some t => t.u32 0x08 % (if u < 8 then 16 else 32) | none => 0
    1 + 2 ^ 8 * (i % 64) + 2 ^ 16 * img

/-- The status of a profile or grammar slot. -/
def imgStat (t : Tab TextImg) (n : Nat) (nctx : Bool) : Nat :=
  match lk t n with
  | none => 0
  | some x => (if x.loaded then 2 else 1) + 2 ^ 8 * (x.owner % 64) + 2 ^ 16 * (if nctx then x.nctx % 128 else 0)

/-- Case, Proof and Forme registers (Tables 16.9, 17.7). -/
def readTxtG (s : State) (o : Nat) : Nat :=
  if o < 0x10 then unitStat s (o / 4)
  else if 0x20 ≤ o ∧ o < 0x60 then imgStat s.profiles ((o - 0x20) / 4) true
  else if (0x100 ≤ o ∧ o < 0x110) ∨ (0x500 ≤ o ∧ o < 0x508) then half s o (fun k => rk2 (0x90000 + k))
  else if 0x200 ≤ o ∧ o < 0x210 then unitStat s (4 + (o - 0x200) / 4)
  else if 0x300 ≤ o ∧ o < 0x308 then unitStat s (8 + (o - 0x300) / 4)
  else if 0x400 ≤ o ∧ o < 0x480 then imgStat s.grammars ((o - 0x400) / 4) false
  else 0

/-- SCRUB_STAT (Table 19.10). -/
def scrubStat (s : State) : Nat :=
  s.bg.scrubStep % 8 + 8 * b2n ((List.range 64).any (groupBehind s)) + 16 * b2n s.bg.inBatch

/-- Background and telemetry registers (Table 19.10). -/
def readTelG (s : State) (o : Nat) : Nat :=
  if o = 0 then s.bg.telSeq
  else if 0x100 ≤ o ∧ o < 0x200 then leNat ((List.range 4).map (fun i => lkD s.bg.telFrame (o - 0x100 + i) 0))
  else if 0x400 ≤ o ∧ o < 0x800 then lkD s.cfg.mgmtEff ((o - 0x400) / 4) (mgmtDefault ((o - 0x400) / 4))
  else if o = 0x800 then scrubStat s
  else if 0x804 ≤ o ∧ o < 0x818 then cnt s (telKey o)
  else if o = 0x818 then s.evt.bucket
  else 0

/-- A register of PF0 BAR2 (Table 3.10). -/
def readBar2 (s : State) (off : Nat) : W32 :=
  let o := off % 65536
  w32Of (match off / 65536 with
    | 0 => readHifG s o
    | 1 => readCfgG s o
    | 2 => readMemG s o
    | 3 => readPwrG s o
    | 4 => readLnkG s o
    | 5 => readGalG s o
    | 6 => readQuoG s o
    | 7 => readPltG s o
    | 8 => readLckG s o
    | 9 => readTxtG s o
    | 10 => readTelG s o
    | 11 => readEvents s 0 true o
    | _ => 0)

/-! ### Reads -/

/-- What a halted boot serves (R533): identity and status, MBX_STATE, the event window and the HIF_ global window. -/
def haltServes (bar2 : Bool) (o : Nat) : Bool :=
  if bar2 then decide (o < 65536) else decide (o < 0x400) || o == 0x408 || decide (0xC000 ≤ o)

/-- The value that a read delivers, and the state after it: bytes of the response area that no response has written
since a request was accepted are undefined (R104). -/
def readReg (s : State) (f : Nat) (bar2 : Bool) (off : Nat) : W32 × State :=
  if s.fw.haltCause ≠ 0 && !haltServes bar2 off then (0, s)
  else if bar2 then (readBar2 s off, s)
  else
    let m := mbxOf s f
    if 0x1000 ≤ off && decide (off < 0x1800) && (m.latched.isSome || !m.rspArea.isEmpty) then
      let (l, s) := freshBytes 4 s
      (w32Of (leNat (l.zipIdx.map (fun e => lkD m.rspArea (off - 0x1000 + e.2) e.1))), s)
    else (readBar0 s f off, s)

/-- The register's domain runs, or a read of it goes through the retention path (R160), or it has no domain to wake. -/
def readable (s : State) (bar2 : Bool) (off : Nat) : Bool :=
  match homeOf bar2 off with
  | none => true
  | some d => dom s d == 0 || s.pwr.globalStop || s.pwr.thermtrip || s.fw.haltCause != 0

/-- Serve the reads of one function in the order of their arrival, as far as their domains run (R158, R407). -/
def serveFn (s : State) (f : Nat) : List (Nat × Bool × Nat × Nat) → State
  | [] => s
  | r :: t =>
    if r.1 ≠ f then serveFn s f t
    else if readable s r.2.1 r.2.2.1 then
      let (v, s) := readReg s f r.2.1 r.2.2.1
      serveFn (busValue { s with hif := { s.hif with stalled := s.hif.stalled.erase r } } f r.2.1 r.2.2.1 v) f t
    else match homeOf r.2.1 r.2.2.1 with
      | some d => demandOn s d
      | none => s

/-- Serve every read whose domain runs. -/
def serveStalled (s : State) : State :=
  ((s.hif.stalled.map (·.1)).eraseDups).foldl (fun s f => serveFn s f s.hif.stalled) s

/-- RL_READ: a read of an aligned register joins its function's reads, which are served in order. -/
def execRlRead (f : Fn) (bar2 : Bool) (off : BitVec 24) (s : State) : Host.Outcome State Fault Refusal :=
  let o := off.toNat
  .next (if !barServed s f.val || (bar2 && f.val != 0) || o % 4 != 0 || (!bar2 && decide (0x10000 ≤ o)) then s
    else
      let s := { s with hif := { s.hif with stalled := s.hif.stalled ++ [(f.val, bar2, o, s.clk.aon)] } }
      serveFn s f.val s.hif.stalled)

/-- RL_LIMIT: a read stalled for 800 us completes with all ones, and the partition's log gets a record (R159). -/
def execRlLimit (f : Fn) (bar2 : Bool) (off : BitVec 24) (s : State) : Host.Outcome State Fault Refusal :=
  let late (r : Nat × Bool × Nat × Nat) : Bool :=
    r.1 == f.val && r.2.1 == bar2 && r.2.2.1 == off.toNat && decide (r.2.2.2 + 800 * usT ≤ s.clk.aon)
  .next (if s.pwr.off then s else match s.hif.stalled.find? late with
    | none => s
    | some r =>
      let s := busValue { s with hif := { s.hif with stalled := s.hif.stalled.erase r } } f.val bar2 off.toNat 0xFFFFFFFF
      let s := postP s (partOfFn f.val) 0x0303 2 (off.toNat % 65536) 0 0 0
      serveFn s f.val s.hif.stalled)

/-! ### Writes -/

/-- A write of a word of the request area, discarded while the area is latched (R103). -/
def areaWrite (s : State) (f o : Nat) (v : W32) : State :=
  let m := mbxOf s f
  let area := (List.range 4).foldl (fun t i => setD t (o + i) (BitVec.ofNat 8 (v.toNat / 2 ^ (8 * i))) 0) m.reqArea
  if m.latched.isSome then s else setMbx s f { m with reqArea := area }

/-- A write of BAR0: every register has one operation, whichever row names it. -/
def writeBar0 (s : State) (f o : Nat) (v : W32) : State :=
  if o = 0x400 then mbxSeqWrite s f v
  else if 0x800 ≤ o && decide (o < 0x1000) then areaWrite s f (o - 0x800) v
  else if 0x2000 ≤ o && decide (o < 0x3000) then
    if o % 64 = 0 then tailWrite s f ((o - 0x2000) / 64) v else configWrite s f false o v
  else if o = 0x5000 then snapCmd s f v
  else if o = 0x6004 then setRefStaged s (regionOfFn f) v
  else if o = 0x6008 then commitWrite s f v
  else if o = 0x6100 then lckReq s f v
  else if 0x8000 ≤ o && decide (o < 0xC000) then aliasWrite s f o v
  else s

/-- REGISTER_WRITE (R132): a write of an aligned word. -/
def execRegisterWrite (f : Fn) (bar2 : Bool) (off : BitVec 24) (v : W32) (s : State) : Host.Outcome State Fault Refusal :=
  let o := off.toNat
  .next (if !barServed s f.val || s.fw.haltCause != 0 || o % 4 != 0 then s
    else if bar2 then configWrite s f.val true o v
    else if o < 0x10000 then writeBar0 s f.val o v else s)

end Sys2Proof.Machine
end

