-- ==== Sys2Proof/Machine/Boot.lean ====
section
/-! DEFINITION. Bring-up, board pins and test: cold resets and what survives them (R522 to R524, Table 4.8), the boot (R525 to
R534), the board pins and their filters (R52, R519, R544 to R546), and the test access port (R535 to R538). -/

namespace Sys2Proof.Machine

/-! ### Cold reset -/

/-- The memory tier that the Hellbox describes (R38, R213): the channels of its channel entries are out. -/
def memOfHellbox (ordering : Nat) (hb : List HbEntry) : Mem :=
  let out : W64 := hb.foldl (fun m e => if e.kind = 2 then m ||| (1#64 <<< (e.channel % 64)) else m) 0
  let usable := if ordering = 2 then 5898240 else 3932160
  let chans := (List.range 64).filter (maskBit out)
  { State.reset.mem with
    pmax := usable * (64 - chans.length) / 64, mapped := out, hellbox := hb
    chState := chans.map (fun c => (c, 3))
    spread := (List.range 256).foldl (fun m st => if maskBit out (stripeReset st % 64) then m ||| (1#256 <<< st) else m) 0 }

/-- Pages that page entries retire. -/
def retiredOf (hb : List HbEntry) : Tab PageUse :=
  hb.foldl (fun t e => if e.kind = 1 then put t e.page .retired else t) []

/-- What a cold reset leaves: the fuses, the NOR (image slots and mark, Hellbox, Colophon, event log, guard band), the
identity and the test access port's instruction; every fast domain stopped. `boot` cold resets are counted in NOR. -/
def coldBase (s : State) (boot : Nat) : State :=
  let r := State.reset
  { r with
    pending := s.pending, ident := s.ident, pages := retiredOf s.mem.hellbox
    mem := memOfHellbox s.ident.ordering s.mem.hellbox
    evt := { r.evt with boot := boot, ring := s.evt.ring, cur := s.evt.cur }
    hif := { r.hif with pcieReady := false, writes := s.hif.writes, bus := s.hif.bus }
    fw := { r.fw with
      marked := s.fw.marked, slotA := s.fw.slotA, slotB := s.fw.slotB, rollback := s.fw.rollback, revoked := s.fw.revoked
      keyHash := s.fw.keyHash, bootPhase := 1, slotOutA := 0 }
    bg := { r.bg with
      agingG := s.bg.agingG, agingD := s.bg.agingD, agingLimit := s.bg.agingLimit, colVersion := s.bg.colVersion
      colDerived := s.bg.colDerived }
    pwr := { r.pwr with dom := (List.range 6).map (fun d => (d, 2)) }
    jtag := { r.jtag with instr := s.jtag.instr, bist := s.jtag.bist }
    freeCtr := s.freeCtr }

/-- A filter's times, counted from the new boot. -/
def PinSt.rebase (p : PinSt) (a : Int) : PinSt :=
  { p with since := p.since - a, highAt := p.highAt - a, windowAt := p.windowAt - a, edges := p.edges.map (fun t => t - a) }

/-- A cold reset by PERST_N (R73, R523): the filters run on; THERMTRIP_N holds until PWRGD goes (R60). -/
def coldReset (s : State) : State :=
  let pins : Tab PinSt := s.pins.map (fun (e : Nat × PinSt) => (e.1, e.2.rebase s.clk.aon))
  if s.pwr.thermtrip then { s with jtag := { s.jtag with perst := true }, hif := { s.hif with dlActive := false } }
  else
    let c := coldBase s (s.evt.boot + 1)
    { c with
      pins := pins, jtag := { c.jtag with perst := true }
      pwr := { c.pwr with forceIdle := s.pwr.forceIdle, globalStop := s.pwr.globalStop } }

/-- PWRGD_ASSERT (R522, R545): from OFF, AON starts and samples the straps. -/
def execPwrgdAssert (podId : BitVec 6) (s : State) : Host.Outcome State Fault Refusal :=
  .next (if !s.pwr.off then s
    else
      let c := coldBase s (s.evt.boot + 1)
      { c with ident := { c.ident with podId := podId.toNat } })

/-- PWRGD_DEASSERT (R524, R545): OFF, at once. -/
def execPwrgdDeassert (s : State) : Host.Outcome State Fault Refusal :=
  let c := coldBase s s.evt.boot
  .next (if s.pwr.off then s else { c with pwr := { c.pwr with off := true }, fw := { c.fw with bootPhase := 0 } })

/-! ### The boot (Table 20.1) -/

/-- The outcome of a slot (Table 20.5): 1 it ran. A slot whose bytes State does not list stands for the image its stored
fields describe (log entry 9). -/
def slotOutcome (s : State) (n : Nat) (starts : Bool) : Nat :=
  let x := slotOf s n
  let fault : Option Nat :=
    if x.bytes.isEmpty then
      if !x.valid then some 2
      else if lkD s.fw.revoked x.keySlot false then some 4
      else if x.svn < s.fw.rollback then some 8
      else none
    else (imageFault s x).map (fun e => if e.1 = 0x1D then 8 else e.2 + 1)
  match fault with
  | some v => v
  | none => if starts then 1 else 9

/-- The boot ends in a halt (R533). -/
def bootHalt (s : State) (cause : Nat) : State :=
  { s with
    fw := { s.fw with bootPhase := 15, haltCause := cause, cpDown := true, running := s.fw.marked % 2 }
    pwr := { s.pwr with dom := [(0, 2), (1, 2), (2, 2), (4, 2), (5, 2)] } }

/-- Steps 4 and 5: the marked slot, then the other (R525 to R527). -/
def selectImage (s : State) (o : BootObs) : State :=
  let starts (n : Nat) : Bool := if n = 0 then o.startsA else o.startsB
  let note (s : State) (n v : Nat) : State :=
    { s with fw := if n = 0 then { s.fw with slotOutA := v } else { s.fw with slotOutB := v } }
  let run (s : State) (n : Nat) : State :=
    let x := slotOf s n
    let s := if x.bytes.isEmpty then s else setSlot s n (verified x)
    { s with fw := { s.fw with running := n, fallback := n != s.fw.marked } }
  let m := s.fw.marked % 2
  let v := slotOutcome s m (starts m)
  let s := note s m v
  if v = 1 then run s m
  else
    let w := slotOutcome s (1 - m) (starts (1 - m))
    let s := note s (1 - m) w
    if w = 1 then run s (1 - m) else bootHalt s 1

/-- Step 6: the channels that the Hellbox does not name train, and those that fail both attempts are FAILED (R528). -/
def trainMemory (s : State) (bad : List Nat) : State :=
  let l := (List.range 64).filter (fun c => bad.contains c && !maskBit s.mem.mapped c)
  let s := { s with fw := { s.fw with chFail := (l.map (fun c => 2 ^ c)).sum } }
  l.foldl failChannel s

/-- POWER_UP_SEQUENCE: steps 3 to 6. -/
def powerUp (s : State) (o : BootObs) : State :=
  let bist := o.bistBad.toNat % 64
  let s := command s 620
  if o.fuseBad then bootHalt s 3
  else if bist ≠ 0 then bootHalt { s with fw := { s.fw with bistBad := bist } } 2
  else
    let s := selectImage s o
    if s.fw.haltCause ≠ 0 then s
    else
      let s := trainMemory s (o.chFail.map (·.val))
      { s with fw := { s.fw with bootPhase := 4 }, pwr := { s.pwr with dom := [] } }

def execPowerUpSequence (o : BootObs) (s : State) : Host.Outcome State Fault Refusal :=
  .next (if s.fw.bootPhase = 1 && !s.pwr.off && !s.pwr.thermtrip then powerUp s o else s)

/-- Pages that the sweep writes: those that hold nobody's data. -/
def sweepWrites (s : State) (p : Nat) : Bool :=
  match pageUse s p with
  | .free | .dtt | .repair | .zeroing _ => true
  | _ => false

/-- The init sweep writes the next n pages (R529). -/
def initPages : Nat → State → State
  | 0, s => s
  | n + 1, s =>
    let p := s.fw.initCursor
    if s.mem.pmax ≤ p then s
    else
      let s := if sweepWrites s p then zeroPage s p else s
      initPages n { s with fw := { s.fw with initCursor := p + 1, initDone := decide (s.mem.pmax ≤ p + 1) } }

/-- INIT_SWEEP. -/
def execInitSweep (pages : Nat) (s : State) : Host.Outcome State Fault Refusal :=
  .next (if runs s 1 && !s.fw.initDone && decide (4 ≤ s.fw.bootPhase) then initPages pages s else s)

/-- The first training attempt of one link (R530). -/
def bootLink (s : State) (l : Nat) (o : TrainObs) : State :=
  if !o.peerSeen then s
  else
    match widthOf o.lanes.toNat false with
    | some w => linkUp (toTraining s l) l w o.peerDev.val o.peerLink.val 0
    | none =>
      let s := toTraining s l
      setLink s l { linkOf s l with fullFails := 1 }

/-- LINK_BOOT_TRAINING: step 7, one observation a link. -/
def execLinkBootTraining (obs : List TrainObs) (s : State) : Host.Outcome State Fault Refusal :=
  .next (if s.fw.bootPhase = 4 && !s.pwr.off && !s.pwr.thermtrip then
      let s := ((obs.take 16).zipIdx).foldl (fun s (o, l) => bootLink s l o) s
      { s with fw := { s.fw with bootPhase := 5 } }
    else s)

/-- Every link is settled (R530): step 9 ends the boot. -/
def bootSettle (s : State) : State :=
  if s.fw.bootPhase = 6 && (List.range 16).all (fun l => [0, 1, 3, 8].contains (linkOf s l).st) then
    { s with fw := { s.fw with bootPhase := 7, doneUs := s.clk.aon / usT } }
  else s

/-- PCIE_READY: step 8, once the boot's work has ended and the PCIe link is in L0 (R531, R533). -/
def execPcieReady (s : State) : Host.Outcome State Fault Refusal :=
  let ended := s.fw.bootPhase == 5 || (s.fw.bootPhase == 15 && !s.hif.pcieReady)
  .next (if ended && s.hif.dlActive && !s.pwr.off && !s.jtag.perst then
      bootSettle { s with
        hif := { s.hif with pcieReady := true }
        fw := { s.fw with
          bootPhase := if s.fw.bootPhase = 5 then 6 else 15
          readyUs := s.clk.aon / usT } }
    else s)

/-! ### Pins (R52, R519) -/

/-- Pin codes (Table 21.2). -/
def pinCode : Pin → Nat
  | .perst => 2 | .forceIdle => 3 | .globalStop => 4 | .smbScl => 0x20 | .smbSda => 0x21

/-- Replace a filter. -/
def setPin (s : State) (c : Nat) (p : PinSt) : State := { s with pins := put s.pins c p }

/-- FORCE_IDLE_N as it presents. -/
def setForceIdle (s : State) (low : Bool) : State :=
  if low = s.pwr.forceIdle then s else hold { s with pwr := { s.pwr with forceIdle := low } } allFns

/-- GLOBAL_STOP_N asserts: every engine stops, each link in use gets LREQ 3 and dozes, and the device enters DOZE with its
state retained (R52, R384, R208). -/
def stopLinks (s : State) : State :=
  (List.range 16).foldl (fun s l =>
    let k := linkOf s l
    if k.st == 3 || k.st == 5 then dozeLink (setLink s l { k with out := k.out ++ [mkFrame k 1 0 3 [] []] }) l else s) s

/-- GLOBAL_STOP_N as it presents. -/
def setGlobalStop (s : State) (low : Bool) : State :=
  if low = s.pwr.globalStop then s
  else if low then
    let s := if devState s < 2 then intoDoze (stopLinks s) else s
    hold { s with pwr := { s.pwr with globalStop := true, waking := [], clkWhy := 5 } } allFns
  else
    let s := { s with pwr := { s.pwr with globalStop := false, waking := List.range 6 } }
    hold { s with pwr := { s.pwr with clkWhy := whyOf s s.pwr.coreClk } } allFns

/-- PERST_N as it presents (R523). -/
def setPerst (s : State) (low : Bool) : State :=
  if low = s.jtag.perst then s
  else if low then coldReset s else { s with jtag := { s.jtag with perst := false } }

/-- The value that a filter presents takes effect. -/
def present (s : State) (p : Pin) : State :=
  let x := pinOf s (pinCode p)
  match p with
  | .perst => setPerst s (!x.high || x.ignored)
  | .forceIdle => setForceIdle s (!x.high && !x.ignored)
  | .globalStop => setGlobalStop s (!x.high && !x.ignored)
  | _ => s

/-- An accepted edge of a pin: counted, and presented unless the pin is ignored. -/
def edge (s : State) (p : Pin) (low : Bool) : State :=
  if s.pwr.off then s
  else
    let now : Int := s.clk.aon
    let x := pinOf s (pinCode p)
    let x := { x with
      high := !low, since := if low then now else x.since, highAt := if low then x.highAt else now
      edges := x.edges.filter (fun t => decide (now < t + secT)) ++ [now] }
    present (setPin s (pinCode p) x) p

def execPerstNAssert (s : State) : Host.Outcome State Fault Refusal := .next (edge s .perst true)
def execPerstNDeassert (s : State) : Host.Outcome State Fault Refusal := .next (edge s .perst false)
def execForceIdleNAssert (s : State) : Host.Outcome State Fault Refusal := .next (edge s .forceIdle true)
def execForceIdleNDeassert (s : State) : Host.Outcome State Fault Refusal := .next (edge s .forceIdle false)
def execGlobalStopNAssert (s : State) : Host.Outcome State Fault Refusal := .next (edge s .globalStop true)
def execGlobalStopNDeassert (s : State) : Host.Outcome State Fault Refusal := .next (edge s .globalStop false)

/-- A PIN_FILTER record (R546): condition 1 STUCK, 2 RATE; entry or exit. -/
def postPin (s : State) (p : Pin) (cond : Nat) (entry : Bool) : State :=
  postG s 0x0A01 2 (pinCode p + 2 ^ 8 * cond + 2 ^ 12 * b2n entry) (pinEdges s (pinCode p)) 0 0

/-- The stuck limit of a pin in AON periods (Table 21.2). -/
def pinLimit : Pin → Option Nat
  | .perst => none | .forceIdle => some (10 * secT) | .globalStop => some (60 * secT)
  | .smbScl => some (35 * msT) | .smbSda => some (35 * msT)

/-- The AMC resets its SMBus interface: its endpoint ID and what it works on for that binding go (21.3). -/
def resetSmbus (s : State) : State :=
  { s with mgmt := { s.mgmt with eidSmb := 0, relays := s.mgmt.relays.filter (·.vdm) } }

/-- Whether the pin is an SMBus line: the operand alone tells how long it has been low. -/
def pinSmb : Pin → Bool
  | .smbScl => true | .smbSda => true | _ => false

/-- PIN_STUCK: an assertion accepted for longer than the pin's limit. -/
def execPinStuck (p : Pin) (s : State) : Host.Outcome State Fault Refusal :=
  let x := pinOf s (pinCode p)
  let past := match pinLimit p with
    | none => false
    | some n => pinSmb p ||
      ((if p = .forceIdle then s.pwr.forceIdle else s.pwr.globalStop) && !x.high && decide (x.since + n < s.clk.aon))
  .next (if s.pwr.off || x.stuck || !past then s
    else
      let s := setPin s (pinCode p) { x with stuck := true, high := false, since := if pinSmb p then s.clk.aon else x.since }
      let s := postPin s p 1 true
      if pinSmb p then resetSmbus s else present s p)

/-- PIN_STUCK_CLEAR: the pin has been deasserted for 1 ms. -/
def execPinStuckClear (p : Pin) (s : State) : Host.Outcome State Fault Refusal :=
  let x := pinOf s (pinCode p)
  let free := pinSmb p || (x.high && decide (x.highAt + msT ≤ s.clk.aon))
  .next (if s.pwr.off || !x.stuck || !free then s
    else
      let s := setPin s (pinCode p) { x with stuck := false, high := true, highAt := if pinSmb p then s.clk.aon else x.highAt }
      present (postPin s p 1 false) p)

/-- PIN_RATE: more than 1,000 accepted edges in the last second. -/
def execPinRate (p : Pin) (s : State) : Host.Outcome State Fault Refusal :=
  let x := pinOf s (pinCode p)
  .next (if s.pwr.off || pinSmb p || x.rate || pinEdges s (pinCode p) ≤ 1000 then s
    else
      let s := setPin s (pinCode p) { x with rate := true, windowAt := s.clk.aon + 100 * msT }
      present (postPin s p 2 true) p)

/-- PIN_RATE_WINDOW_END: at most 100 edges in the window release the pin; otherwise another window opens. -/
def execPinRateWindowEnd (p : Pin) (s : State) : Host.Outcome State Fault Refusal :=
  let x := pinOf s (pinCode p)
  let n := (x.edges.filter (fun t => decide (x.windowAt ≤ t + 100 * msT))).length
  .next (if s.pwr.off || !x.rate || decide ((s.clk.aon : Int) < x.windowAt) then s
    else if n ≤ 100 then present (postPin (setPin s (pinCode p) { x with rate := false }) p 2 false) p
    else setPin s (pinCode p) { x with windowAt := x.windowAt + 100 * msT })

/-! ### The test access port (R535 to R538) -/

/-- Update-IR of an instruction; some take the device out of service. -/
def setInstr (s : State) (code : Nat) (out : Bool) : State :=
  if s.pwr.off then s
  else { s with jtag := { s.jtag with instr := code, outOfService := s.jtag.outOfService || out } }

/-- The IDCODE register (R536). -/
def idcodeValue : Nat := 0x19C0E9A7

/-- The 32-bit data register that the instruction selects, where it is not the boundary or bypass register. -/
def dataRegister (s : State) : Option Nat :=
  if s.jtag.instr = 1 then some idcodeValue else if s.jtag.instr = 6 then some s.jtag.bist else none

def execIdcode (s : State) : Host.Outcome State Fault Refusal := .next (setInstr s 0x01 false)
def execSamplePreload (s : State) : Host.Outcome State Fault Refusal := .next (setInstr s 0x02 false)
def execExtest (s : State) : Host.Outcome State Fault Refusal := .next (setInstr s 0x03 true)
def execClamp (s : State) : Host.Outcome State Fault Refusal := .next (setInstr s 0x04 true)
def execHighz (s : State) : Host.Outcome State Fault Refusal := .next (setInstr s 0x05 true)
def execExtestPulse (s : State) : Host.Outcome State Fault Refusal := .next (setInstr s 0x07 true)
def execExtestTrain (s : State) : Host.Outcome State Fault Refusal := .next (setInstr s 0x08 true)
def execBypass (s : State) : Host.Outcome State Fault Refusal := .next (setInstr s 0xFF false)
def execTestLogicReset (s : State) : Host.Outcome State Fault Refusal := .next (setInstr s 0x01 false)

/-- RUNBIST: the full BIST and its result (Table 20.4). -/
def execRunbist (failed : BitVec 7) (s : State) : Host.Outcome State Fault Refusal :=
  let v := 1 + 2 * b2n (failed == 0) + 2 ^ 8 * failed.toNat
  .next (if s.pwr.off then s else setInstr { s with jtag := { s.jtag with bist := v } } 0x06 true)

end Sys2Proof.Machine
end

