-- ==== Sys2Proof/Machine/Manage.lean ====
section
/-! DEFINITION. The management plane (19.5, 19.8 to 19.10): link equalisation, the telemetry frame, the Colophon, and the
AMC's answers over MCTP: control commands, PLDM discovery, monitoring and firmware update, and the Askou messages with
their relay through the pod. Command codes and field orders of the DMTF standards are not in spec/ (log entry 30). -/

namespace Sys2Proof.Machine

/-! ### The AMC's faults (R25) -/

def execAmcFault (s : State) : Host.Outcome State Fault Refusal :=
  .next (if s.pwr.off then s else { s with mgmt := { s.mgmt with amcDown := true } })

def execAmcRestart (s : State) : Host.Outcome State Fault Refusal :=
  .next (if s.pwr.off then s else { s with mgmt := { s.mgmt with amcDown := false } })

/-- The AMC runs its firmware; and the boot ROM or that firmware answers requests (Table 20.1, R533). -/
def amcRuns (s : State) : Bool :=
  !s.mgmt.amcDown && !s.pwr.off && decide (4 ≤ s.fw.bootPhase) && decide (s.fw.bootPhase < 15)
def amcServes (s : State) : Bool := !s.mgmt.amcDown && !s.pwr.off && decide (4 ≤ s.fw.bootPhase)

/-! ### Link equalisation (R510) -/

/-- A link's equalisation before any step. -/
def EqSet.zero : EqSet := ⟨0, 0, 0, 0, false, 0⟩
def eqSet (s : State) (l : Nat) : EqSet := lkD s.bg.eq l EqSet.zero
def setEq (s : State) (l : Nat) (e : EqSet) : State := { s with bg := { s.bg with eq := setD s.bg.eq l e EqSet.zero } }

/-- The knobs: 0 CTLE peaking, 1 DFE tap, 2 post-cursor. -/
def EqSet.knob (e : EqSet) (k : Nat) : Nat := if k = 0 then e.ctle else if k = 1 then e.dfe else e.post
def EqSet.setKnob (e : EqSet) (k v : Nat) : EqSet :=
  if k = 0 then { e with ctle := v } else if k = 1 then { e with dfe := v } else { e with post := v }

/-- The bounds of a knob, and the hardware range of its field (Table 19.6). -/
def eqLo (s : State) (k : Nat) : Nat := if k = 0 then mgmt s 15 else 0
def eqHi (s : State) (k : Nat) : Nat := mgmt s (16 + k)
def eqMax (k : Nat) : Nat := [31, 63, 15].getD k 0

/-- One code step of a knob: within the bounds, or within the hardware range while the link has crossed; a step that the
bound holds back marks the knob pinned there. -/
def eqStep (s : State) (e : EqSet) (k : Nat) (up : Bool) : EqSet :=
  let v := e.knob k
  let lo := if e.crossed then 0 else eqLo s k
  let hi := if e.crossed then eqMax k else eqHi s k
  let p := e.pinned - (e.pinned >>> (2 * k)) % 4 * 2 ^ (2 * k)
  if up then
    (if v < hi then { e.setKnob k (max lo (v + 1)) with pinned := p }
     else { e.setKnob k hi with pinned := p + 2 * 2 ^ (2 * k) })
  else if lo < v then { e.setKnob k (min hi (v - 1)) with pinned := p }
  else { e.setKnob k lo with pinned := p + 2 ^ (2 * k) }

/-- A crossing ends after 1 s with no rise: the knobs return within their bounds. -/
def eqReturn (s : State) (e : EqSet) : EqSet :=
  let back (k v : Nat) : Nat := max (eqLo s k) (min (eqHi s k) v)
  { e with ctle := back 0 e.ctle, dfe := back 1 e.dfe, post := back 2 e.post, crossed := false }

/-- What the loop reports for all links: PINNED where any link is held at a bound. -/
def eqReport (s : State) : State :=
  let any (bit : Nat) : Bool := (List.range 16).any (fun l => (List.range 3).any (fun k => bitOf (eqSet s l).pinned (2 * k + bit)))
  let s := setPinned s 4 (if any 1 then 2 else if any 0 then 1 else 0)
  if (List.range 16).any (fun l => (eqSet s l).crossed) then crossOn s 4 2 else crossOff s 4

/-- LINK_EQ_STEP, every 10 ms; `uncRise` says whether LNK_FEC_UNC has risen since the last. -/
def linkEq (s : State) (l k : Nat) (up uncRise : Bool) : State :=
  let e := eqSet s l
  let e := if e.crossed && !uncRise && decide (e.uncAt + secT ≤ s.clk.aon) then eqReturn s e else e
  let used := (linkOf s l).st == 3 && bar2Eff s (0x41080 + 0x100 * l) % 16 == 0
  let e :=
    if !used then e
    else
      let e := if uncRise && (e.crossed || e.pinned != 0) then { e with crossed := true, uncAt := s.clk.aon } else e
      eqStep s e k up
  eqReport (setEq s l e)

def execLinkEqStep (l : Lnk) (knob : Fin 3) (up uncRise : Bool) (s : State) : Host.Outcome State Fault Refusal :=
  .next (if isDue s (.eq l.val) && runs s 2 && !s.mgmt.amcDown then
      linkEq (setDue s (.eq l.val) (10 * msT)) l.val knob.val up uncRise
    else s)

/-! ### Telemetry (R514, Table 19.7) -/

/-- The fields of one group's place in the frame, zero where TEL_SELECT leaves the group out. -/
def teleGroup (s : State) (g n : Nat) (l : List Byte) : List Byte :=
  if bitOf (mgmt s 19) g then slice l 0 n else List.replicate n 0

/-- The 256 bytes of a frame. -/
def teleFrame (s : State) (power : W32) (energy : W64) : List Byte :=
  let inState (n : Nat) : List Byte := leBytes 8 (lkD s.pwr.inState n 0 / usT)
  slice (leBytes 8 s.clk.aon ++
    teleGroup s 0 10 ((List.range 8).flatMap (fun i => leBytes 1 (s.pwr.stackTs.getD i 0)) ++
      leBytes 1 s.pwr.logicT ++ leBytes 1 s.pwr.step) ++
    teleGroup s 1 22 (leBytes 2 s.pwr.vdd ++ leBytes 2 s.pwr.coreClk ++ leBytes 2 (tokenCap s.pwr.step) ++
      leBytes 4 power.toNat ++ [0, 0, 0, 0] ++ leBytes 8 energy.toNat) ++
    teleGroup s 2 32 (inState 0 ++ inState 1 ++ inState 2 ++ inState 3) ++
    teleGroup s 3 16 (leBytes 8 (totalCe s) ++ leBytes 4 (totalUe s) ++ leBytes 2 s.mem.hellbox.length ++
      leBytes 1 s.bg.scrubStep ++ leBytes 1 ((List.range 64).filter (fun c => lkD s.mem.chState c 0 == 0)).length) ++
    teleGroup s 4 20 ((List.range 16).flatMap (fun l => leBytes 1 (lnkStat s l % 16)) ++
      leBytes 4 ((List.range 16).map (fun l => cnt s (lnkCnt l 0x18))).sum) ++
    teleGroup s 5 12 ((List.range 5).flatMap (fun n => leBytes 2 (loopStat s n))) ++
    teleGroup s 6 16 (leBytes 8 (cnt s telTasks) ++ leBytes 8 (cnt s telBytes)) ++
    teleGroup s 7 8 (leBytes 4 s.bg.agingG ++ leBytes 4 s.bg.agingD)) 0 256

/-- TELEMETRY_FRAME, every TEL_PERIOD_MS; the device power and energy are the AMC's own estimates. -/
def execTelemetryFrame (powerMw : W32) (energyMj : W64) (s : State) : Host.Outcome State Fault Refusal :=
  .next (if isDue s .tele && amcRuns s then
      let s := setDue s .tele (max 1 (mgmt s 20) * msT)
      let frame := (teleFrame s powerMw energyMj).zipIdx.foldl (fun t (b, i) => setD t i b 0) s.bg.telFrame
      { s with bg := { s.bg with telFrame := frame, telSeq := (s.bg.telSeq + 2) % 2 ^ 32 } }
    else s)

/-! ### The Colophon (R37, R518, Table 19.5) -/

/-- The highest block erase count of the NOR ring. -/
def norEraseMax (s : State) : Nat := s.evt.ring.foldl (fun m (e : Nat × NorBlock) => max m e.2.erases) 0

/-- The derived fields, bytes 0x104 to 0x13F, as the AMC derives them now. -/
def colophonNow (s : State) : List Byte :=
  let out := s.mem.hellbox.filter (fun e => e.kind == 2)
  let worn := norEraseMax s
  leBytes 4 s.mem.pmax ++ leBytes 2 (64 - ((List.range 64).filter (maskBit s.mem.mapped)).length) ++
  leBytes 2 s.mem.hellbox.length ++ leBytes 4 (s.mem.hellbox.filter (fun e => e.kind == 1)).length ++ [0, 0] ++ [0, 0] ++
  leBytes 8 (out.foldl (fun m e => m ||| 2 ^ e.channel) 0) ++
  leBytes 1 s.bg.agingG ++ leBytes 1 (b2n s.bg.agingLimit + 2 * b2n (decide (95000 ≤ worn))) ++ [0, 0] ++
  leBytes 4 s.bg.agingD ++ leBytes 4 worn ++ leBytes 4 s.evt.boot ++
  leBytes 1 s.fw.marked ++ leBytes 1 s.fw.rollback ++ [0, 0] ++
  leBytes 4 (if slotOk s 0 then s.fw.slotA.ver.toNat else 0) ++ leBytes 4 (s.fw.slotA.svn % 256) ++
  leBytes 4 (if slotOk s 1 then s.fw.slotB.ver.toNat else 0) ++ leBytes 8 (s.fw.slotB.svn % 256)

/-- COLOPHON_UPDATE: VERSION rises by one at a change of the derived section. -/
def execColophonUpdate (s : State) : Host.Outcome State Fault Refusal :=
  .next (if amcRuns s && colophonNow s != s.bg.colDerived then
      { s with bg := { s.bg with colDerived := colophonNow s, colVersion := (s.bg.colVersion + 1) % 2 ^ 32 } }
    else s)

/-- The 512 bytes. -/
def colophon (s : State) : List Byte :=
  let i := s.ident
  let big := i.ordering == 2
  let factory :=
    leBytes 4 0xC01F0001 ++ leBytes 4 1 ++ slice i.serial 0 16 ++ slice i.uuid 0 16 ++ leBytes 4 (readIdent s 0 0) ++
    leBytes 4 (i.vendor % 65536) ++ leBytes 4 i.firstShip ++ leBytes 4 (i.firstShip + 3653) ++ leBytes 4 10667 ++
    leBytes 2 (if big then 384 else 256) ++ leBytes 2 (if big then 12 else 8) ++
    (List.range 22).flatMap (fun w => leBytes 4 (mgmtDefault w))
  slice factory 0 256 ++ leBytes 4 s.bg.colVersion ++ slice s.bg.colDerived 0 60 ++ List.replicate 192 0

/-- COLOPHON_READ, from any function. -/
def execColophonRead (f : Fn) (s : State) : Host.Outcome State Fault Refusal :=
  .next (runShort s f.val 0xA00 (fun s _ _ => .ok (colophon s) s false))

/-! ### Answers -/

/-- Whether a path is the PCIe VDM binding. -/
def isVdm : MgmtPath → Bool
  | .smbus => false
  | .vdm => true

/-- The AMC answers on the binding of the request. -/
def amcAnswer (s : State) (vdm : Bool) (code : Nat) (data : List Byte) : State :=
  { s with mgmt := { s.mgmt with out := s.mgmt.out ++ [⟨vdm, code, data⟩] } }

/-- A request that the boot ROM serves too. -/
def mgmtServed (s : State) (path : MgmtPath) (k : State → Nat × List Byte × State) : State :=
  if amcServes s then
    let (code, data, t) := k s
    amcAnswer t (isVdm path) code data
  else s

/-- A request that only the AMC's firmware serves. -/
def mgmtRun (s : State) (path : MgmtPath) (k : State → Nat × List Byte × State) : State :=
  if amcRuns s then mgmtServed s path k else s

/-- n free bytes in an answer (log entry 3). -/
def withFree (s : State) (n : Nat) (k : List Byte → State → Nat × List Byte × State) : Nat × List Byte × State :=
  let (l, s) := freshBytes n s
  k l s

/-! ### Askou messages (R504, R517, Table 19.9) -/

/-- The readable records of the NOR ring at a boot, from a SEQ on, in SEQ order. -/
def norRecords (s : State) (boot first n : Nat) : List EvStored :=
  let blocks := (List.range 128).map (fun i => lkD s.evt.ring ((s.evt.cur + 1 + i) % 128) NorBlock.empty)
  ((blocks.flatMap (fun b => b.recs)).filter (fun x => x.boot == boot % 4096 && decide (first ≤ x.seq))).take n

/-- GET_BOUND. -/
def askGet (s : State) (w : Nat) : Nat × List Byte × State :=
  (0, leBytes 4 (if w < 22 then mgmtCommitted s w else 0), s)

/-- SET_BOUND: refused outside its range (R504). -/
def askSet (s : State) (w v : Nat) : Nat × List Byte × State :=
  if boundAccepted s w v then (0, [], setBound s w v) else (1, [], s)

/-- TEL_READ: the whole frame (R515). -/
def askTel (s : State) : Nat × List Byte × State := (0, (List.range 256).map (fun i => lkD s.bg.telFrame i 0), s)

/-- EVT_NOR_READ: 1 to 60 records. -/
def askNor (s : State) (boot first n : Nat) : Nat × List Byte × State :=
  let l := norRecords s boot first n
  if n = 0 ∨ 60 < n then (1, [], s) else if l.isEmpty then (3, [], s) else (0, l.flatMap evBytes, s)

/-- An Askou message at the device it names: its command and its parameters as bytes. -/
def askou (s : State) (cmd : Nat) (p : List Byte) : Nat × List Byte × State :=
  if cmd = 1 then askGet s (leAt p 0 1)
  else if cmd = 2 then askSet s (leAt p 0 1) (leAt p 1 4)
  else if cmd = 3 then askTel s
  else if cmd = 4 then askNor s (leAt p 0 4) (leAt p 4 8) (leAt p 12 1)
  else if cmd = 5 then (0, colophon s, s)
  else (1, [], s)

/-- An Askou request (R517): for this device, or relayed to the member it names. In a boot halt only COLOPHON_READ for this
device is served. -/
def askouReq (s : State) (path : MgmtPath) (device cmd : Nat) (p : List Byte) : State :=
  let v := (isVdm path)
  if !amcServes s then s
  else if device = 255 ∨ device = me s then
    if amcRuns s ∨ cmd = 5 then
      let (code, data, t) := askou s cmd p
      amcAnswer t v code data
    else s
  else if !amcRuns s then s
  else if device < 64 && s.pod.joined && maskBit s.pod.members device then
    if isMember s device then
      let s := { s with mgmt := { s.mgmt with relays := s.mgmt.relays ++ [⟨v, device, s.clk.timer⟩] } }
      sendMsg s device 32 (.mgmtReq (BitVec.ofNat 8 cmd) p)
    else amcAnswer s v 4 []
  else amcAnswer s v 3 []

def execGetBound (path : MgmtPath) (device word : Byte) (s : State) : Host.Outcome State Fault Refusal :=
  .next (askouReq s path device.toNat 1 [word])
def execSetBound (path : MgmtPath) (device word : Byte) (value : W32) (s : State) : Host.Outcome State Fault Refusal :=
  .next (askouReq s path device.toNat 2 (word :: leBytes 4 value.toNat))
def execTelRead (path : MgmtPath) (device : Byte) (s : State) : Host.Outcome State Fault Refusal :=
  .next (askouReq s path device.toNat 3 [])
def execEvtNorRead (path : MgmtPath) (device : Byte) (boot : W32) (firstSeq : W64) (count : Byte) (s : State) :
    Host.Outcome State Fault Refusal :=
  .next (askouReq s path device.toNat 4 (leBytes 4 boot.toNat ++ leBytes 8 firstSeq.toNat ++ [count]))
def execMgmtColophonRead (path : MgmtPath) (device : Byte) (s : State) : Host.Outcome State Fault Refusal :=
  .next (askouReq s path device.toNat 5 [])

/-- MGMT_RELAY_REQ: a relayed request is handled as if it had arrived here (R27, R517). -/
def execMgmtRelayReq (h : MsgHdr) (cmd : Byte) (params : List Byte) (s : State) : Host.Outcome State Fault Refusal :=
  .next (onMsg s h (.mgmtReq cmd params) (fun s =>
    if amcRuns s then
      let (code, data, t) := askou s cmd.toNat params
      replyMsg t h (.mgmtAns (BitVec.ofNat 8 code) data)
    else s))

/-- Relays unanswered within LNK_CREDIT_TO end UNREACHABLE (R517). -/
def relayTimeouts (s : State) : State :=
  let late (r : Relay) : Bool := decide (r.at_ + creditTo s ≤ s.clk.timer)
  let gone := s.mgmt.relays.filter late
  gone.foldl (fun s r => amcAnswer s r.vdm 4 [])
    { s with mgmt := { s.mgmt with relays := s.mgmt.relays.filter (fun r => !late r) } }

/-- MGMT_RELAY_ANS: the answer goes to the oldest relay to that member. -/
def execMgmtRelayAns (h : MsgHdr) (code : Byte) (data : List Byte) (s : State) : Host.Outcome State Fault Refusal :=
  .next (onMsg s h (.mgmtAns code data) (fun s =>
    if !amcRuns s then s
    else
      let s := relayTimeouts s
      match s.mgmt.relays.find? (fun r => r.dst == h.src.val) with
      | some r => amcAnswer { s with mgmt := { s.mgmt with relays := s.mgmt.relays.erase r } } r.vdm code.toNat data
      | none => s))

/-! ### MCTP control (DSP0236, Table 19.4) -/

/-- The endpoint ID of a binding. -/
def eidOf (s : State) (v : Bool) : Nat := if v then s.mgmt.eidVdm else s.mgmt.eidSmb
def setEid (s : State) (v : Bool) (e : Nat) : State :=
  { s with mgmt := if v then { s.mgmt with eidVdm := e } else { s.mgmt with eidSmb := e } }

/-- Set Endpoint ID: operations 0 set and 1 force; 2, reset of a static ID, is refused; 3 sets a discovered flag, which
the PCIe VDM binding has. -/
def setEidReq (s : State) (v : Bool) (op e : Nat) : Nat × List Byte × State :=
  if op % 4 < 2 then
    (if e = 0 ∨ e = 255 then (2, [], s) else (0, [0] ++ leBytes 1 e ++ [0], setEid s v e))
  else if op % 4 = 3 && v then (0, [0] ++ leBytes 1 (eidOf s v) ++ [0], s)
  else (2, [], s)

def execSetEndpointId (path : MgmtPath) (op eid : Byte) (s : State) : Host.Outcome State Fault Refusal :=
  .next (mgmtServed s path (fun s => setEidReq s (isVdm path) op.toNat eid.toNat))
def execGetEndpointId (path : MgmtPath) (s : State) : Host.Outcome State Fault Refusal :=
  .next (mgmtServed s path (fun s => (0, leBytes 1 (eidOf s (isVdm path)) ++ [0, 0], s)))
def execGetEndpointUuid (path : MgmtPath) (s : State) : Host.Outcome State Fault Refusal :=
  .next (mgmtServed s path (fun s => (0, slice s.ident.uuid 0 16, s)))

/-- Get MCTP Version Support: one version of the base (0xFF) and of each message type; the spec numbers none. -/
def execGetMctpVersionSupport (path : MgmtPath) (type : Byte) (s : State) : Host.Outcome State Fault Refusal :=
  .next (mgmtServed s path (fun s =>
    if [0, 1, 0x7E, 0xFF].contains type.toNat then withFree s 4 (fun l s => (0, [1] ++ l, s)) else (0x80, [], s)))

/-- Get Message Type Support: types 0, 1 and 0x7E. -/
def execGetMessageTypeSupport (path : MgmtPath) (s : State) : Host.Outcome State Fault Refusal :=
  .next (mgmtServed s path (fun s => (0, [3, 0, 1, 0x7E], s)))

/-- Get Vendor Defined Message Support: one set, of the PCI vendor ID that PF0 reports; its version is free. -/
def execGetVendorDefinedMsgSupport (path : MgmtPath) (selector : Byte) (s : State) : Host.Outcome State Fault Refusal :=
  .next (mgmtServed s path (fun s =>
    if selector = 0 then
      withFree s 2 (fun l s => (0, [0xFF, 0] ++ (leBytes 2 s.ident.vendor).reverse ++ l, s))
    else (2, [], s)))

/-! ### PLDM discovery (type 0) -/

/-- The commands served of each PLDM type (Table 19.4). -/
def pldmCmds (type : Nat) : Option (List Nat) :=
  match type with
  | 0 => some [2, 3, 4, 5]
  | 2 => some [0x0B, 0x11, 0x21, 0x50, 0x51]
  | 5 => some [0x01, 0x02, 0x10, 0x13, 0x14, 0x15, 0x16, 0x17, 0x18, 0x1A, 0x1B, 0x1C, 0x1D]
  | _ => none

/-- GetTID: the subset has no SetTID, so the terminus ID is the unassigned one, 0. -/
def execGetTid (path : MgmtPath) (s : State) : Host.Outcome State Fault Refusal :=
  .next (mgmtServed s path (fun s => (0, [0], s)))

/-- GetPLDMVersion: the version itself is free. -/
def execGetPldmVersion (path : MgmtPath) (type : Byte) (s : State) : Host.Outcome State Fault Refusal :=
  .next (mgmtServed s path (fun s =>
    if (pldmCmds type.toNat).isSome then withFree s 8 (fun l s => (0, [0, 0, 0, 0, 5] ++ l, s)) else (0x83, [], s)))

def execGetPldmTypes (path : MgmtPath) (s : State) : Host.Outcome State Fault Refusal :=
  .next (mgmtServed s path (fun s => (0, leBytes 8 0x25, s)))

/-- GetPLDMCommands: a bit for each command code of the type. -/
def execGetPldmCommands (path : MgmtPath) (type : Byte) (s : State) : Host.Outcome State Fault Refusal :=
  .next (mgmtServed s path (fun s =>
    match pldmCmds type.toNat with
    | some l => (0, leBytes 32 (l.map (fun c => 2 ^ c)).sum, s)
    | none => (0x83, [], s)))

/-! ### PLDM monitoring (type 2, R514) -/

/-- Offset and length in the telemetry frame of each numeric sensor, from sensor 1 on: the values of groups 0, 1 and 7. -/
def sensors : List (Nat × Nat) :=
  (List.range 8).map (fun i => (8 + i, 1)) ++
  [(0x10, 1), (0x11, 1), (0x12, 2), (0x14, 2), (0x16, 2), (0x18, 4), (0x20, 8), (0x88, 1), (0x8C, 4)]

/-- DSP0248's data size codes of unsigned numbers. -/
def dataSize (n : Nat) : Nat := if n = 1 then 0 else if n = 2 then 2 else if n = 4 then 4 else 6

/-- State sensors, from sensor 18 on: power state, stack step, THERMTRIP_N. -/
def stateSensor (s : State) (n : Nat) : Option Nat :=
  if n = 18 then some (devState s) else if n = 19 then some s.pwr.step else if n = 20 then some (b2n s.pwr.thermtrip) else none

/-- A PDR: its header, the terminus handle and sensor ID, and what else it describes, which is free. -/
def pdrBytes (n : Nat) (free : List Byte) : List Byte :=
  leBytes 4 n ++ [1, if n ≤ 17 then 2 else 4, 0, 0] ++ leBytes 2 (4 + free.length) ++ [0, 0] ++ leBytes 2 n ++ free

def execGetPdrRepositoryInfo (path : MgmtPath) (s : State) : Host.Outcome State Fault Refusal :=
  .next (mgmtRun s path (fun s => withFree s 35 (fun l s =>
    (0, [0] ++ l.take 26 ++ leBytes 4 20 ++ (l.drop 26).take 9, s))))

/-- GetPDR: records 1 to 20, one a sensor; record 0 names the first. -/
def execGetPdr (path : MgmtPath) (record : W32) (s : State) : Host.Outcome State Fault Refusal :=
  .next (mgmtRun s path (fun s =>
    let n := max 1 record.toNat
    if 20 < n then (0x82, [], s)
    else withFree s 32 (fun l s =>
      let b := pdrBytes n l
      (0, leBytes 4 (if n = 20 then 0 else n + 1) ++ leBytes 4 0 ++ [5] ++ leBytes 2 b.length ++ b, s))))

/-- GetSensorReading: the field of the last frame. -/
def execGetSensorReading (path : MgmtPath) (sensor : W16) (s : State) : Host.Outcome State Fault Refusal :=
  .next (mgmtRun s path (fun s =>
    match if sensor = 0 then none else sensors[sensor.toNat - 1]? with
    | some (o, n) => withFree s 3 (fun l s =>
        (0, leBytes 1 (dataSize n) ++ [0, 0] ++ l ++ (List.range n).map (fun i => lkD s.bg.telFrame (o + i) 0), s))
    | none => (0x80, [], s)))

def execGetStateSensorReadings (path : MgmtPath) (sensor : W16) (s : State) : Host.Outcome State Fault Refusal :=
  .next (mgmtRun s path (fun s =>
    match stateSensor s sensor.toNat with
    | some v => withFree s 2 (fun l s => (0, [1, 0] ++ leBytes 1 v ++ l, s))
    | none => (0x80, [], s)))

/-- PollForPlatformEventMessage: the AMC raises no platform events (Table 19.4), so none is pending. -/
def execPollForPlatformEventMessage (path : MgmtPath) (s : State) : Host.Outcome State Fault Refusal :=
  .next (mgmtRun s path (fun s => (0, [0, 0, 0], s)))

/-! ### PLDM firmware update (type 5, R516, 4.9) -/

/-- The firmware device is in a state. -/
def setPldm (s : State) (p : PldmSt) : State := { s with mgmt := { s.mgmt with pldm := p } }

/-- The number of a state in GetStatus. -/
def PldmSt.num : PldmSt → Nat
  | .idle => 0 | .learn => 1 | .readyXfer => 2 | .download => 3 | .verify => 4 | .apply => 5 | .activate => 6

/-- A command of the open PLDM session, in the states that take it; it restarts the session's time-out. -/
def pldmIn (s : State) (l : List PldmSt) (k : State → Nat × List Byte × State) : Nat × List Byte × State :=
  if s.mgmt.pldm = .idle then (0x80, [], s)
  else if l.contains s.mgmt.pldm then k (touchSession s) else (0x84, [], s)

/-- The descriptor of the device: its PCI vendor ID. -/
def execQueryDeviceIdentifiers (path : MgmtPath) (s : State) : Host.Outcome State Fault Refusal :=
  .next (mgmtServed s path (fun s => (0, leBytes 4 6 ++ [1, 0, 0, 2, 0] ++ leBytes 2 s.ident.vendor, s)))

/-- One component; the version that runs, and the version pending where another slot is marked; the rest is free. -/
def execGetFirmwareParameters (path : MgmtPath) (s : State) : Host.Outcome State Fault Refusal :=
  .next (mgmtServed s path (fun s => withFree s 4 (fun l s =>
    let pend := if s.fw.marked = s.fw.running then 0 else (slotOf s s.fw.marked).ver.toNat
    (0, l ++ [1, 0] ++ leBytes 4 (slotOf s s.fw.running).ver.toNat ++ leBytes 4 pend, s))))

/-- RequestUpdate: refused with ALREADY_IN_UPDATE_MODE while any session is open on either path. -/
def execRequestUpdate (path : MgmtPath) (s : State) : Host.Outcome State Fault Refusal :=
  .next (mgmtServed s path (fun s =>
    if s.fw.sess.isSome then (0x81, [], s)
    else
      let s := openSession s .pldm 0
      (0, [0, 0, 0], { s with mgmt := { s.mgmt with
        pldm := .learn, pldmVdm := (isVdm path), pldmSize := 0, pldmOff := 0, pldmAsked := 0 } })))

def execPassComponentTable (path : MgmtPath) (s : State) : Host.Outcome State Fault Refusal :=
  .next (mgmtServed s path (fun s => pldmIn s [.learn] (fun s => (0, [0, 0], setPldm s .readyXfer))))

/-- UpdateComponent: the size of the Onaman image, as FW_UPDATE_BEGIN bounds it. -/
def execUpdateComponent (path : MgmtPath) (size : W32) (s : State) : Host.Outcome State Fault Refusal :=
  let n := size.toNat
  .next (mgmtServed s path (fun s => pldmIn s [.readyXfer] (fun s => withFree s 2 (fun l s =>
    if n < 512 || 4194304 < n || n % 4 ≠ 0 then (0, [1, 9, 0, 0, 0, 0] ++ l, s)
    else
      let s := openSession s .pldm n
      (0, [0, 0, 0, 0, 0, 0] ++ l, { s with mgmt := { s.mgmt with
        pldm := .download, pldmSize := n, pldmOff := 0 } })))))

/-- RequestFirmwareData: the AMC's request, with its offset and length, and the part at `offset` that the update agent has
answered with, which is programmed. -/
def execRequestFirmwareData (offset : W32) (data : List Byte) (s : State) : Host.Outcome State Fault Refusal :=
  let m := s.mgmt
  .next (if amcServes s && m.pldm == .download && offset.toNat == m.pldmOff && !data.isEmpty &&
      decide (m.pldmOff + data.length ≤ m.pldmSize) then
      let sl := slotOf s (inactive s)
      let s := setSlot s (inactive s) { sl with bytes := putAll sl.bytes (data.zipIdx.map (fun e => (m.pldmOff + e.2, e.1))) }
      let s := amcAnswer (touchSession s) m.pldmVdm 0 (leBytes 4 m.pldmOff ++ leBytes 4 data.length)
      { s with
        mgmt := { s.mgmt with pldmOff := m.pldmOff + data.length, pldmAsked := m.pldmAsked + 1 }
        fw := { s.fw with sess := s.fw.sess.map (fun x => { x with bytes := x.bytes + data.length }) } }
    else s)

/-- TransferComplete: with every byte there, the image is verified; otherwise the component must be sent again. -/
def execTransferComplete (ok : Bool) (s : State) : Host.Outcome State Fault Refusal :=
  .next (if amcServes s && s.mgmt.pldm == .download then
      touchSession (setPldm s (if ok && s.mgmt.pldmOff == s.mgmt.pldmSize then .verify else .readyXfer))
    else s)

/-- VerifyComplete (R122): a slot that verifies holds its image; one that does not stays invalid. -/
def execVerifyComplete (s : State) : Host.Outcome State Fault Refusal :=
  .next (if amcServes s && s.mgmt.pldm == .verify then
      let n := inactive s
      let s := touchSession s
      match imageFault s (slotOf s n) with
      | none => setPldm (setSlot s n (verified (slotOf s n))) .apply
      | some _ => setPldm s .readyXfer
    else s)

def execApplyComplete (s : State) : Host.Outcome State Fault Refusal :=
  .next (if amcServes s && s.mgmt.pldm == .apply then touchSession (setPldm s .readyXfer) else s)

/-- ActivateFirmware acts as FW_ACTIVATE on the slot written (R516): its image runs after the next cold reset. -/
def execActivateFirmware (path : MgmtPath) (s : State) : Host.Outcome State Fault Refusal :=
  .next (mgmtServed s path (fun s => pldmIn s [.readyXfer] (fun s =>
    let n := inactive s
    if slotOk s n then
      (0, [0, 0], setPldm { s with fw := { s.fw with marked := n, sess := none } } .idle)
    else (0x85, [], s))))

def execGetStatus (path : MgmtPath) (s : State) : Host.Outcome State Fault Refusal :=
  .next (mgmtServed s path (fun s => withFree s 9 (fun l s => (0, leBytes 1 s.mgmt.pldm.num ++ l, s))))

/-- CancelUpdateComponent: the component's transfer ends, its slot invalid. -/
def execCancelUpdateComponent (path : MgmtPath) (s : State) : Host.Outcome State Fault Refusal :=
  .next (mgmtServed s path (fun s => pldmIn s [.download, .verify, .apply] (fun s =>
    let n := inactive s
    (0, [], setPldm (setSlot s n { slotOf s n with valid := false }) .readyXfer))))

/-- CancelUpdate: the session ends, its slot invalid. -/
def execCancelUpdate (path : MgmtPath) (s : State) : Host.Outcome State Fault Refusal :=
  .next (mgmtServed s path (fun s =>
    if s.mgmt.pldm = .idle then (0x80, [], s)
    else (0, List.replicate 9 0, setPldm (cancelSession s) .idle)))

end Sys2Proof.Machine
end

