-- ==== Sys2Proof/Machine/Place.lean ====
section
/-! DEFINITION. The placement planner (8.6): PLACE_PLAN and PLACE_COMMIT, what they measure (R243 to R245), the result
they write (Table 8.6), the pages a commit takes (R247, R248), and the planner's exchange with other members (R246). -/

namespace Sys2Proof.Machine

/-! ### The request (Table 8.5) -/

/-- A cold range. -/
structure Cold where
  handle : Nat
  first : Nat
  count : Nat
deriving DecidableEq, Repr

/-- The fields of a request; TARGET 0xFF is the driver domain, 32. -/
def placeTarget (b : List Byte) : Nat := if leAt b 8 1 = 0xFF then 32 else leAt b 8 1
def placeSpill (b : List Byte) : Bool := bitOf (leAt b 8 4) 8
def placeAddr (b : List Byte) : Nat := leAt b 0x10 8
def placeHandles (b : List Byte) : List Nat := (List.range (placeNtab b)).map (fun t => leAt b (0x18 + 4 * t) 4)
def placeC (b : List Byte) : Nat := 0x18 + 4 * placeNtab b
def placeCold (b : List Byte) : List Cold :=
  (List.range (placeNcold b)).map (fun j =>
    ⟨leAt b (placeC b + 16 * j) 4, leAt b (placeC b + 16 * j + 8) 5, leAt b (placeC b + 16 * j + 4) 4⟩)
def placeSpillAt (b : List Byte) (t : Nat) : Nat := placeC b + 16 * placeNcold b + 8 * t

/-! ### The measure (R243 to R245) -/

/-- What a table needs on a device that holds it DEFINED: storage, and a ledger where it owns a shard (R243). -/
def tableNeed (t : Table) (d : Nat) : Nat :=
  ((t.holds d).map (fun x => t.storePages x.1)).sum + (if (t.holds d).any (fun x => !x.2) then t.ledgerPages else 0)

/-- Whether every existing row of a local page lies in a cold range, and it has one (R245). -/
def pageCold (t : Table) (shard : Nat) (c : Cold) (lp : Nat) : Bool :=
  let rows := (List.range t.rowsPerPage).filterMap (fun k => t.globalRow shard (lp * t.rowsPerPage + k))
  !rows.isEmpty && rows.all (fun r => decide (c.first ≤ r) && decide (r < c.first + c.count))

/-- The pages eligible to spill on a device, in the planner's order, each once: table and local page. -/
def spillOrder (ts : List Table) (d : Nat) (cold : List Cold) : List (Nat × Nat) :=
  (cold.flatMap (fun c =>
    (ts.filter (fun t => t.handle == c.handle)).flatMap (fun t =>
      ((t.holds d).filter (fun x => !x.2)).flatMap (fun x =>
        ((List.range (t.storePages x.1)).filter (pageCold t x.1 c)).map (fun lp => (t.handle, lp)))))).eraseDups

/-- The measure of one device: DSTAT, need after spill, available pages, and the pages spilled. -/
structure Measure where
  dev : Nat
  dstat : Nat
  need : Nat
  avail : Nat
  spill : List (Nat × Nat)
deriving DecidableEq, Repr

/-- Measure a device from the listed tables that are DEFINED on it. -/
def measure (ts : List Table) (d avail : Nat) (cold : List Cold) (spill : Bool) : Measure :=
  let need := (ts.map (fun t => tableNeed t d)).sum
  let l := if spill then (spillOrder ts d cold).take (need - avail) else []
  ⟨d, 0, need - l.length, avail, l⟩

def Measure.short (m : Measure) : Nat := m.need - m.avail

/-- VERDICT: 0 FIT, 1 FIT_WITH_SPILL, 2 NO_FIT. -/
def placeVerdict (l : List Measure) : Nat :=
  if l.any (fun m => m.dstat != 0 || m.short != 0) then 2 else if l.all (fun m => m.spill.isEmpty) then 0 else 1

/-- Rows of the pages spilled. -/
def spillRows (ts : List Table) (m : Measure) : Nat :=
  (m.spill.map (fun (h, lp) => match ts.find? (fun t => t.handle == h) with
    | some t => ((t.holds m.dev).filter (fun x => !x.2)).foldl (fun n x => n + pageRows t x.1 lp) 0
    | none => 0)).sum

/-- The bytes of the result (Table 8.6). What a device that was not measured needs and has is not stated: free values
(log entry 25). -/
def placeResult (ts : List Table) (ms : List Measure) (done : Bool) (s : State) : List Byte × State :=
  let head := leBytes 4 (placeVerdict ms + 2 ^ 8 * ms.length + 2 ^ 16 * b2n done) ++ leBytes 4 0 ++
    leBytes 8 ((ms.map (spillRows ts)).sum)
  let (devs, s) := ms.foldl (fun (x : List Byte × State) m =>
    let (u, s) := if m.dstat = 0 then ((leBytes 4 m.need ++ leBytes 4 m.avail, leBytes 4 m.short), x.2)
      else
        let (a, s) := freshBytes 8 x.2
        let (b, s) := freshBytes 4 s
        ((a, b), s)
    (x.1 ++ leBytes 4 (m.dev + 2 ^ 8 * m.dstat) ++ u.1 ++ leBytes 4 m.spill.length ++ u.2 ++ leBytes 4 0 ++
      leBytes 8 (spillRows ts m), s)) ([], s)
  let tabs := ms.flatMap (fun m => ts.flatMap (fun t => leBytes 8 (m.spill.filter (fun e => e.1 == t.handle)).length))
  (head ++ devs ++ tabs, s)

/-! ### Checks (R246, R247) -/

/-- The listed tables that the function reaches. -/
def placeTables (s : State) (f : Nat) (b : List Byte) : List Table := (placeHandles b).filterMap (reachTable s f)

/-- The devices that own or replicate a shard of the listed tables, in ascending order. -/
def placeDevs (ts : List Table) : List Nat := (List.range 64).filter (fun d => ts.any (fun t => !(t.holds d).isEmpty))

/-- The range checks of Table 8.5. -/
def placeRange (b : List Byte) (commit : Bool) : List (Nat × Bool) :=
  let hs := placeHandles b
  let c := placeC b
  [(0x08, decide (31 < leAt b 8 1) && leAt b 8 1 != 0xFF), (0x0A, placeNtab b == 0 || decide (64 < placeNtab b)),
   (0x0B, decide (32 < placeNcold b)), (0x10, placeAddr b % 8 != 0)] ++
  hs.zipIdx.map (fun (h, t) => (0x18 + 4 * t, (hs.take t).contains h)) ++
  (placeCold b).zipIdx.flatMap (fun (x, j) => [(c + 16 * j, !hs.contains x.handle), (c + 16 * j + 4, x.count == 0)]) ++
  (if commit then (List.range (placeNtab b)).map (fun t => (placeSpillAt b t, leAt b (placeSpillAt b t) 8 % 4096 != 0)) else [])

/-- The measure of this device for a request. -/
def measureHere (s : State) (f : Nat) (b : List Byte) : Measure :=
  let ts := (placeTables s f b).filter (fun t => !t.placed)
  measure ts (me s) (availPages s (placeTarget b)) (placeCold b) (placeSpill b && capOn s f 4)

/-- The checks of both commands, and what follows. -/
def placeChecks (s : State) (f : Nat) (b : List Byte) (commit : Bool) (k : List Table → MOut) : MOut :=
  let ts := placeTables s f b
  let p := placeTarget b
  checked
    [rangeBad (placeRange b commit), (ts.any (Table.remote s) && !capOn s f 7, 0x15, 7),
     (f != 0 && p != partOfFn f, 0x18, 0), (f == 0 && decide (p < 32) && (part s p).st != .active, 0x18, 0),
     (decide (ts.length < placeNtab b), 0x18, 0)]
    (match ts.findSome? (fun t => tableHolder s t.handle) with
     | some o => .held o
     | none => k ts)

/-- PLACE_PLAN. -/
def placePlan (s : State) (f : Nat) (b : List Byte) : MOut :=
  placeChecks s f b false (fun ts => .start (placeDevs ts).length [] s)

/-- PLACE_COMMIT: a spill address stands exactly where its table spills here. -/
def placeCommit (s : State) (f : Nat) (b : List Byte) : MOut :=
  placeChecks s f b true (fun ts =>
    let m := measureHere s f b
    let wrong := ts.zipIdx.map (fun (t, i) =>
      (placeSpillAt b i, m.short == 0 && (m.spill.any (fun e => e.1 == t.handle)) == (leAt b (placeSpillAt b i) 8 == 0)))
    checked [rangeBad wrong] (.start m.need [] s))

/-! ### The operations -/

/-- End an operation that writes a result: it waits for the translations of its writes; the result is formed and
written in one step. A refused translation fails it (log entry 25). -/
def writeResult (s : State) (o : Op) (n : Nat) (form : State → List Byte × State) (fin : State → State) : State :=
  match hostWrite (opCtx s o) (placeAddr o.req) (List.replicate n 0) false with
  | .need l => askOp s o l
  | .stop _ _ => finishOp s o .failed 0x12 0x10
  | .ok _ _ =>
    let (bytes, s) := form s
    (match hostWrite (opCtx s o) (placeAddr o.req) bytes false with
     | .ok w _ => fin (doWrites s o.fn w)
     | _ => fin s)

/-- Bytes of the result. -/
def resultSize (ndev ntab : Nat) : Nat := 0x10 + 32 * ndev + 8 * ntab * ndev

/-- A member's answer to PLACE_QUERY, as the planner measures it: DSTAT 1 while it has not answered, and at the end of
100 ms (R245). -/
def measureRemote (s : State) (o : Op) (ts : List Table) (d : Nat) : Option Measure :=
  let mine := ts.filter (fun t => !(t.holds d).isEmpty)
  match lk o.ex d with
  | none => none
  | some x =>
    match x.answers.findSome? (fun m => match m with | .placeAns a => some a | _ => none) with
    | some a =>
      let check (t : Table) : Option (Option W32) :=
        (a.checks.find? (fun e => e.1.toNat == t.handle)).map (·.2)
      if mine.any (fun t => match check t with | some (some _) => false | _ => true) then some ⟨d, 2, 0, 0, []⟩
      else if mine.any (fun t => match check t with | some (some c) => c != t.descCheck | _ => false) then some ⟨d, 3, 0, 0, []⟩
      else
        let ts := ts.filter (fun t => !a.placed.any (fun h => h.toNat == t.handle))
        some (measure ts d a.avail (placeCold o.req) (placeSpill o.req && capOn s o.fn 4))
    | none => if x.why ≠ 0 || o.at_ + 100 * msT ≤ s.clk.aon then some ⟨d, 1, 0, 0, []⟩ else none

/-- The measures of a plan, device by device; none where one is still out. -/
def planMeasures (s : State) (o : Op) : List (Option Measure) :=
  let ts := placeTables s o.fn o.req
  (placeDevs ts).map (fun d => if d = me s then some (measureHere s o.fn o.req) else measureRemote s o ts d)

/-- The queries a plan sends. -/
def planNeeds (s : State) (o : Op) : List Need :=
  let ts := placeTables s o.fn o.req
  ((placeDevs ts).filter (fun d => d != me s)).map (fun d =>
    .msg d d (.placeQuery 0 (placeTarget o.req) ((ts.filter (fun t => !(t.holds d).isEmpty)).map (fun t => BitVec.ofNat 32 t.handle))))

/-- Work on a PLACE_PLAN. A plan that measures alone fits where its devices do; otherwise every short device spills
(R245). -/
def planGo (s : State) (o : Op) : State :=
  let s := askOp s o (planNeeds s o)
  match opOf s o.key with
  | none => s
  | some o =>
    let ms := planMeasures s o
    let o := { o with unitsDone := (ms.filter (·.isSome)).length }
    if ms.any (·.isNone) then setOp s o
    else
      let ts := placeTables s o.fn o.req
      let ms := ms.filterMap id
      writeResult s o (resultSize ms.length ts.length) (placeResult ts ms false) (fun s => finishOp s o .done 0 0)

/-- The places of a store's pages: spilled ones in ascending order at the spill address, the others in pages taken. -/
def layPages (spilled : List Nat) (fn addr : Nat) : List Nat → List Nat → Nat → List PLoc
  | [], _, _ => []
  | lp :: rest, pages, i =>
    if spilled.contains lp then .host fn (addr + 65536 * i) :: layPages spilled fn addr rest pages (i + 1)
    else .dev (pages.headD 0) :: layPages spilled fn addr rest pages.tail i

/-- Make a table PLACED with its pages of the pages taken; what is left of them. -/
def placeTable (s : State) (t : Table) (m : Measure) (fn addr : Nat) (pages : List Nat) : State × List Nat :=
  let hs := t.holds m.dev
  if t.placed || hs.isEmpty then (s, pages)
  else
    let (stores, pages) := hs.foldl (fun (x : List Store × List Nat) (i, rep) =>
      let n := t.storePages i
      let sp := if rep then [] else (m.spill.filter (fun e => e.1 == t.handle)).map (·.2)
      let st : Store := ⟨i, rep, layPages sp fn addr (List.range n) x.2 0⟩
      (x.1 ++ [st], x.2.drop (n - sp.length))) ([], pages)
    let n := if hs.any (fun x => !x.2) then t.ledgerPages else 0
    (setTable s { t with placed := true, stores := stores, ledger := pages.take n, foldCount := 0, used := 0 }, pages.drop n)

/-- Work on a PLACE_COMMIT: measure again, take every page, and place each table; or fail whole. -/
def commitGo (s : State) (o : Op) : State :=
  let ts := placeTables s o.fn o.req
  let n := resultSize 1 ts.length
  let m := measureHere s o.fn o.req
  let taken := if m.short = 0 then
      (ts.filter (fun t => !t.placed)).foldl (fun (x : Option (List Nat × State)) t =>
        let k := tableNeed t m.dev - (m.spill.filter (fun e => e.1 == t.handle)).length
        match x with
        | none => none
        | some (l, s) => (takePages s (fun _ => .object t.owner) k).map (fun (l', s) => (l ++ l', s))) (some ([], s))
    else none
  match taken with
  | none => writeResult s o n (placeResult ts [m] false) (fun s => finishOp s o .failed 0x16 1)
  | some (pages, s') =>
    writeResult s o n (placeResult ts [m] true) (fun s =>
      let s := { s with pages := s'.pages }
      let (s, _) := ts.zipIdx.foldl (fun (x : State × List Nat) (t, i) =>
        placeTable x.1 t m (fnOfPart (placeTarget o.req)) (leAt o.req (placeSpillAt o.req i) 8) x.2) (s, pages)
      finishOp s { o with unitsDone := m.need } .done 0 0)

def execPlacePlan (f : Fn) (s : State) : Host.Outcome State Fault Refusal :=
  .next (runCmd s f.val 0x306 (fun _ => true) false placePlan planGo)
def execPlaceCommit (f : Fn) (s : State) : Host.Outcome State Fault Refusal :=
  .next (runCmd s f.val 0x307 (fun _ => true) false placeCommit commitGo)

/-! ### The exchange with other members (R246) -/

/-- PLACE_QUERY of a planner elsewhere: Onaman answers what is available here, the descriptor checks, and which of the
tables are placed. While the CP sleeps, the query waits and raises demand. -/
def execPlaceQuery (h : MsgHdr) (reqId : W32) (target : Nat) (handles : List W32) (s : State) :
    Host.Outcome State Fault Refusal :=
  .next (if s.pwr.off then s
    else if !cpRuns s then demandOn s 5
    else onMsg s h (.placeQuery reqId target handles) (fun s =>
      let checks := handles.map (fun x => (x, (lk s.tables x.toNat).map Table.descCheck))
      let placed := handles.filter (fun x => match lk s.tables x.toNat with | some t => t.placed | none => false)
      replyMsg s h (.placeAns ⟨reqId, availPages s (min target 32), checks, placed⟩)))

/-- The answer, taken by the planner's exchange. -/
def execPlaceAns (h : MsgHdr) (b : PlaceAns) (s : State) : Host.Outcome State Fault Refusal :=
  .next (takeAnswer h b.reqId (.placeAns b) s)

end Sys2Proof.Machine
end

