-- ==== Sys2Proof/Machine/Dispatch.lean ====
section
/-! DEFINITION. One arm per command of the opcode table, in the table's order: each calls its meaning. -/

namespace Sys2Proof.Machine

def exec (i : Instr) (s : State) : Host.Outcome State Fault Refusal :=
  match i with
  | .strTailWrite f slot v => Sys2Proof.Machine.execStrTailWrite f slot v s
  | .mbxReqSeqWrite f v => Sys2Proof.Machine.execMbxReqSeqWrite f v s
  | .snapCmdWrite f v => Sys2Proof.Machine.execSnapCmdWrite f v s
  | .snapshotCapture f => Sys2Proof.Machine.execSnapshotCapture f s
  | .cfgCommit f e => Sys2Proof.Machine.execCfgCommit f e s
  | .aliasWrite f off v => Sys2Proof.Machine.execAliasWrite f off v s
  | .registerWrite f bar2 off v => Sys2Proof.Machine.execRegisterWrite f bar2 off v s
  | .bufferedWriteApply b => Sys2Proof.Machine.execBufferedWriteApply b s
  | .ringConfigApply strm => Sys2Proof.Machine.execRingConfigApply strm s
  | .barAccessRefused f bar2 write off size => Sys2Proof.Machine.execBarAccessRefused f bar2 write off size s
  | .barAccessSummary f => Sys2Proof.Machine.execBarAccessSummary f s
  | .rlRead f bar2 off => Sys2Proof.Machine.execRlRead f bar2 off s
  | .rlLimit f bar2 off => Sys2Proof.Machine.execRlLimit f bar2 off s
  | .lckReqAcquire f v => Sys2Proof.Machine.execLckReqAcquire f v s
  | .lckReqRelease f v => Sys2Proof.Machine.execLckReqRelease f v s
  | .lckReqWithdraw f v => Sys2Proof.Machine.execLckReqWithdraw f v s
  | .flr f => Sys2Proof.Machine.execFlr f s
  | .hotReset => Sys2Proof.Machine.execHotReset s
  | .vfEnableSet numVfs => Sys2Proof.Machine.execVfEnableSet numVfs s
  | .vfEnableClear => Sys2Proof.Machine.execVfEnableClear s
  | .d3hotEntry f => Sys2Proof.Machine.execD3hotEntry f s
  | .d0Return f => Sys2Proof.Machine.execD0Return f s
  | .atsInvalidate f page => Sys2Proof.Machine.execAtsInvalidate f page s
  | .configRequest f r => Sys2Proof.Machine.execConfigRequest f r s
  | .descriptorFetch strm => Sys2Proof.Machine.execDescriptorFetch strm s
  | .gatherPool strm => Sys2Proof.Machine.execGatherPool strm s
  | .gatherRows strm => Sys2Proof.Machine.execGatherRows strm s
  | .scatterAdd strm => Sys2Proof.Machine.execScatterAdd strm s
  | .foldApply strm => Sys2Proof.Machine.execFoldApply strm s
  | .foldDiscard strm => Sys2Proof.Machine.execFoldDiscard strm s
  | .tokenize strm => Sys2Proof.Machine.execTokenize strm s
  | .detokenize strm => Sys2Proof.Machine.execDetokenize strm s
  | .formeMask strm => Sys2Proof.Machine.execFormeMask strm s
  | .copy strm => Sys2Proof.Machine.execCopy strm s
  | .prefetchHint strm => Sys2Proof.Machine.execPrefetchHint strm s
  | .lockupBarrier strm => Sys2Proof.Machine.execLockupBarrier strm s
  | .lockupAcquire strm => Sys2Proof.Machine.execLockupAcquire strm s
  | .lockupRelease strm => Sys2Proof.Machine.execLockupRelease strm s
  | .completionRecord strm => Sys2Proof.Machine.execCompletionRecord strm s
  | .hostStallTimeout strm => Sys2Proof.Machine.execHostStallTimeout strm s
  | .hostCompletionTimeout strm => Sys2Proof.Machine.execHostCompletionTimeout strm s
  | .readIssue strm => Sys2Proof.Machine.execReadIssue strm s
  | .fillHalfGrant n => Sys2Proof.Machine.execFillHalfGrant n s
  | .halfSwap n => Sys2Proof.Machine.execHalfSwap n s
  | .chasePass n => Sys2Proof.Machine.execChasePass n s
  | .cellGrant => Sys2Proof.Machine.execCellGrant s
  | .enq q words last poison upsets => Sys2Proof.Machine.execEnq q words last poison upsets s
  | .read q upsets => Sys2Proof.Machine.execRead q upsets s
  | .mark q upsets => Sys2Proof.Machine.execMark q upsets s
  | .rewind q upsets => Sys2Proof.Machine.execRewind q upsets s
  | .release q upsets => Sys2Proof.Machine.execRelease q upsets s
  | .releaseMark q upsets => Sys2Proof.Machine.execReleaseMark q upsets s
  | .trim q upsets => Sys2Proof.Machine.execTrim q upsets s
  | .reset q => Sys2Proof.Machine.execReset q s
  | .quoinPeriod => Sys2Proof.Machine.execQuoinPeriod s
  | .arbitrationEpoch => Sys2Proof.Machine.execArbitrationEpoch s
  | .readDataReturn c errs => Sys2Proof.Machine.execReadDataReturn c errs s
  | .ceWriteBack c => Sys2Proof.Machine.execCeWriteBack c s
  | .memCeSummary c => Sys2Proof.Machine.execMemCeSummary c s
  | .wcbWriteBack c => Sys2Proof.Machine.execWcbWriteBack c s
  | .channelDropSummary c => Sys2Proof.Machine.execChannelDropSummary c s
  | .mr4Read c rank temp mult => Sys2Proof.Machine.execMr4Read c rank temp mult s
  | .powerStateEvaluate => Sys2Proof.Machine.execPowerStateEvaluate s
  | .idleEntry d => Sys2Proof.Machine.execIdleEntry d s
  | .dozeEntry => Sys2Proof.Machine.execDozeEntry s
  | .deepEntry => Sys2Proof.Machine.execDeepEntry s
  | .dozeWake syncFail quickFail fullFail => Sys2Proof.Machine.execDozeWake syncFail quickFail fullFail s
  | .deepWake quickFail fullFail => Sys2Proof.Machine.execDeepWake quickFail fullFail s
  | .dcoTrim d measured => Sys2Proof.Machine.execDcoTrim d measured s
  | .avsStep leastMv => Sys2Proof.Machine.execAvsStep leastMv s
  | .avsCommandRetry iface acked => Sys2Proof.Machine.execAvsCommandRetry iface acked s
  | .temperatureSample stackT logicT => Sys2Proof.Machine.execTemperatureSample stackT logicT s
  | .thermalThrottleStep => Sys2Proof.Machine.execThermalThrottleStep s
  | .checkerPass r flips => Sys2Proof.Machine.execCheckerPass r flips s
  | .cpWatchdogReset sram => Sys2Proof.Machine.execCpWatchdogReset sram s
  | .onamanRestart intact => Sys2Proof.Machine.execOnamanRestart intact s
  | .cpRestartStartTimeout => Sys2Proof.Machine.execCpRestartStartTimeout s
  | .fwSessionTimeout => Sys2Proof.Machine.execFwSessionTimeout s
  | .eventPost logs r => Sys2Proof.Machine.execEventPost logs r s
  | .lostSummary => Sys2Proof.Machine.execLostSummary s
  | .norWrite => Sys2Proof.Machine.execNorWrite s
  | .norBucketRefill => Sys2Proof.Machine.execNorBucketRefill s
  | .colophonUpdate => Sys2Proof.Machine.execColophonUpdate s
  | .patrolScrubGroup c errs => Sys2Proof.Machine.execPatrolScrubGroup c errs s
  | .scrubBatch => Sys2Proof.Machine.execScrubBatch s
  | .scrubRateLoop => Sys2Proof.Machine.execScrubRateLoop s
  | .galleyScrub upsets => Sys2Proof.Machine.execGalleyScrub upsets s
  | .calibrationSlot c => Sys2Proof.Machine.execCalibrationSlot c s
  | .retrainPiece c => Sys2Proof.Machine.execRetrainPiece c s
  | .marginSlot c kind left right => Sys2Proof.Machine.execMarginSlot c kind left right s
  | .linkEqStep l knob up uncRise => Sys2Proof.Machine.execLinkEqStep l knob up uncRise s
  | .agingSample pairs => Sys2Proof.Machine.execAgingSample pairs s
  | .telemetryFrame powerMw energyMj => Sys2Proof.Machine.execTelemetryFrame powerMw energyMj s
  | .frameTransmit l => Sys2Proof.Machine.execFrameTransmit l s
  | .frameReceive l f => Sys2Proof.Machine.execFrameReceive l f s
  | .linkFailure l cause => Sys2Proof.Machine.execLinkFailure l cause s
  | .linkRetrainDone l full obs peerAck => Sys2Proof.Machine.execLinkRetrainDone l full obs peerAck s
  | .linkDozeEntry l peerIdle => Sys2Proof.Machine.execLinkDozeEntry l peerIdle s
  | .linkWake l => Sys2Proof.Machine.execLinkWake l s
  | .linkStopNotice l => Sys2Proof.Machine.execLinkStopNotice l s
  | .messageRoute inLink => Sys2Proof.Machine.execMessageRoute inLink s
  | .podSummary => Sys2Proof.Machine.execPodSummary s
  | .unknownMtype h mtype => Sys2Proof.Machine.execUnknownMtype h mtype s
  | .linkCreditTimeout reqId => Sys2Proof.Machine.execLinkCreditTimeout reqId s
  | .transitCreditTimeout l => Sys2Proof.Machine.execTransitCreditTimeout l s
  | .xkeepSend src reqId => Sys2Proof.Machine.execXkeepSend src reqId s
  | .memberLost d => Sys2Proof.Machine.execMemberLost d s
  | .grantReq h reqId handle descCheck => Sys2Proof.Machine.execGrantReq h reqId handle descCheck s
  | .grantAns h reqId ok placed => Sys2Proof.Machine.execGrantAns h reqId ok placed s
  | .gpReq h b => Sys2Proof.Machine.execGpReq h b s
  | .gpChunk h b => Sys2Proof.Machine.execGpChunk h b s
  | .gpValue h b => Sys2Proof.Machine.execGpValue h b s
  | .saClaim h b => Sys2Proof.Machine.execSaClaim h b s
  | .saApply h reqId => Sys2Proof.Machine.execSaApply h reqId s
  | .saUnclaim h reqId => Sys2Proof.Machine.execSaUnclaim h reqId s
  | .saClaimed h reqId => Sys2Proof.Machine.execSaClaimed h reqId s
  | .saWaiting h reqId why => Sys2Proof.Machine.execSaWaiting h reqId why s
  | .saFolded h reqId => Sys2Proof.Machine.execSaFolded h reqId s
  | .saApplied h reqId => Sys2Proof.Machine.execSaApplied h reqId s
  | .saDenied h reqId => Sys2Proof.Machine.execSaDenied h reqId s
  | .saClaimResend reqId => Sys2Proof.Machine.execSaClaimResend reqId s
  | .ledgerWaitTimeout strm => Sys2Proof.Machine.execLedgerWaitTimeout strm s
  | .cpRd h reqId addr len => Sys2Proof.Machine.execCpRd h reqId addr len s
  | .cpData h reqId detail bytes poison => Sys2Proof.Machine.execCpData h reqId detail bytes poison s
  | .cpWr h reqId addr bytes poison => Sys2Proof.Machine.execCpWr h reqId addr bytes poison s
  | .cpWack h reqId detail => Sys2Proof.Machine.execCpWack h reqId detail s
  | .lkAcq h reqId lock stream prio => Sys2Proof.Machine.execLkAcq h reqId lock stream prio s
  | .lkGrant h reqId abandoned => Sys2Proof.Machine.execLkGrant h reqId abandoned s
  | .lkWait h reqId => Sys2Proof.Machine.execLkWait h reqId s
  | .lkRel h reqId lock => Sys2Proof.Machine.execLkRel h reqId lock s
  | .lkRelack h reqId notHeld => Sys2Proof.Machine.execLkRelack h reqId notHeld s
  | .lkRenew h reqIds => Sys2Proof.Machine.execLkRenew h reqIds s
  | .lkRenewed h reqIds => Sys2Proof.Machine.execLkRenewed h reqIds s
  | .lkAbandon h reqId => Sys2Proof.Machine.execLkAbandon h reqId s
  | .lkWithdraw h reqId => Sys2Proof.Machine.execLkWithdraw h reqId s
  | .lkDenied h reqId => Sys2Proof.Machine.execLkDenied h reqId s
  | .lkPrio h reqId prio => Sys2Proof.Machine.execLkPrio h reqId prio s
  | .leaseRenewSend => Sys2Proof.Machine.execLeaseRenewSend s
  | .leaseEndOwner lock => Sys2Proof.Machine.execLeaseEndOwner lock s
  | .leaseEndHolder reqId => Sys2Proof.Machine.execLeaseEndHolder reqId s
  | .abandonedGrantHoldEnd lock => Sys2Proof.Machine.execAbandonedGrantHoldEnd lock s
  | .xkeep h reqId => Sys2Proof.Machine.execXkeep h reqId s
  | .joinHello l h b => Sys2Proof.Machine.execJoinHello l h b s
  | .lostNotice h member => Sys2Proof.Machine.execLostNotice h member s
  | .leaveNotice h => Sys2Proof.Machine.execLeaveNotice h s
  | .rejoin h => Sys2Proof.Machine.execRejoin h s
  | .placeQuery h reqId target handles => Sys2Proof.Machine.execPlaceQuery h reqId target handles s
  | .placeAns h b => Sys2Proof.Machine.execPlaceAns h b s
  | .mgmtRelayReq h cmd params => Sys2Proof.Machine.execMgmtRelayReq h cmd params s
  | .mgmtRelayAns h code data => Sys2Proof.Machine.execMgmtRelayAns h code data s
  | .getInterface f => Sys2Proof.Machine.execGetInterface f s
  | .getCaps f => Sys2Proof.Machine.execGetCaps f s
  | .enableCaps f => Sys2Proof.Machine.execEnableCaps f s
  | .getCommandInfo f => Sys2Proof.Machine.execGetCommandInfo f s
  | .getLimits f => Sys2Proof.Machine.execGetLimits f s
  | .opStatus f => Sys2Proof.Machine.execOpStatus f s
  | .opCancel f => Sys2Proof.Machine.execOpCancel f s
  | .partitionCreate f => Sys2Proof.Machine.execPartitionCreate f s
  | .partitionSetQuota f => Sys2Proof.Machine.execPartitionSetQuota f s
  | .partitionAssignStream f => Sys2Proof.Machine.execPartitionAssignStream f s
  | .partitionReleaseStream f => Sys2Proof.Machine.execPartitionReleaseStream f s
  | .partitionWipe f => Sys2Proof.Machine.execPartitionWipe f s
  | .partitionDestroy f => Sys2Proof.Machine.execPartitionDestroy f s
  | .partitionQuery f => Sys2Proof.Machine.execPartitionQuery f s
  | .tableCreate f => Sys2Proof.Machine.execTableCreate f s
  | .tableLoad f => Sys2Proof.Machine.execTableLoad f s
  | .tableDestroy f => Sys2Proof.Machine.execTableDestroy f s
  | .tableQuery f => Sys2Proof.Machine.execTableQuery f s
  | .tableMapShared f => Sys2Proof.Machine.execTableMapShared f s
  | .tableUnmapShared f => Sys2Proof.Machine.execTableUnmapShared f s
  | .tableRegisterGolden f => Sys2Proof.Machine.execTableRegisterGolden f s
  | .placePlan f => Sys2Proof.Machine.execPlacePlan f s
  | .placeCommit f => Sys2Proof.Machine.execPlaceCommit f s
  | .tableRequantize f => Sys2Proof.Machine.execTableRequantize f s
  | .adapterLoad f => Sys2Proof.Machine.execAdapterLoad f s
  | .adapterBind f => Sys2Proof.Machine.execAdapterBind f s
  | .profileLoad f => Sys2Proof.Machine.execProfileLoad f s
  | .profileUnload f => Sys2Proof.Machine.execProfileUnload f s
  | .grammarLoad f => Sys2Proof.Machine.execGrammarLoad f s
  | .grammarUnload f => Sys2Proof.Machine.execGrammarUnload f s
  | .stopStringsSet f => Sys2Proof.Machine.execStopStringsSet f s
  | .pageRetire f => Sys2Proof.Machine.execPageRetire f s
  | .channelMapOutEvacuate f => Sys2Proof.Machine.execChannelMapOutEvacuate f s
  | .channelMapOutDiscard f => Sys2Proof.Machine.execChannelMapOutDiscard f s
  | .channelMapOutRecord f => Sys2Proof.Machine.execChannelMapOutRecord f s
  | .hellboxRead f => Sys2Proof.Machine.execHellboxRead f s
  | .marginStart f => Sys2Proof.Machine.execMarginStart f s
  | .marginResult f => Sys2Proof.Machine.execMarginResult f s
  | .rowRepair f => Sys2Proof.Machine.execRowRepair f s
  | .setPowerPermit f => Sys2Proof.Machine.execSetPowerPermit f s
  | .setLoopBounds f => Sys2Proof.Machine.execSetLoopBounds f s
  | .getLoopBounds f => Sys2Proof.Machine.execGetLoopBounds f s
  | .podJoin f => Sys2Proof.Machine.execPodJoin f s
  | .podLeave f => Sys2Proof.Machine.execPodLeave f s
  | .linkControlDisable f => Sys2Proof.Machine.execLinkControlDisable f s
  | .linkControlEnable f => Sys2Proof.Machine.execLinkControlEnable f s
  | .linkControlRelease f => Sys2Proof.Machine.execLinkControlRelease f s
  | .linkControlWidth2 f => Sys2Proof.Machine.execLinkControlWidth2 f s
  | .linkControlWidth4 f => Sys2Proof.Machine.execLinkControlWidth4 f s
  | .podQuery f => Sys2Proof.Machine.execPodQuery f s
  | .fwQuery f => Sys2Proof.Machine.execFwQuery f s
  | .fwUpdateBegin f => Sys2Proof.Machine.execFwUpdateBegin f s
  | .fwUpdateData f => Sys2Proof.Machine.execFwUpdateData f s
  | .fwUpdateEnd f => Sys2Proof.Machine.execFwUpdateEnd f s
  | .fwUpdateCancel f => Sys2Proof.Machine.execFwUpdateCancel f s
  | .fwActivate f => Sys2Proof.Machine.execFwActivate f s
  | .cpRestart f => Sys2Proof.Machine.execCpRestart f s
  | .fwCommitSvn f => Sys2Proof.Machine.execFwCommitSvn f s
  | .fwRevokeKey f => Sys2Proof.Machine.execFwRevokeKey f s
  | .colophonRead f => Sys2Proof.Machine.execColophonRead f s
  | .getBound path device word => Sys2Proof.Machine.execGetBound path device word s
  | .setBound path device word value => Sys2Proof.Machine.execSetBound path device word value s
  | .telRead path device => Sys2Proof.Machine.execTelRead path device s
  | .evtNorRead path device boot firstSeq count => Sys2Proof.Machine.execEvtNorRead path device boot firstSeq count s
  | .mgmtColophonRead path device => Sys2Proof.Machine.execMgmtColophonRead path device s
  | .setEndpointId path op eid => Sys2Proof.Machine.execSetEndpointId path op eid s
  | .getEndpointId path => Sys2Proof.Machine.execGetEndpointId path s
  | .getEndpointUuid path => Sys2Proof.Machine.execGetEndpointUuid path s
  | .getMctpVersionSupport path type => Sys2Proof.Machine.execGetMctpVersionSupport path type s
  | .getMessageTypeSupport path => Sys2Proof.Machine.execGetMessageTypeSupport path s
  | .getVendorDefinedMsgSupport path selector => Sys2Proof.Machine.execGetVendorDefinedMsgSupport path selector s
  | .getTid path => Sys2Proof.Machine.execGetTid path s
  | .getPldmVersion path type => Sys2Proof.Machine.execGetPldmVersion path type s
  | .getPldmTypes path => Sys2Proof.Machine.execGetPldmTypes path s
  | .getPldmCommands path type => Sys2Proof.Machine.execGetPldmCommands path type s
  | .getPdrRepositoryInfo path => Sys2Proof.Machine.execGetPdrRepositoryInfo path s
  | .getPdr path record => Sys2Proof.Machine.execGetPdr path record s
  | .getSensorReading path sensor => Sys2Proof.Machine.execGetSensorReading path sensor s
  | .getStateSensorReadings path sensor => Sys2Proof.Machine.execGetStateSensorReadings path sensor s
  | .pollForPlatformEventMessage path => Sys2Proof.Machine.execPollForPlatformEventMessage path s
  | .queryDeviceIdentifiers path => Sys2Proof.Machine.execQueryDeviceIdentifiers path s
  | .getFirmwareParameters path => Sys2Proof.Machine.execGetFirmwareParameters path s
  | .requestUpdate path => Sys2Proof.Machine.execRequestUpdate path s
  | .passComponentTable path => Sys2Proof.Machine.execPassComponentTable path s
  | .updateComponent path size => Sys2Proof.Machine.execUpdateComponent path size s
  | .requestFirmwareData offset data => Sys2Proof.Machine.execRequestFirmwareData offset data s
  | .transferComplete ok => Sys2Proof.Machine.execTransferComplete ok s
  | .verifyComplete => Sys2Proof.Machine.execVerifyComplete s
  | .applyComplete => Sys2Proof.Machine.execApplyComplete s
  | .activateFirmware path => Sys2Proof.Machine.execActivateFirmware path s
  | .getStatus path => Sys2Proof.Machine.execGetStatus path s
  | .cancelUpdateComponent path => Sys2Proof.Machine.execCancelUpdateComponent path s
  | .cancelUpdate path => Sys2Proof.Machine.execCancelUpdate path s
  | .pwrgdAssert podId => Sys2Proof.Machine.execPwrgdAssert podId s
  | .pwrgdDeassert => Sys2Proof.Machine.execPwrgdDeassert s
  | .powerUpSequence obs => Sys2Proof.Machine.execPowerUpSequence obs s
  | .initSweep pages => Sys2Proof.Machine.execInitSweep pages s
  | .linkBootTraining obs => Sys2Proof.Machine.execLinkBootTraining obs s
  | .pcieReady => Sys2Proof.Machine.execPcieReady s
  | .perstNAssert => Sys2Proof.Machine.execPerstNAssert s
  | .perstNDeassert => Sys2Proof.Machine.execPerstNDeassert s
  | .forceIdleNAssert => Sys2Proof.Machine.execForceIdleNAssert s
  | .forceIdleNDeassert => Sys2Proof.Machine.execForceIdleNDeassert s
  | .globalStopNAssert => Sys2Proof.Machine.execGlobalStopNAssert s
  | .globalStopNDeassert => Sys2Proof.Machine.execGlobalStopNDeassert s
  | .pinStuck p => Sys2Proof.Machine.execPinStuck p s
  | .pinStuckClear p => Sys2Proof.Machine.execPinStuckClear p s
  | .pinRate p => Sys2Proof.Machine.execPinRate p s
  | .pinRateWindowEnd p => Sys2Proof.Machine.execPinRateWindowEnd p s
  | .idcode => Sys2Proof.Machine.execIdcode s
  | .samplePreload => Sys2Proof.Machine.execSamplePreload s
  | .extest => Sys2Proof.Machine.execExtest s
  | .clamp => Sys2Proof.Machine.execClamp s
  | .highz => Sys2Proof.Machine.execHighz s
  | .runbist failed => Sys2Proof.Machine.execRunbist failed s
  | .extestPulse => Sys2Proof.Machine.execExtestPulse s
  | .extestTrain => Sys2Proof.Machine.execExtestTrain s
  | .bypass => Sys2Proof.Machine.execBypass s
  | .hostReadCompletion r addr st => Sys2Proof.Machine.execHostReadCompletion r addr st s
  | .atsTranslationCompletion f page granted => Sys2Proof.Machine.execAtsTranslationCompletion f page granted s
  | .amcFault => Sys2Proof.Machine.execAmcFault s
  | .amcRestart => Sys2Proof.Machine.execAmcRestart s
  | .pageZeroed page => Sys2Proof.Machine.execPageZeroed page s
  | .pcieLinkUp speed width reversed => Sys2Proof.Machine.execPcieLinkUp speed width reversed s
  | .testLogicReset => Sys2Proof.Machine.execTestLogicReset s
  | .perBankRefresh c rank => Sys2Proof.Machine.execPerBankRefresh c rank s
  | .linkPeerDetect l => Sys2Proof.Machine.execLinkPeerDetect l s

end Sys2Proof.Machine
end

