-- ==== Sys2Proof/Machine/Tick.lean ====
section
/-! DEFINITION. What one AON period of 40 ns does whatever is commanded (log entry 28): time, the NOR accumulator, the times in
each power state, the stall clocks of streams and cores (R304, R305), reads that were stalled, management relays that
time out, and the last step of the boot. -/

namespace Sys2Proof.Machine

/-- Whether a queue of the stream waits for a cell (R258). -/
def cellWaits (s : State) (i : Nat) : Bool :=
  s.gal.waiting.any (fun r => (queueStreams s r.q).contains i)

/-- A request of the task waits for its turn or for Isxia credit. -/
def creditWaits (s : State) (t : TaskRun) : Bool :=
  t.ex.any (fun e => e.2.why == 0 &&
    (s.pod.outbox.any (fun m => m.hdr.dst.val == e.2.dst && bodyReq m.body == e.2.reqId) ||
      s.pod.links.any (fun l => l.2.queue.any (fun m =>
        !m.transit && m.dst == e.2.dst && leAt m.bytes 16 4 == e.2.reqId))))

/-- The stream's next read, where DEPTH and its landing place admit it. -/
def readyRead (s : State) (i : Nat) (t : TaskRun) : Option Acc :=
  let l := planReads s i t
  if strEff s i 0x30 % 1024 ≤ outstanding s i || landRoom s i t l ≤ t.issued then none else l[t.issued - t.base]?

/-- A sort-path read waits for an entry of its channel (R286). -/
def sortWaits (s : State) (a : Acc) : Bool :=
  !a.slug && decide (a.pa < spillBase) && (match slugLoc s (a.pa / 65536) (a.pa / 256 % 256) with
    | .at_ c _ => decide (12 ≤ (lkD s.mem.reorder c []).length)
    | _ => false)

/-- The task waits for a hardware lock, or for the fold or the requantization that holds its FOLD at admission. -/
def lockWaits (s : State) (t : TaskRun) : Bool :=
  (t.type == 9 && t.waiting && luOp t == 1) || (t.type == 4 && t.progress == 0 && (match t.table with
    | some h => (match lk s.tables h with | some tb => tb.gateClosed && tb.fold.isSome | none => false)
    | none => false))

/-- The cause under which a stream's clock counts now, by the ranks of Table 10.1; none where its engines make progress, or wait
for a wake. -/
def stallCause (s : State) (i : Nat) : Option Nat :=
  let x := stream s i
  match x.task with
  | none =>
    match x.fetched with
    | f :: _ => if x.slot.isSome && f.bad.isNone && !x.lastBad && contextBusy s i f.bytes then some 6 else none
    | [] => none
  | some t =>
    if t.done.isSome || !engineOk s t.type then none
    else if lockWaits s t then some 6
    else if t.type == 9 && t.waiting then some 5
    else if cellWaits s i then some 3
    else if creditWaits s t then some 4
    else
      let a := readyRead s i t
      if a.isSome && tokens s i == 0 then some 1
      else if (match a with | some a => sortWaits s a | none => false) then some 7
      else if !t.asked.isEmpty || (t.type == 8 && t.u32 8 % 4 == 3) then some 2
      else if outstanding s i != 0 || t.ex.any (fun e => e.2.why == 0) then some 0
      else none

/-- One AON period of stall clocks of one stream: 40 HOSTIF clocks, in units of 64 with the remainder carried. -/
def countStream (s : State) (i : Nat) : State :=
  match stallCause s i with
  | none => s
  | some c =>
    let n := lkD s.stallRem (i * 8 + c) 0 + 40
    cntAdd { s with stallRem := setD s.stallRem (i * 8 + c) (n % 64) 0 } (rk (streamFn s i) (0x3800 + 0x20 * streamSlot s i + 4 * c)) (n / 64)

/-- One AON period of a core's clocks: stalled under its segment's cause, or in progress. -/
def countCore (s : State) (n : Nat) : State :=
  match (core s n).work.orElse (fun _ => (core s n).fill) with
  | none => s
  | some g =>
    match stallCause s g.strm with
    | some c => cntAdd s (rk2 (0x61000 + 0x40 * n + 8 * c)) (s.pwr.coreClk / 25)
    | none => cntAdd s (rk2 (0x61800 + 8 * n)) (s.pwr.coreClk / 25)

/-- The clocks of the period: time, the NOR accumulator, and the times in states. -/
def tickClock (s : State) : State :=
  { s with
    clk := { s.clk with aon := s.clk.aon + 1, timer := if s.pwr.globalStop then s.clk.timer else s.clk.timer + 1 }
    evt := { s.evt with acc := s.evt.acc + mgmt s 21 }
    pwr := { s.pwr with
      inState := updD s.pwr.inState (devState s) 0 (· + 1)
      ran := (List.range 6).foldl (fun t d => if dom s d = 0 then updD t d 0 (· + 1) else t) s.pwr.ran } }

/-- One AON period; in OFF nothing moves. -/
def tick (s : State) : State :=
  if s.pwr.off then s
  else
    let s := tickClock s
    let s := if runs s 3 then (s.streams.map (·.1)).foldl countStream s else s
    let s := if runs s 0 then (s.cores.map (·.1)).foldl countCore s else s
    let s := serveStalled s
    let s := if amcRuns s then relayTimeouts s else s
    bootSettle s

end Sys2Proof.Machine
end

