-- ==== Sys2Proof/WellFormed.lean ====
section
/-! DEFINITION. Which terms of `Instr` a Cerrel can be given: an operand that is a list has a length, and a number a range,
that the rule of its row allows. The types of the operands bound the others. -/

namespace Sys2Proof

/-- A symbol in error lies in the slug, and at least one of its bits is wrong (R200). -/
def symWf (e : SymErr) : Bool := decide (e.burst < 4) && decide (e.sym < 68) && e.err != 0

/-- An upset names a bit that the galley has (R266, R269, R272). -/
def upsetWf : GalUpset → Bool
  | .word c w b => decide (c < 65536) && decide (w < 32) && decide (b < 72)
  | .entry c b => decide (c < 65536) && decide (b < 55)
  | .pointer q k b _ => decide (q < 4096) && decide (k < 8) && decide (b < 32)
  | .freeList k b _ => decide (k < 3) && decide (b < 17)

/-- A cell holds 1 to 32 words (R254). -/
def wordsWf (l : List W64) : Bool := 1 ≤ l.length && decide (l.length ≤ 32)

/-- A record has a severity of Table 18.6, a partition or 63, and a stream or 63 (Table 18.7). -/
def recWf (r : EvRec) : Bool := decide (r.sev < 8) && decide (r.part < 64) && decide (r.stream < 64)

/-- A frame carries a control slot of 32 bytes and 19 flits of 32 bytes (13.2). -/
def frameWf (f : Frame) : Bool := f.flits.length == 19 && f.control.length == 32 && f.flits.all (fun x => x.length == 32)

/-- A list of pooled rows has a weight for each row, or none (Table 11.4). -/
def gpReqWf (b : GpReq) : Bool := decide (b.mode < 16) && (b.wts.isEmpty || b.wts.length == b.rows.length)

/-- A partial chunk holds at most 1,024 values (Table 11.5). -/
def gpChunkWf (b : GpChunk) : Bool := decide (b.vals.length ≤ 1024)

/-- A claim has a weight for each row, or none (Table 12.4). -/
def saClaimWf (b : SaClaim) : Bool := decide (b.mode < 16) && (b.wts.isEmpty || b.wts.length == b.rows.length)

/-- A piece of a COPY is 1 to 4,096 bytes. -/
def pieceWf (n : Nat) : Bool := 1 ≤ n && decide (n ≤ 4096)

/-- One poison mark for each 64-byte sector that the bytes touch, at most one for each byte. -/
def marksWf (b : List Byte) (m : List Bool) : Bool := decide (m.length ≤ b.length)

/-- A PCIe completion brings 1 to 4,096 bytes, or an error (R87). -/
def statusWf : HostStatus → Bool
  | .data b => pieceWf b.length
  | .ur => true
  | .ca => true
  | .poisoned => true

/-- The terms that a Cerrel can be given. -/
def Instr.wf : Instr → Bool
  | .barAccessRefused _ _ _ _ size => 1 ≤ size && decide (size ≤ 8)
  | .enq _ words _ _ upsets => wordsWf words && upsets.all upsetWf
  | .read _ upsets => upsets.all upsetWf
  | .mark _ upsets => upsets.all upsetWf
  | .rewind _ upsets => upsets.all upsetWf
  | .release _ upsets => upsets.all upsetWf
  | .releaseMark _ upsets => upsets.all upsetWf
  | .trim _ upsets => upsets.all upsetWf
  | .readDataReturn _ errs => errs.all symWf
  | .temperatureSample stackT logicT => stackT.length == 8 && logicT.length != 0
  | .checkerPass _ flips => flips.all (fun e => decide (e.1 < 2 ^ 25))
  | .eventPost logs r => logs.length != 0 && recWf r
  | .patrolScrubGroup _ errs => errs.all (fun e => decide (e.1 < 64) && symWf e.2)
  | .galleyScrub upsets => upsets.all upsetWf
  | .marginSlot _ _ left right => decide (left < 256) && decide (right < 256)
  | .agingSample pairs => pairs.length == 16
  | .frameReceive _ f => frameWf f
  | .gpReq _ b => gpReqWf b
  | .gpChunk _ b => gpChunkWf b
  | .gpValue _ b => decide (b.kind < 8) && decide (b.bytes.length ≤ 4096)
  | .saClaim _ b => saClaimWf b
  | .cpRd _ _ addr len => decide (addr < 2 ^ 63) && pieceWf len
  | .cpData _ _ _ bytes poison => marksWf bytes poison
  | .cpWr _ _ addr bytes poison => decide (addr < 2 ^ 63) && pieceWf bytes.length && marksWf bytes poison
  | .lkRenew _ reqIds => reqIds.length != 0
  | .joinHello _ _ b => 1 ≤ b.nx && 1 ≤ b.ny && 1 ≤ b.nz && decide (b.nx * b.ny * b.nz ≤ 64)
  | .placeQuery _ _ target _ => decide (target < 256)
  | .requestFirmwareData _ data => data.length != 0
  | .initSweep pages => 1 ≤ pages
  | .linkBootTraining obs => obs.length == 16
  | .hostReadCompletion _ _ st => statusWf st
  | .pageZeroed page => decide (page < 5898240)
  | .pcieLinkUp speed width _ => 1 ≤ speed.toNat && decide (speed.toNat ≤ 5) && [1, 2, 4, 8, 16].contains width.toNat
  | .strTailWrite _ _ _ | .mbxReqSeqWrite _ _ | .snapCmdWrite _ _ | .snapshotCapture _ | .cfgCommit _ _
  | .aliasWrite _ _ _ | .registerWrite _ _ _ _ | .bufferedWriteApply _ | .ringConfigApply _ | .barAccessSummary _
  | .rlRead _ _ _ | .rlLimit _ _ _ | .lckReqAcquire _ _ | .lckReqRelease _ _ | .lckReqWithdraw _ _ | .flr _
  | .hotReset | .vfEnableSet _ | .vfEnableClear | .d3hotEntry _ | .d0Return _ | .atsInvalidate _ _
  | .configRequest _ _ | .descriptorFetch _ | .gatherPool _ | .gatherRows _ | .scatterAdd _ | .foldApply _
  | .foldDiscard _ | .tokenize _ | .detokenize _ | .formeMask _ | .copy _ | .prefetchHint _ | .lockupBarrier _
  | .lockupAcquire _ | .lockupRelease _ | .completionRecord _ | .hostStallTimeout _ | .hostCompletionTimeout _
  | .readIssue _ | .fillHalfGrant _ | .halfSwap _ | .chasePass _ | .cellGrant | .reset _ | .quoinPeriod
  | .arbitrationEpoch | .ceWriteBack _ | .memCeSummary _ | .wcbWriteBack _ | .channelDropSummary _ | .mr4Read _ _ _ _
  | .powerStateEvaluate | .idleEntry _ | .dozeEntry | .deepEntry | .dozeWake _ _ _ | .deepWake _ _ | .dcoTrim _ _
  | .avsStep _ | .avsCommandRetry _ _ | .thermalThrottleStep | .cpWatchdogReset _ | .onamanRestart _
  | .cpRestartStartTimeout | .fwSessionTimeout | .lostSummary | .norWrite | .norBucketRefill | .colophonUpdate
  | .scrubBatch | .scrubRateLoop | .calibrationSlot _ | .retrainPiece _ | .linkEqStep _ _ _ _ | .telemetryFrame _ _
  | .frameTransmit _ | .linkFailure _ _ | .linkRetrainDone _ _ _ _ | .linkDozeEntry _ _ | .linkWake _
  | .linkStopNotice _ | .messageRoute _ | .podSummary | .unknownMtype _ _ | .linkCreditTimeout _
  | .transitCreditTimeout _ | .xkeepSend _ _ | .memberLost _ | .grantReq _ _ _ _ | .grantAns _ _ _ _ | .saApply _ _
  | .saUnclaim _ _ | .saClaimed _ _ | .saWaiting _ _ _ | .saFolded _ _ | .saApplied _ _ | .saDenied _ _
  | .saClaimResend _ | .ledgerWaitTimeout _ | .cpWack _ _ _ | .lkAcq _ _ _ _ _ | .lkGrant _ _ _ | .lkWait _ _
  | .lkRel _ _ _ | .lkRelack _ _ _ | .lkRenewed _ _ | .lkAbandon _ _ | .lkWithdraw _ _ | .lkDenied _ _
  | .lkPrio _ _ _ | .leaseRenewSend | .leaseEndOwner _ | .leaseEndHolder _ | .abandonedGrantHoldEnd _ | .xkeep _ _
  | .lostNotice _ _ | .leaveNotice _ | .rejoin _ | .placeAns _ _ | .mgmtRelayReq _ _ _ | .mgmtRelayAns _ _ _
  | .getInterface _ | .getCaps _ | .enableCaps _ | .getCommandInfo _ | .getLimits _ | .opStatus _ | .opCancel _
  | .partitionCreate _ | .partitionSetQuota _ | .partitionAssignStream _ | .partitionReleaseStream _
  | .partitionWipe _ | .partitionDestroy _ | .partitionQuery _ | .tableCreate _ | .tableLoad _ | .tableDestroy _
  | .tableQuery _ | .tableMapShared _ | .tableUnmapShared _ | .tableRegisterGolden _ | .placePlan _ | .placeCommit _
  | .tableRequantize _ | .adapterLoad _ | .adapterBind _ | .profileLoad _ | .profileUnload _ | .grammarLoad _
  | .grammarUnload _ | .stopStringsSet _ | .pageRetire _ | .channelMapOutEvacuate _ | .channelMapOutDiscard _
  | .channelMapOutRecord _ | .hellboxRead _ | .marginStart _ | .marginResult _ | .rowRepair _ | .setPowerPermit _
  | .setLoopBounds _ | .getLoopBounds _ | .podJoin _ | .podLeave _ | .linkControlDisable _ | .linkControlEnable _
  | .linkControlRelease _ | .linkControlWidth2 _ | .linkControlWidth4 _ | .podQuery _ | .fwQuery _ | .fwUpdateBegin _
  | .fwUpdateData _ | .fwUpdateEnd _ | .fwUpdateCancel _ | .fwActivate _ | .cpRestart _ | .fwCommitSvn _
  | .fwRevokeKey _ | .colophonRead _ | .getBound _ _ _ | .setBound _ _ _ _ | .telRead _ _ | .evtNorRead _ _ _ _ _
  | .mgmtColophonRead _ _ | .setEndpointId _ _ _ | .getEndpointId _ | .getEndpointUuid _ | .getMctpVersionSupport _ _
  | .getMessageTypeSupport _ | .getVendorDefinedMsgSupport _ _ | .getTid _ | .getPldmVersion _ _ | .getPldmTypes _
  | .getPldmCommands _ _ | .getPdrRepositoryInfo _ | .getPdr _ _ | .getSensorReading _ _
  | .getStateSensorReadings _ _ | .pollForPlatformEventMessage _ | .queryDeviceIdentifiers _
  | .getFirmwareParameters _ | .requestUpdate _ | .passComponentTable _ | .updateComponent _ _ | .transferComplete _
  | .verifyComplete | .applyComplete | .activateFirmware _ | .getStatus _ | .cancelUpdateComponent _
  | .cancelUpdate _ | .pwrgdAssert _ | .pwrgdDeassert | .powerUpSequence _ | .pcieReady | .perstNAssert
  | .perstNDeassert | .forceIdleNAssert | .forceIdleNDeassert | .globalStopNAssert | .globalStopNDeassert
  | .pinStuck _ | .pinStuckClear _ | .pinRate _ | .pinRateWindowEnd _ | .idcode | .samplePreload | .extest | .clamp
  | .highz | .runbist _ | .extestPulse | .extestTrain | .bypass | .atsTranslationCompletion _ _ _ | .amcFault
  | .amcRestart | .testLogicReset | .perBankRefresh _ _ | .linkPeerDetect _ => true

end Sys2Proof
end

