-- ==== Sys2Proof/Safety.lean ====
section
/-! DEFINITION. The vocabulary of the statements: when a row's command is served, which states are sound, and what a
record, a record of a task or a mailbox answer says. -/

namespace Sys2Proof.Machine

/-- A host access to a function's BARs is served by a booted device. -/
def Served (s : State) (f : Nat) : Prop := barServed s f = true ∧ s.fw.haltCause = 0

/-- The state with one record more in a log: the event log alone differs. -/
def Recorded (s t : State) (log : Nat) (r : EvRec) : Prop := t = { s with evt := (postOne s log r).evt }

/-- The canonical form of a memory of bytes whose unlisted addresses read zero. -/
def Memory.wf (t : Tab Byte) : Bool := Tab.wf 0 t

/-- Every read of memory goes through one byte: a raw byte by its key (R198, R199). -/
def rawByte (s : State) (k : Nat) : Byte := lkD s.mem.cells k 0

/-- The task of a stream has ended with a record: it asks for nothing more, and its record waits to be written. -/
def Ended (t : State) (i : Nat) (r : Rec) : Prop :=
  ∃ x, (stream t i).task = some x ∧ x.done = some r ∧ x.asked = [] ∧ x.waiting = false

/-- The host writes among a task's writes, for a function (R83). -/
def hostWritesOf (f : Nat) (ws : List OutW) : List HostWrite :=
  ws.filterMap (fun w => match w with | .host a b => some ⟨f, a, b⟩ | .dev .. => none)

/-- The tokens at hand admit every read that a walk makes and that is not yet issued. -/
def ReadsAdmitted (s : State) (i : Nat) (t : TaskRun) (tr : List Acc) : Prop :=
  (readsOf tr).length - (t.issued - t.base) ≤ tokens s i

/-- A task and the state once every read of its walks is issued, and recorded where the task does not record its own. -/
def readied (s : State) (i : Nat) (t : TaskRun) (note : Bool) (tr : List Acc) : TaskRun × State :=
  let r := chargeReads s i t tr
  ({ r.2.1 with returned := List.range (readsOf tr).length },
    if note then noteTrace r.2.2 .task r.2.1.returned tr else r.2.2)

/-- A queue whose operations can run in a state: its list holds its eight values in both copies, and the copies the
operation reads agree where the queue is guarded (Table 9.2, R270). -/
def QueueReady (s : State) (q : Nat) (x : GQueue) (codes : List Nat) : Prop :=
  runs s 0 = true ∧ gq s q = some x ∧ x.prim.length = 8 ∧ x.shad.length = 8 ∧
    (guarded s q = true → copyFault x codes = none)

/-- A function's request is the one that Onaman runs next (R107, R109, R114). -/
def Asks (s : State) (f op : Nat) (r : MbxReq) : Prop :=
  cpRuns s = true ∧ (mbxOf s f).latched = some r ∧ reqOp r.bytes = op ∧ begun s f r = false ∧ myTurn s f r = true

/-- The same, where the request passes the checks that every command shares; b are the bytes of it that count. -/
def Ready (s : State) (f op : Nat) (b : List Byte) : Prop :=
  ∃ r, Asks s f op r ∧ sharedCheck s f r = none ∧ reqBytes r = b ∧ reqOp b = op

/-- The bytes of a response: OPCODE, STATUS, LENGTH, DETAIL, SEQ, the word of the operation, the results (Table 4.3). -/
def response (r : MbxReq) (st detail id : Nat) (res : List Byte) : List Byte :=
  leBytes 2 (reqOp r.bytes) ++ leBytes 2 st ++ leBytes 2 (16 + res.length) ++ leBytes 2 detail ++
  leBytes 4 r.seq.toNat ++ leBytes 4 id ++ res

/-- A function's request is answered (R104): the response stands in the area, MBX_RSP_SEQ is the request's, and
nothing else differs. -/
def Replied (s t : State) (f st detail id : Nat) (res : List Byte) : Prop :=
  ∃ r m, (mbxOf s f).latched = some r ∧ m = mbxOf s f ∧
    mbxOf t f = { m with latched := none, rspSeq := r.seq, rspArea := (response r st detail id res).zipIdx.map (fun e => (e.2, e.1)) } ∧
    (∀ g, g ≠ f → mbxOf t g = mbxOf s g) ∧ t = { s with mbx := t.mbx }

/-- A long operation starts (R110): its record is RUNNING under an ID that the function does not hold, and MS_STARTED
names it. -/
def Started (s t : State) (f op total : Nat) (b : List Byte) (acc : List Nat) (res : List Byte) (o : Op) : Prop :=
  o.fn = f ∧ o.opcode = op ∧ o.key = s.opNext ∧ o.st = .running ∧ o.unitsDone = 0 ∧ o.unitsTotal = total ∧ o.req = b ∧ o.acc = acc ∧
  o.at_ = s.clk.aon ∧ o.id ≠ 0 ∧ (∀ x ∈ s.ops, x.fn = f → x.id ≠ o.id) ∧ ∃ u, u.ops = s.ops ++ [o] ∧
  u = { s with ops := u.ops, opNext := s.opNext + 1, freeCtr := s.freeCtr + 1 } ∧ Replied u t f 1 0 o.id res

/-- Onaman carries one operation of an opcode on: no request of a function waits, and it is the function's only
RUNNING one of that opcode (R110). -/
def Works (s : State) (f op : Nat) (o : Op) : Prop :=
  cpRuns s = true ∧ (mbxOf s f).latched = none ∧ (mbxOf s f).orphan = none ∧ opOf s o.key = some o ∧ o.fn = f ∧
    o.opcode = op ∧ o.st = .running ∧ s.ops.filter (fun x => x.fn == f && x.opcode == op && x.st == .running) = [o]

/-- The mailbox command rows: the function, the opcode, and which requests of the opcode are the row's. -/
def mbxRow : Instr → Option (Nat × Nat × (List Byte → Bool))
  | .getInterface f => some (f.val, 0x1, fun _ => true)
  | .getCaps f => some (f.val, 0x2, fun _ => true)
  | .enableCaps f => some (f.val, 0x3, fun _ => true)
  | .getCommandInfo f => some (f.val, 0x4, fun _ => true)
  | .getLimits f => some (f.val, 0x5, fun _ => true)
  | .opStatus f => some (f.val, 0x100, fun _ => true)
  | .opCancel f => some (f.val, 0x101, fun _ => true)
  | .partitionCreate f => some (f.val, 0x200, fun _ => true)
  | .partitionSetQuota f => some (f.val, 0x201, fun _ => true)
  | .partitionAssignStream f => some (f.val, 0x202, fun _ => true)
  | .partitionReleaseStream f => some (f.val, 0x203, fun _ => true)
  | .partitionWipe f => some (f.val, 0x204, fun _ => true)
  | .partitionDestroy f => some (f.val, 0x205, fun _ => true)
  | .partitionQuery f => some (f.val, 0x206, fun _ => true)
  | .tableCreate f => some (f.val, 0x300, fun _ => true)
  | .tableLoad f => some (f.val, 0x301, fun _ => true)
  | .tableDestroy f => some (f.val, 0x302, fun _ => true)
  | .tableQuery f => some (f.val, 0x303, fun _ => true)
  | .tableMapShared f => some (f.val, 0x304, fun b => bitOf (leAt b 0x0C 4) 8)
  | .tableUnmapShared f => some (f.val, 0x304, fun b => !bitOf (leAt b 0x0C 4) 8)
  | .tableRegisterGolden f => some (f.val, 0x305, fun _ => true)
  | .placePlan f => some (f.val, 0x306, fun _ => true)
  | .placeCommit f => some (f.val, 0x307, fun _ => true)
  | .tableRequantize f => some (f.val, 0x308, fun _ => true)
  | .adapterLoad f => some (f.val, 0x310, fun _ => true)
  | .adapterBind f => some (f.val, 0x311, fun _ => true)
  | .profileLoad f => some (f.val, 0x500, fun _ => true)
  | .profileUnload f => some (f.val, 0x501, fun _ => true)
  | .grammarLoad f => some (f.val, 0x502, fun _ => true)
  | .grammarUnload f => some (f.val, 0x503, fun _ => true)
  | .stopStringsSet f => some (f.val, 0x504, fun _ => true)
  | .pageRetire f => some (f.val, 0x600, fun _ => true)
  | .channelMapOutEvacuate f => some (f.val, 0x601, fun b => leAt b 9 1 % 4 == 0)
  | .channelMapOutDiscard f => some (f.val, 0x601, fun b => leAt b 9 1 % 4 == 1)
  | .channelMapOutRecord f => some (f.val, 0x601, fun b => bitOf (leAt b 9 1) 1)
  | .hellboxRead f => some (f.val, 0x602, fun _ => true)
  | .marginStart f => some (f.val, 0x603, fun _ => true)
  | .marginResult f => some (f.val, 0x604, fun _ => true)
  | .rowRepair f => some (f.val, 0x605, fun _ => true)
  | .setPowerPermit f => some (f.val, 0x700, fun _ => true)
  | .setLoopBounds f => some (f.val, 0x701, fun _ => true)
  | .getLoopBounds f => some (f.val, 0x702, fun _ => true)
  | .podJoin f => some (f.val, 0x800, fun _ => true)
  | .podLeave f => some (f.val, 0x801, fun _ => true)
  | .linkControlDisable f => some (f.val, 0x802, fun b => leAt b 9 1 % 16 == 0 || decide (4 < leAt b 9 1 % 16))
  | .linkControlEnable f => some (f.val, 0x802, fun b => leAt b 9 1 % 16 == 1)
  | .linkControlRelease f => some (f.val, 0x802, fun b => leAt b 9 1 % 16 == 2)
  | .linkControlWidth2 f => some (f.val, 0x802, fun b => leAt b 9 1 % 16 == 3)
  | .linkControlWidth4 f => some (f.val, 0x802, fun b => leAt b 9 1 % 16 == 4)
  | .podQuery f => some (f.val, 0x803, fun _ => true)
  | .fwQuery f => some (f.val, 0x900, fun _ => true)
  | .fwUpdateBegin f => some (f.val, 0x901, fun _ => true)
  | .fwUpdateData f => some (f.val, 0x902, fun _ => true)
  | .fwUpdateEnd f => some (f.val, 0x903, fun _ => true)
  | .fwUpdateCancel f => some (f.val, 0x904, fun _ => true)
  | .fwActivate f => some (f.val, 0x905, fun _ => true)
  | .cpRestart f => some (f.val, 0x906, fun _ => true)
  | .fwCommitSvn f => some (f.val, 0x907, fun _ => true)
  | .fwRevokeKey f => some (f.val, 0x908, fun _ => true)
  | .colophonRead f => some (f.val, 0xA00, fun _ => true)
  | _ => none

end Sys2Proof.Machine
end

