-- ==== Sys2Proof/Certificates/Slice0/Obligations.lean ====
section
/-! DEFINITION. The statements for the provers, from the numbered rules of spec/. Each is a conjunction of clauses, one for each
row or case it covers; where a row changes only parts of the state, the clause says so by giving every other part from
the state before. -/

open Sys2Proof Sys2Proof.Machine

/-- For every command c and state s, a step of s with c at the front of its queue is the effect of c on s with the queue's rest, and on an empty queue no command runs: without supply nothing changes, and with supply one 40 ns period of the AON clock passes. -/
def Obligations.StepTakesTheFrontCommand : Prop :=
  (∀ (c : Instr) (rest : List Instr) (s : State),
    step { s with pending := c :: rest } = exec c { s with pending := rest }) ∧
  (∀ s : State, s.pending = [] → s.pwr.off = true → step s = .next s) ∧
  (∀ s : State, s.pending = [] → s.pwr.off = false →
    ∃ t, step s = .next t ∧ t.pending = [] ∧ t.clk.aon = s.clk.aon + 1 ∧
      t.clk.timer = (if s.pwr.globalStop then s.clk.timer else s.clk.timer + 1))

/-- For every command and every state, the command's effect is a next state: no command faults and none is refused. -/
def Obligations.EveryCommandAnswers : Prop := ∀ (c : Instr) (s : State), ∃ t, exec c s = .next t

/-- In OFF, every step answers a next state. Where the command at the front of the queue is not PWRGD_ASSERT, the step takes it off the queue and changes nothing else at all, so the device stays in OFF; with no command waiting nothing changes. PWRGD_ASSERT ends OFF. -/
def Obligations.OffIsLeftOnlyByPowerGood : Prop :=
  ∀ s : State, s.pwr.off = true →
    (s.pending = [] → step s = .next s) ∧
    (∀ c rest, s.pending = c :: rest → (∀ id, c ≠ .pwrgdAssert id) → step s = .next { s with pending := rest }) ∧
    (∀ id rest, s.pending = .pwrgdAssert id :: rest → ∃ t, step s = .next t ∧ t.pwr.off = false)

/-- From OFF, PWRGD_ASSERT answers a next state with supply, one cold reset more counted, POD_ID as the strap observed and the boot at its first step; otherwise it changes nothing. With supply, PWRGD_DEASSERT answers a next state in OFF with no reset counted. After either the image slots, the mark, the rollback counter, the revoke bits, the key hashes, the Hellbox and the log ring are as before, and every register, stream, partition, table, lock, mailbox, staged record and byte of memory is as after a cold reset. -/
def Obligations.SupplyEdges : Prop :=
  ∀ (s t : State) (id : BitVec 6),
    (s.pwr.off = true ∧ exec (.pwrgdAssert id) s = .next t ∨ s.pwr.off = false ∧ exec .pwrgdDeassert s = .next t →
      t.fw.slotA = s.fw.slotA ∧ t.fw.slotB = s.fw.slotB ∧ t.fw.marked = s.fw.marked ∧ t.fw.rollback = s.fw.rollback ∧
      t.fw.revoked = s.fw.revoked ∧ t.fw.keyHash = s.fw.keyHash ∧ t.mem.hellbox = s.mem.hellbox ∧
      t.evt.ring = s.evt.ring ∧ t.evt.cur = s.evt.cur ∧ t.evt.seq = 0 ∧ t.evt.logs = [] ∧ t.evt.staged = [] ∧
      t.cfg = State.reset.cfg ∧ t.mbx = [] ∧ t.ops = [] ∧ t.parts = [] ∧ t.tables = [] ∧ t.adapters = [] ∧
      t.streams = [] ∧ t.pod = State.reset.pod ∧ t.locks = State.reset.locks ∧ t.gal = State.reset.gal ∧ t.quo = [] ∧
      t.cores = [] ∧ t.profiles = [] ∧ t.grammars = [] ∧ t.mem.cells = [] ∧ t.mem.wcb = [] ∧ t.clk = State.reset.clk ∧
      t.hif.pcieReady = false ∧ t.hif.snap = [] ∧ t.hif.vfEnable = false ∧ t.fw.sess = none ∧
      (∀ d, d < 6 → dom t d = 2) ∧ t.pending = s.pending) ∧
    (s.pwr.off = true → ∃ u, exec (.pwrgdAssert id) s = .next u ∧ u.pwr.off = false ∧ u.evt.boot = s.evt.boot + 1 ∧
      u.ident = { s.ident with podId := id.toNat } ∧ u.fw.bootPhase = 1) ∧
    (s.pwr.off = false → exec (.pwrgdAssert id) s = .next s) ∧
    (s.pwr.off = false → ∃ u, exec .pwrgdDeassert s = .next u ∧ u.pwr.off = true ∧ u.evt.boot = s.evt.boot ∧
      u.ident = s.ident ∧ u.fw.bootPhase = 0) ∧
    (s.pwr.off = true → exec .pwrgdDeassert s = .next s)

/-- After reset no command waits and supply is on; every configuration register reads its Reset value staged, committed and in effect; every counter reads 0; the sequence number is 0; every mailbox is idle with no request; every stream is in no slot; every lock is free; no partition, table, adapter, queue or page is in use; every byte of memory reads 0; the pod is not joined; every domain runs; the core clock is 1,000 MHz. What the spec gives no reset value for (Onaman running slot A, the NOR empty, the fuses blank) is the model's choice of log entries 1, 8 and 9. -/
def Obligations.ResetState : Prop :=
  State.reset.pending = [] ∧ State.reset.pwr.off = false ∧
  (∀ k, staged State.reset k = keyReset k ∧ committed State.reset k = keyReset k ∧ effective State.reset k = keyReset k) ∧
  (∀ k, cnt State.reset k = 0) ∧ State.reset.evt.seq = 0 ∧ State.reset.evt.logs = [] ∧
  (∀ f, mbxState State.reset f = 0 ∧ (mbxOf State.reset f).rspSeq = 0 ∧ (mbxOf State.reset f).latched = none) ∧
  (∀ i, stream State.reset i = Stream.idle) ∧ (∀ j, lockOf State.reset j = LockSt.free) ∧
  State.reset.parts = [] ∧ State.reset.tables = [] ∧ State.reset.adapters = [] ∧ State.reset.gal.queues = [] ∧
  State.reset.pages = [] ∧ (∀ k, rawByte State.reset k = 0) ∧ Memory.wf State.reset.mem.cells = true ∧
  State.reset.pod.joined = false ∧ (∀ d, dom State.reset d = 0) ∧ State.reset.pwr.coreClk = 1000 ∧
  State.reset.hif.vfEnable = false

/-- For a stream in a slot of a function whose BARs are served, STR_TAIL_WRITE answers a next state: a value already held changes nothing; a value within N of STR_CPL_IDX becomes the tail, clears TAIL_INVALID and counts; any other value keeps the tail, sets TAIL_INVALID and posts one record to the function's partition log. Nothing else changes. -/
def Obligations.TailWriteChecked : Prop :=
  ∀ (s : State) (f : Fn) (slot : Fin 64) (v : W32) (i : Nat),
    Served s f.val → slotStream s f.val slot.val = some i →
    (v = (stream s i).tail → exec (.strTailWrite f slot v) s = .next s) ∧
    (v ≠ (stream s i).tail → (v - (stream s i).cpl).toNat ≤ 2 ^ strEff s i 0x18 →
      ∃ t, exec (.strTailWrite f slot v) s = .next t ∧
        stream t i = { stream s i with tail := v, tailInvalid := false } ∧
        (∀ j, j ≠ i → stream t j = stream s j) ∧
        cnt t (rk f.val 0x3000) = cnt s (rk f.val 0x3000) + 1 ∧
        (∀ k, k ≠ rk f.val 0x3000 → cnt t k = cnt s k) ∧
        t = { s with streams := t.streams, cfg := { s.cfg with cnt := t.cfg.cnt } }) ∧
    (v ≠ (stream s i).tail → 2 ^ strEff s i 0x18 < (v - (stream s i).cpl).toNat →
      ∃ t, exec (.strTailWrite f slot v) s = .next t ∧
        stream t i = { stream s i with tailInvalid := true } ∧
        (∀ j, j ≠ i → stream t j = stream s j) ∧
        t.evt = (postOne s (partOfFn f.val)
          { evRec 0x0102 2 (partOfFn f.val) (slot.val + 2 ^ 32 * v.toNat) (stream s i).cpl.toNat 0 0 with stream := i }).evt ∧
        t = { s with streams := t.streams, evt := t.evt })

/-- For a function whose BARs are served, MBX_REQ_SEQ_WRITE answers a next state. With MBX_STATE IDLE and the value MBX_RSP_SEQ + 1, the 2,048 bytes of the request area are latched with the number and the AON time, the discard reason clears, and demand for the CP domain is raised. Otherwise nothing is latched, the discard reason names why (3 CP_DOWN, 1 not IDLE, 2 number), and one record goes to the partition's log, or the global log for PF0. -/
def Obligations.MailboxWriteAccepted : Prop :=
  ∀ (s : State) (f : Fn) (v : W32), barServed s f.val = true →
    (mbxState s f.val = 0 → v = (mbxOf s f.val).rspSeq + 1 →
      ∃ t, exec (.mbxReqSeqWrite f v) s = .next t ∧
        (∃ r, (mbxOf t f.val).latched = some r ∧ r.seq = v ∧ r.at_ = s.clk.aon ∧ r.bytes.length = 2048 ∧
          ∀ i, i < 2048 → r.bytes[i]? = some (lkD (mbxOf s f.val).reqArea i 0)) ∧
        mbxOf t f.val = { mbxOf s f.val with
          reqSeq := v, discard := 0, rspArea := [], latched := (mbxOf t f.val).latched } ∧
        (∀ g, g ≠ f.val → mbxOf t g = mbxOf s g) ∧
        lkD t.pwr.demandAt 5 0 = s.clk.aon ∧ (dom t 5 = 0 ∨ 5 ∈ t.pwr.waking) ∧ (∀ d, d ≠ 5 → dom t d = dom s d) ∧
        t = { s with
          mbx := t.mbx
          pwr := { s.pwr with demandAt := t.pwr.demandAt, dom := t.pwr.dom, waking := t.pwr.waking } }) ∧
    (¬(mbxState s f.val = 0 ∧ v = (mbxOf s f.val).rspSeq + 1) →
      ∃ t why, exec (.mbxReqSeqWrite f v) s = .next t ∧
        (mbxState s f.val = 2 → why = 3) ∧ (mbxState s f.val = 1 ∨ mbxState s f.val = 3 → why = 1) ∧
        (mbxState s f.val = 0 → why = 2) ∧
        mbxOf t f.val = { mbxOf s f.val with discard := why } ∧ (∀ g, g ≠ f.val → mbxOf t g = mbxOf s g) ∧
        (f.val = 0 → t.evt = (postOne s globalLog (evRec 0x0201 2 63 (why + 2 ^ 32 * v.toNat) 0 0 0)).evt) ∧
        (f.val ≠ 0 → t.evt = (postOne s (f.val - 1) (evRec 0x0201 2 (f.val - 1) (why + 2 ^ 32 * v.toNat) 0 0 0)).evt) ∧
        t = { s with mbx := t.mbx, evt := t.evt })

/-- SNAP_CMD_WRITE with bits [31:16] zero leaves the function's capture pending with the token of that write, also where one was pending; with other bits it changes nothing. SNAPSHOT_CAPTURE with a capture pending and the HOSTIF engines running ends it: the token and the time are recorded, the count of captures rises by one, and every holding register reads as its live counter does; without a pending capture, or with the HOSTIF engines asleep, nothing changes. -/
def Obligations.SnapshotCapturesTheWindow : Prop :=
  ∀ (s : State) (f : Fn) (v : W32),
    (Served s f.val → v.toNat / 65536 = 0 →
      ∃ t, exec (.snapCmdWrite f v) s = .next t ∧
        snapOf t f.val = { snapOf s f.val with pending := some (BitVec.ofNat 16 v.toNat) } ∧
        (∀ g, g ≠ f.val → snapOf t g = snapOf s g) ∧
        t = { s with hif := { s.hif with snap := t.hif.snap } }) ∧
    (Served s f.val → v.toNat / 65536 ≠ 0 → exec (.snapCmdWrite f v) s = .next s) ∧
    (∀ tok, s.pwr.off = false → dom s 3 = 0 → (snapOf s f.val).pending = some tok →
      ∃ t, exec (.snapshotCapture f) s = .next t ∧
        (snapOf t f.val).pending = none ∧ (snapOf t f.val).token = tok ∧
        (snapOf t f.val).count = (snapOf s f.val).count + 1 ∧ (snapOf t f.val).time = s.clk.aon ∧
        (∀ i, i < 1024 → lkD (snapOf t f.val).hold (4 * i) 0 = liveWord s f.val (0x3000 + 4 * i)) ∧
        (∀ g, g ≠ f.val → snapOf t g = snapOf s g) ∧
        t = { s with hif := { s.hif with snap := t.hif.snap } }) ∧
    ((snapOf s f.val).pending = none ∨ dom s 3 ≠ 0 → exec (.snapshotCapture f) s = .next s)

/-- A CFG_COMMIT write of 1 with no commit of the region in progress freezes what every register of the region is staged at and the staged reference, and changes nothing else; with one in progress it is discarded and CFG_COMMIT_RESULT[3:0] reads 4; another value changes nothing. The outcome is a field failure (result 3 with its slot and offset), a check mismatch (result 2), neither changing any copy, or acceptance: the frozen image is the committed copy of the region, the frozen reference the committed reference, CFG_COMMIT_SEQ advances, the result is 1, and only registers that apply at once take effect. -/
def Obligations.CommitFreezesAndReports : Prop :=
  ∀ (s : State) (f : Fn) (v : W32) (r : Nat), s.pwr.off = false → r = regionOfFn f.val →
    (barServed s f.val = true → v = 1 → has s.cfg.busy r = false →
      ∃ t fr, exec (.cfgCommit f (.write v)) s = .next t ∧ lk t.cfg.busy r = some fr ∧
        (∀ k, keyRegion k = r → lkD fr.image k (keyReset k) = staged s k) ∧
        fr.ref = refStaged s r ∧ fr.at_ = s.clk.aon ∧ (∀ q, q ≠ r → lk t.cfg.busy q = lk s.cfg.busy q) ∧
        t = { s with cfg := { s.cfg with busy := t.cfg.busy } }) ∧
    (barServed s f.val = true → v = 1 → has s.cfg.busy r = true →
      ∃ t, exec (.cfgCommit f (.write v)) s = .next t ∧
        (lkD t.cfg.result r 0) = BitVec.ofNat 32 ((lkD s.cfg.result r 0).toNat / 16 * 16 + 4) ∧
        (∀ q, q ≠ r → lk t.cfg.result q = lk s.cfg.result q) ∧
        t = { s with cfg := { s.cfg with result := t.cfg.result } }) ∧
    (v ≠ 1 → exec (.cfgCommit f (.write v)) s = .next s) ∧
    (lk s.cfg.busy r = none → exec (.cfgCommit f .outcome) s = .next s) ∧
    (∀ fr, lk s.cfg.busy r = some fr →
      ∃ t, exec (.cfgCommit f .outcome) s = .next t ∧ has t.cfg.busy r = false ∧
        (∀ k o, regionFieldFail { s with cfg := { s.cfg with busy := del s.cfg.busy r } } r
            (fun k => (lkD fr.image k (keyReset k)).toNat) = some (k, o) →
          lkD t.cfg.result r 0 = BitVec.ofNat 32 (3 + 256 * o + 65536 * k) ∧
          t = { s with cfg := { s.cfg with busy := t.cfg.busy, result := t.cfg.result } }) ∧
        (regionFieldFail { s with cfg := { s.cfg with busy := del s.cfg.busy r } } r
            (fun k => (lkD fr.image k (keyReset k)).toNat) = none →
          imageCheck (fun k => lkD fr.image k (keyReset k)) r ≠ fr.ref →
          lkD t.cfg.result r 0 = 2 ∧
          t = { s with cfg := { s.cfg with busy := t.cfg.busy, result := t.cfg.result } }) ∧
        (regionFieldFail { s with cfg := { s.cfg with busy := del s.cfg.busy r } } r
            (fun k => (lkD fr.image k (keyReset k)).toNat) = none →
          imageCheck (fun k => lkD fr.image k (keyReset k)) r = fr.ref →
          (∀ k, keyRegion k = r → lk fr.image k = none → committed t k = keyReset k) ∧
          (∀ k v, keyRegion k = r → lk fr.image k = some v → committed t k = v) ∧
          (∀ k, keyRegion k ≠ r → lk fr.image k = none → committed t k = committed s k) ∧
          refCommitted t r = fr.ref ∧ lkD t.cfg.seq r 0 = lkD s.cfg.seq r 0 + 1 ∧ lkD t.cfg.result r 0 = 1 ∧
          lkD t.cfg.commitAt r 0 = s.clk.aon ∧
          (∀ k, keyAt k .immediate = false → effective t k = effective s k) ∧
          t = { s with cfg := { s.cfg with
            busy := t.cfg.busy, result := t.cfg.result, committed := t.cfg.committed, effective := t.cfg.effective
            refCommitted := t.cfg.refCommitted, seq := t.cfg.seq, commitAt := t.cfg.commitAt } }))

/-- For a function whose BARs are served, REGISTER_WRITE of an RW register of an assigned slot, or of PF0's BAR2, records the register's defined bits as its staged value, which a read returns; no effective or committed value and no other staged value changes. A write of an RW register of a slot with no stream changes nothing. ALIAS_WRITE of 1 or 0 to a bit of STR_CTRL sets or clears that bit alone; any other value is refused and recorded, and nothing else changes. -/
def Obligations.RegisterWritesAreStaged : Prop :=
  ∀ (s : State) (f : Fn) (v : W32), Served s f.val →
    (∀ (off : BitVec 24) (i : RegInfo), 0x2000 ≤ off.toNat → off.toNat < 0x3000 → off.toNat % 4 = 0 →
      slotReg ((off.toNat - 0x2000) % 0x40) = some i →
      ((slotStream s f.val ((off.toNat - 0x2000) / 0x40)).isSome = true →
        ∃ t, exec (.registerWrite f false off v) s = .next t ∧ staged t (rk f.val off.toNat) = v &&& i.mask ∧
          (∀ k, k ≠ rk f.val off.toNat → staged t k = staged s k) ∧
          t = { s with cfg := { s.cfg with staged := t.cfg.staged } }) ∧
      (slotStream s f.val ((off.toNat - 0x2000) / 0x40) = none → exec (.registerWrite f false off v) s = .next s)) ∧
    (∀ (off : BitVec 24) (i : RegInfo), f = 0 → off.toNat % 4 = 0 → bar2Reg off.toNat = some i →
      ∃ t, exec (.registerWrite f true off v) s = .next t ∧ staged t (rk2 off.toNat) = v &&& i.mask ∧
        (∀ k, k ≠ rk2 off.toNat → staged t k = staged s k) ∧
        t = { s with cfg := { s.cfg with staged := t.cfg.staged } }) ∧
    (∀ (slot bit : Nat) (off : BitVec 16), slot < 64 → bit < 32 → off.toNat = 0x8000 + 0x80 * slot + 4 * bit →
      (slotStream s f.val slot).isSome = true →
      (v.toNat < 2 →
        ∃ t, exec (.aliasWrite f off v) s = .next t ∧
          (∀ b, b < 3 → (staged t (slotKey f.val slot 8)).getLsbD b =
            if b = bit then decide (v = 1) else (staged s (slotKey f.val slot 8)).getLsbD b) ∧
          (∀ k, k ≠ slotKey f.val slot 8 → staged t k = staged s k) ∧
          t = { s with cfg := { s.cfg with staged := t.cfg.staged } }) ∧
      (2 ≤ v.toNat → (lkD s.hif.barErr f.val ⟨none, 0, 0⟩).lastAt = none →
        ∃ t, exec (.aliasWrite f off v) s = .next t ∧
          t.evt = (postG s 0x0101 2 (barP0 f.val false true true off.toNat).toNat 1 0 0).evt ∧
          t = { s with evt := t.evt, hif := { s.hif with barErr := t.hif.barErr } }))

/-- BUFFERED_WRITE_APPLY at a quoin edge (an AON count divisible by 25), at an epoch (divisible by 4), or at a frame boundary of a link gives every register of that boundary whose home runs its committed value and leaves every other effective value; between edges it changes nothing. At a task boundary with no task in flight the stream's own registers and the device-wide ones with that boundary follow, and STR_CTRL takes ENABLE and CANCEL as written and bit 2 as committed; with a task in flight nothing changes. RING_CONFIG_APPLY brings a committed ring change in only with STR_CTRL[0] 0 and nothing in flight, and then sets the stream's three indices to 0. Model's choice: the slot registers' homes (log entry 29). -/
def Obligations.BoundariesBringWritesIn : Prop :=
  ∀ (s : State), s.pwr.off = false →
    (s.clk.aon % 25 = 0 →
      ∃ t, exec (.bufferedWriteApply .quoin) s = .next t ∧
        (∀ k, effective t k = if keyAt k .quoin = true ∧ keyRuns s k = true then committed s k else effective s k) ∧
        t.cfg.mgmtEff = s.cfg.mgmtCommitted ∧
        t = { s with cfg := { s.cfg with effective := t.cfg.effective, mgmtEff := t.cfg.mgmtEff } }) ∧
    (s.clk.aon % 25 ≠ 0 → exec (.bufferedWriteApply .quoin) s = .next s) ∧
    (s.clk.aon % 4 = 0 →
      ∃ t, exec (.bufferedWriteApply .epoch) s = .next t ∧
        (∀ k, effective t k = if keyAt k .epoch = true ∧ keyRuns s k = true then committed s k else effective s k) ∧
        t = { s with cfg := { s.cfg with effective := t.cfg.effective } }) ∧
    (s.clk.aon % 4 ≠ 0 → exec (.bufferedWriteApply .epoch) s = .next s) ∧
    (∀ l : Lnk, ∃ t, exec (.bufferedWriteApply (.linkFrame l)) s = .next t ∧
      (∀ k, effective t k =
        if keyAt k .linkFrame = true ∧ keyRuns s k = true ∧ (k = rk2 0x40024 ∨
          (rk2 (0x41080 + 0x100 * l.val) ≤ k ∧ k < rk2 (0x41094 + 0x100 * l.val)))
        then committed s k else effective s k) ∧
      t = { s with cfg := { s.cfg with effective := t.cfg.effective } }) ∧
    (∀ (i : SId) (f k : Nat), (stream s i.val).slot = some (f, k) →
      ((stream s i.val).task.isSome = true → exec (.bufferedWriteApply (.task i)) s = .next s) ∧
      ((stream s i.val).task = none →
        ∃ t, exec (.bufferedWriteApply (.task i)) s = .next t ∧
          effective t (slotKey f k 8) = (staged s (slotKey f k 8) &&& 3) ||| (committed s (slotKey f k 8) &&& 4) ∧
          (∀ q, q ≠ slotKey f k 8 → effective t q =
            if keyAt q .task = true ∧ keyRuns s q = true ∧ (2 ^ 24 ≤ q ∨ (slotKey f k 0 ≤ q ∧ q < slotKey f (k + 1) 0))
            then committed s q else effective s q) ∧
          t = { s with cfg := { s.cfg with effective := t.cfg.effective } }) ∧
      ((∃ o ∈ [0x10, 0x14, 0x18, 0x1C, 0x20], committed s (slotKey f k o) ≠ effective s (slotKey f k o)) →
        (staged s (slotKey f k 8)).toNat % 2 = 0 → (stream s i.val).task = none → (stream s i.val).fetched = [] →
        ∃ t, exec (.ringConfigApply i) s = .next t ∧
          (∀ q, effective t q = if keyAt q .ring = true ∧ slotKey f k 0 ≤ q ∧ q < slotKey f (k + 1) 0
            then committed s q else effective s q) ∧
          stream t i.val = { stream s i.val with tail := 0, head := 0, cpl := 0, fetchAsked := none } ∧
          (∀ j, j ≠ i.val → stream t j = stream s j) ∧
          t = { s with streams := t.streams, cfg := { s.cfg with effective := t.cfg.effective } }) ∧
      ((staged s (slotKey f k 8)).toNat % 2 = 1 ∨ (stream s i.val).task.isSome = true ∨
          (stream s i.val).fetched.isEmpty = false ∨
          (∀ o ∈ [0x10, 0x14, 0x18, 0x1C, 0x20], committed s (slotKey f k o) = effective s (slotKey f k o)) →
        exec (.ringConfigApply i) s = .next s))

/-- BAR_ACCESS_REFUSED, for an access of a served function that is not an aligned word, posts a global record unless one was posted within the last second, when it is counted; a read gets all ones. BAR_ACCESS_SUMMARY 1 s after the last record posts the count with the last access, or forgets a function with none. RL_READ of an aligned register of a function with no read waiting delivers the register's value when its domain runs; otherwise the read waits and its domain is demanded. RL_LIMIT of a read that has waited 800 us delivers all ones and posts a record in the function's log. -/
def Obligations.RefusedAndStalledAccesses : Prop :=
  ∀ (s : State) (f : Fn) (bar2 : Bool) (off : BitVec 24),
    (∀ (write : Bool) (size : Nat), barServed s f.val = true → ¬(size = 4 ∧ off.toNat % 4 = 0) →
      ∃ t, exec (.barAccessRefused f bar2 write off size) s = .next t ∧
        (write = true → t.hif.bus = s.hif.bus) ∧
        (write = false → t.hif.bus = s.hif.bus ++ [.value f.val bar2 off.toNat 0xFFFFFFFF#32]) ∧
        ((∀ a, (lkD s.hif.barErr f.val ⟨none, 0, 0⟩).lastAt = some a → a + secT ≤ s.clk.aon) →
          t.evt = (postG s 0x0101 2 (barP0 f.val bar2 write false off.toNat).toNat 1 0 0).evt ∧
          lk t.hif.barErr f.val = some ⟨some s.clk.aon, 0, barP0 f.val bar2 write false off.toNat⟩) ∧
        (∀ a, (lkD s.hif.barErr f.val ⟨none, 0, 0⟩).lastAt = some a → s.clk.aon < a + secT →
          t.evt = s.evt ∧ lk t.hif.barErr f.val = some ⟨some a, (lkD s.hif.barErr f.val ⟨none, 0, 0⟩).count + 1,
            barP0 f.val bar2 write false off.toNat⟩) ∧
        (∀ g, g ≠ f.val → lk t.hif.barErr g = lk s.hif.barErr g) ∧
        t = { s with evt := t.evt, hif := { s.hif with barErr := t.hif.barErr, bus := t.hif.bus } }) ∧
    (∀ b a, s.pwr.off = false → lk s.hif.barErr f.val = some b → b.lastAt = some a →
      (s.clk.aon < a + secT → exec (.barAccessSummary f) s = .next s) ∧
      (a + secT ≤ s.clk.aon → b.count = 0 →
        exec (.barAccessSummary f) s = .next { s with hif := { s.hif with barErr := del s.hif.barErr f.val } }) ∧
      (a + secT ≤ s.clk.aon → b.count ≠ 0 →
        ∃ t, exec (.barAccessSummary f) s = .next t ∧
          t.evt = (postG s 0x0101 2 b.p0.toNat b.count 0 0).evt ∧
          t.hif.barErr = put s.hif.barErr f.val ⟨some s.clk.aon, 0, b.p0⟩ ∧
          t = { s with evt := t.evt, hif := { s.hif with barErr := t.hif.barErr } })) ∧
    (barServed s f.val = true → (bar2 = true → f = 0) → off.toNat % 4 = 0 → (bar2 = false → off.toNat < 0x10000) →
      (∀ r ∈ s.hif.stalled, r.1 ≠ f.val) →
      (readable s bar2 off.toNat = true →
        ∃ t u, exec (.rlRead f bar2 off) s = .next t ∧
          u = { s with hif := { s.hif with stalled := s.hif.stalled ++ [(f.val, bar2, off.toNat, s.clk.aon)] } } ∧
          t.hif.bus = s.hif.bus ++ [.value f.val bar2 off.toNat (readReg u f.val bar2 off.toNat).1] ∧
          t.hif.stalled = s.hif.stalled ∧
          t = { s with hif := { s.hif with bus := t.hif.bus }, freeCtr := t.freeCtr }) ∧
      (∀ d, homeOf bar2 off.toNat = some d → readable s bar2 off.toNat = false →
        exec (.rlRead f bar2 off) s = .next (demandOn
          { s with hif := { s.hif with stalled := s.hif.stalled ++ [(f.val, bar2, off.toNat, s.clk.aon)] } } d))) ∧
    (∀ a, s.pwr.off = false → (f.val, bar2, off.toNat, a) ∈ s.hif.stalled → a + 800 * usT ≤ s.clk.aon →
      ∃ t l, exec (.rlLimit f bar2 off) s = .next t ∧
        t.hif.bus = s.hif.bus ++ [.value f.val bar2 off.toNat 0xFFFFFFFF#32] ++ l ∧
        t.evt = (postP s (partOfFn f.val) 0x0303 2 (off.toNat % 65536) 0 0 0).evt ∧
        t = { s with
          evt := t.evt, freeCtr := t.freeCtr, pwr := t.pwr
          hif := { s.hif with bus := t.hif.bus, stalled := t.hif.stalled } })

/-- For a served function, an LCK_REQ write that names an ID of its ranges with no reserved bit set answers a next state: ACQUIRE queues a request at its PRIO behind those of its level and reads accepted, or, where the function holds or waits for the lock, changes no lock and reads no effect; RELEASE of a lock the register path holds makes it FREE, WITHDRAW removes the waiting request, and both read no effect otherwise. A bad request reads refused, posts one record, and changes no lock. Other locks never change. -/
def Obligations.LockRegisterPath : Prop :=
  ∀ (s : State) (f : Fn) (v : W32) (j : Nat), Served s f.val → j = v.toNat % 1024 →
    (bits v.toNat 15 10 = 0 → bits v.toNat 19 18 = 0 → v.toNat / 2 ^ 23 = 0 → lockIn s (partOfFn f.val) j = true →
      (bits v.toNat 17 16 = 1 → (lockOf s j).holder ≠ some (.reg f.val) →
        (∀ w ∈ (lockOf s j).waiters, w.who ≠ .reg f.val) →
        ∃ t, exec (.lckReqAcquire f v) s = .next t ∧
          (∃ w, w = ⟨.reg f.val, bits v.toNat 22 20, bits v.toNat 22 20, s.clk.aon, s.clk.timer⟩ ∧
            lockOf t j = { lockOf s j with waiters := insertWaiter w (lockOf s j).waiters }) ∧
          (∀ k, k ≠ j → lockOf t k = lockOf s k) ∧
          lkD t.hif.lckResult f.val 0 = BitVec.ofNat 32 (1 + 16 * j) ∧
          t = { s with locks := t.locks, hif := { s.hif with lckResult := t.hif.lckResult }, pwr := t.pwr }) ∧
      (bits v.toNat 17 16 = 1 →
        (lockOf s j).holder = some (.reg f.val) ∨ (∃ w ∈ (lockOf s j).waiters, w.who = .reg f.val) →
        ∃ t, exec (.lckReqAcquire f v) s = .next t ∧ lkD t.hif.lckResult f.val 0 = BitVec.ofNat 32 (3 + 16 * j) ∧
          t = { s with hif := { s.hif with lckResult := t.hif.lckResult }, pwr := t.pwr }) ∧
      (bits v.toNat 17 16 = 2 → (lockOf s j).holder = some (.reg f.val) →
        ∃ t, exec (.lckReqRelease f v) s = .next t ∧
          lockOf t j = { lockOf s j with st := 0, holder := none, notBefore := 0 } ∧
          (∀ k, k ≠ j → lockOf t k = lockOf s k) ∧
          lkD t.hif.lckResult f.val 0 = BitVec.ofNat 32 (1 + 16 * j) ∧
          t = { s with locks := t.locks, hif := { s.hif with lckResult := t.hif.lckResult }, pwr := t.pwr }) ∧
      (bits v.toNat 17 16 = 2 → (lockOf s j).holder ≠ some (.reg f.val) →
        ∃ t, exec (.lckReqRelease f v) s = .next t ∧ lkD t.hif.lckResult f.val 0 = BitVec.ofNat 32 (3 + 16 * j) ∧
          t = { s with hif := { s.hif with lckResult := t.hif.lckResult }, pwr := t.pwr }) ∧
      (bits v.toNat 17 16 = 3 → (∃ w ∈ (lockOf s j).waiters, w.who = .reg f.val) →
        ∃ t, exec (.lckReqWithdraw f v) s = .next t ∧
          lockOf t j = { lockOf s j with waiters := (lockOf s j).waiters.filter (fun w => w.who != .reg f.val) } ∧
          (∀ k, k ≠ j → lockOf t k = lockOf s k) ∧
          lkD t.hif.lckResult f.val 0 = BitVec.ofNat 32 (1 + 16 * j) ∧
          t = { s with locks := t.locks, hif := { s.hif with lckResult := t.hif.lckResult }, pwr := t.pwr }) ∧
      (bits v.toNat 17 16 = 3 → (∀ w ∈ (lockOf s j).waiters, w.who ≠ .reg f.val) →
        ∃ t, exec (.lckReqWithdraw f v) s = .next t ∧ lkD t.hif.lckResult f.val 0 = BitVec.ofNat 32 (3 + 16 * j) ∧
          t = { s with hif := { s.hif with lckResult := t.hif.lckResult }, pwr := t.pwr })) ∧
    (bits v.toNat 15 10 ≠ 0 ∨ bits v.toNat 19 18 ≠ 0 ∨ v.toNat / 2 ^ 23 ≠ 0 ∨ lockIn s (partOfFn f.val) j = false →
      ∀ c, (c = .lckReqAcquire f v ∧ bits v.toNat 17 16 = 1 ∨ c = .lckReqRelease f v ∧ bits v.toNat 17 16 = 2 ∨
          c = .lckReqWithdraw f v ∧ bits v.toNat 17 16 = 3) →
        ∃ t, exec c s = .next t ∧ lkD t.hif.lckResult f.val 0 = BitVec.ofNat 32 (2 + 16 * j) ∧
          t.evt = (postP s (partOfFn f.val) 0x0804 2 j 0 0 0).evt ∧
          t = { s with evt := t.evt, hif := { s.hif with lckResult := t.hif.lckResult }, pwr := t.pwr })

/-- FLR of an existing function answers a next state in which its mailbox is fresh but for its permitted set, its deprecation marks and the orphan of an accepted command, its D-state, held admission, ATS, LCK_REQ_RESULT and snapshots are at reset, its live counters are 0, every stream in its slots has indices 0, nothing fetched, no task and an empty text state, for a VF every register of its partition region has its Reset value staged, committed and effective, and the last record posted is the global FUNCTION_RESET record. HOT_RESET is an FLR of PF0 that also leaves the link down with ASPM L1 off. Clearing VF Enable resets every VF in turn and leaves none. -/
def Obligations.FunctionResetLeavesResetValues : Prop :=
  (∀ (s : State) (f : Fn), s.hif.pcieReady = true → s.pwr.off = false → s.jtag.perst = false → fnExists s f.val = true →
    ∃ t, exec (.flr f) s = .next t ∧
      (∃ m : Mbx, mbxOf t f.val = { Mbx.fresh with orphan := m.orphan, permitted := m.permitted, deprecated := m.deprecated }) ∧
      lk t.hif.d3 f.val = none ∧ lk t.hif.held f.val = none ∧ lk t.hif.atsEnable f.val = none ∧
      lk t.hif.lckResult f.val = none ∧ lk t.hif.snap f.val = none ∧ (∀ p, p < 2 ^ 52 → lk t.hif.ats (f.val * 2 ^ 52 + p) = none) ∧
      (∀ o, 0x3000 ≤ o → o < 0x4000 → cnt t (rk f.val o) = 0) ∧
      (∀ i k, (stream t i).slot = some (f.val, k) → stream t i = { Stream.idle with slot := some (f.val, k) }) ∧
      (f ≠ 0 → ∀ k, keyRegion k = regionOfFn f.val →
        staged t k = keyReset k ∧ committed t k = keyReset k ∧ effective t k = keyReset k) ∧
      (∃ u tasks locks, t.evt = (postG u 0x0104 2 f.val tasks locks 0).evt)) ∧
  (∀ s : State, s.hif.pcieReady = true → s.pwr.off = false → s.jtag.perst = false →
    ∃ t, exec (.flr 0) s = .next t ∧
      exec .hotReset s = .next { t with hif := { t.hif with dlActive := false, aspmL1 := false } }) ∧
  (∀ s : State, s.hif.pcieReady = true → s.pwr.off = false → s.hif.vfEnable = true →
    ∃ t u, exec .vfEnableClear s = .next t ∧ u = (List.range s.hif.numVfs).foldl (fun s v => flrOne s (v + 1)) s ∧
      t = { u with hif := { u.hif with vfEnable := false, numVfs := 0 } })

/-- Each of these rows answers a next state that differs only as its rule says: VF_ENABLE_SET gives the VFs, D3HOT_ENTRY stops admission on the function and D0_RETURN keeps it held until the next quoin period, ATS_INVALIDATE drops the translation and completes, ATS_TRANSLATION_COMPLETION records the answer to a translation asked for and is ignored otherwise, CONFIG_REQUEST completes with retry status until the device is ready and successfully from then on, setting ATS and ASPM L1, PCIE_LINK_UP records the link, and HOST_READ_COMPLETION lands exactly where such a read is outstanding and is ignored where none is. -/
def Obligations.FunctionStatesAndTranslations : Prop :=
  ∀ (s : State) (f : Fn), s.pwr.off = false →
    (∀ n : Fn, s.hif.pcieReady = true →
      exec (.vfEnableSet n) s = .next { s with hif := { s.hif with vfEnable := true, numVfs := n.val } }) ∧
    (∃ t, exec (.d3hotEntry f) s = .next t ∧ lk t.hif.d3 f.val = some true ∧ lk t.hif.held f.val = some true ∧
      admitOpen t f.val = false ∧ (∀ g, g ≠ f.val → lk t.hif.d3 g = lk s.hif.d3 g ∧ lk t.hif.held g = lk s.hif.held g) ∧
      t = { s with hif := { s.hif with d3 := t.hif.d3, held := t.hif.held } }) ∧
    (lk s.hif.d3 f.val = some true →
      ∃ t, exec (.d0Return f) s = .next t ∧ lk t.hif.d3 f.val = none ∧ lk t.hif.held f.val = some true ∧
        admitOpen t f.val = false ∧
        (∀ g, g ≠ f.val → lk t.hif.d3 g = lk s.hif.d3 g ∧ lk t.hif.held g = lk s.hif.held g) ∧
        t = { s with hif := { s.hif with d3 := t.hif.d3, held := t.hif.held } }) ∧
    (∀ page : BitVec 52,
      (∃ t, exec (.atsInvalidate f page) s = .next t ∧ lk t.hif.ats (atsKey f.val page.toNat) = none ∧
        (∀ k, k ≠ atsKey f.val page.toNat → lk t.hif.ats k = lk s.hif.ats k) ∧
        t.hif.bus = s.hif.bus ++ [.invalidated f.val page.toNat] ∧
        t = { s with hif := { s.hif with ats := t.hif.ats, bus := t.hif.bus } }) ∧
      (∀ granted, (f.val, page.toNat) ∈ s.hif.atsAsked →
        ∃ t, exec (.atsTranslationCompletion f page granted) s = .next t ∧
          lk t.hif.ats (atsKey f.val page.toNat) = some granted ∧
          (∀ k, k ≠ atsKey f.val page.toNat → lk t.hif.ats k = lk s.hif.ats k) ∧
          t = { s with hif := { s.hif with ats := t.hif.ats, atsAsked := s.hif.atsAsked.erase (f.val, page.toNat) } }) ∧
      (∀ granted, (f.val, page.toNat) ∉ s.hif.atsAsked → exec (.atsTranslationCompletion f page granted) s = .next s)) ∧
    (fnExists s f.val = true → s.jtag.outOfService = false → s.jtag.perst = false →
      (∀ r, s.hif.pcieReady = false →
        exec (.configRequest f r) s = .next { s with hif := { s.hif with bus := s.hif.bus ++ [.config f.val true] } }) ∧
      (∀ o, s.hif.pcieReady = true → exec (.configRequest f (.other o)) s =
        .next { s with hif := { s.hif with bus := s.hif.bus ++ [.config f.val false] } }) ∧
      (∀ on, s.hif.pcieReady = true →
        ∃ t, exec (.configRequest f (.atsEnable on)) s = .next t ∧ t.hif.bus = s.hif.bus ++ [.config f.val false] ∧
          lk t.hif.atsEnable f.val = some on ∧ (∀ g, g ≠ f.val → lk t.hif.atsEnable g = lk s.hif.atsEnable g) ∧
          (on = true → t.hif.ats = s.hif.ats) ∧
          (on = false → ∀ k, lk t.hif.ats k = if k / 2 ^ 52 = f.val then none else lk s.hif.ats k) ∧
          t = { s with hif := { s.hif with bus := t.hif.bus, atsEnable := t.hif.atsEnable, ats := t.hif.ats } }) ∧
      (∀ on, s.hif.pcieReady = true → exec (.configRequest f (.aspmL1 on)) s =
        .next { s with hif := { s.hif with
          bus := s.hif.bus ++ [.config f.val false], aspmL1 := if f = 0 then on else s.hif.aspmL1 } })) ∧
    (∀ speed width reversed, s.jtag.perst = false → exec (.pcieLinkUp speed width reversed) s =
      .next { s with hif := { s.hif with
        dlActive := true, speed := speed.toNat, width := width.toNat, reversed := reversed
        recovery := s.hif.recovery + b2n s.hif.dlActive } }) ∧
    (∀ (i : SId) (addr : W64) (st : HostStatus) (t : TaskRun) (k : Nat),
      (stream s i.val).fetchAsked = none → (stream s i.val).task = some t →
      t.asked.find? (fun k => k / 8192 == addr.toNat && (match st with | .data b => b.length == k % 8192 | _ => true)) = some k →
      ∃ u x, exec (.hostReadCompletion (.stream i) addr st) s = .next u ∧ (stream u i.val).task = some x ∧
        lk x.land k = some st ∧ x.asked = t.asked.erase k ∧
        x.stallAt = (if (t.asked.erase k).isEmpty then none else some s.clk.timer) ∧
        x = { t with land := x.land, asked := x.asked, stallAt := x.stallAt } ∧
        (∀ j, j ≠ i.val → stream u j = stream s j) ∧ u = { s with streams := u.streams }) ∧
    (∀ (i : SId) (addr : W64) (st : HostStatus), (stream s i.val).fetchAsked = none →
      (stream s i.val).task = none ∨ (∃ t, (stream s i.val).task = some t ∧ ∀ k ∈ t.asked, k / 8192 ≠ addr.toNat) →
      exec (.hostReadCompletion (.stream i) addr st) s = .next s) ∧
    (∀ (addr : W64) (st : HostStatus), (∀ o ∈ s.ops, ∀ k ∈ o.asked, k / 8192 ≠ addr.toNat) →
      (∀ r ∈ s.pod.ownerReqs, ∀ k ∈ r.asked, k / 8192 ≠ addr.toNat) →
      exec (.hostReadCompletion (.command f) addr st) s = .next s)

/-- For a stream whose task has ended and with the HOSTIF engines running, COMPLETION_RECORD answers a next state in which exactly one more host write stands: the task's record of 32 bytes, through the stream's function, at the completion ring's base plus 32 times the task's index mod N; its PHASE bit is 1 exactly when the index div N is even; with a 4 KiB aligned base the write crosses no 64-byte boundary. STR_CPL_IDX of the stream rises by one, and that of no other stream changes. With no ended task nothing is written. -/
def Obligations.RecordWrittenOnce : Prop :=
  ∀ (s : State) (i : SId), s.pwr.off = false →
    (∀ (f k n base : Nat) (t : TaskRun) (r : Rec), runs s 3 = true → (stream s i.val).slot = some (f, k) →
      (stream s i.val).task = some t → t.done = some r →
      n = 2 ^ strEff s i.val 0x18 → base = strEff s i.val 0x1C + 2 ^ 32 * strEff s i.val 0x20 →
      ∃ u, exec (.completionRecord i) s = .next u ∧
        u.hif.writes = s.hif.writes ++ [⟨f, base + 32 * (t.idx % n), recBytes t r n⟩] ∧
        (recBytes t r n).length = 32 ∧
        ((recBytes t r n)[31]?.map (fun b => b.getLsbD 7)) = some (decide (t.idx / n % 2 = 0)) ∧
        (base % 4096 = 0 → (base + 32 * (t.idx % n)) % 64 + 32 ≤ 64) ∧
        (stream u i.val).cpl = (stream s i.val).cpl + 1 ∧
        (∀ j, j ≠ i.val → (stream u j).cpl = (stream s j).cpl)) ∧
    ((stream s i.val).task = none ∨ (∃ t, (stream s i.val).task = some t ∧ t.done = none) →
      ∃ u, exec (.completionRecord i) s = .next u ∧ u.hif.writes = s.hif.writes ∧
        ∀ j, (stream u j).cpl = (stream s j).cpl)

/-- For a stream with STR_CTRL.RUN set, descriptors in host memory, no read outstanding, nothing fetched and a tail ahead of its head, DESCRIPTOR_FETCH on an open function answers a next state in which one read of k descriptors at HEAD mod N is outstanding, where k is between 1 and 8, no more than the tail is ahead, no more than the ring has left and no more than the 4 KB page holds; HEAD and the tail stand. The completion of that read moves HEAD on by the descriptors that landed and ends the outstanding read. With RUN clear, or with the tail at the head, nothing is asked for. -/
def Obligations.FetcherReadsAhead : Prop :=
  ∀ (s : State) (i : SId) (f k n a : Nat), s.pwr.off = false → (stream s i.val).slot = some (f, k) →
    n = 2 ^ strEff s i.val 0x18 →
    a = strEff s i.val 0x10 + 2 ^ 32 * strEff s i.val 0x14 + 64 * ((stream s i.val).head.toNat % n) →
    (bitOf (strEff s i.val 0x08) 0 = true → bitOf (strEff s i.val 0x08) 2 = false →
      (stream s i.val).tail ≠ (stream s i.val).head → admitOpen s f = true → runs s 3 = true →
      (stream s i.val).fetchAsked = none → (stream s i.val).fetched = [] →
      hostPage ⟨s, 64, f, partOfFn f, [], []⟩ a = .ok () [] →
      ∃ t m, exec (.descriptorFetch i) s = .next t ∧ (stream t i.val).fetchAsked = some (a, 64 * m) ∧
        1 ≤ m ∧ m ≤ 8 ∧ m ≤ ((stream s i.val).tail - (stream s i.val).head).toNat ∧
        (stream s i.val).head.toNat % n + m ≤ n ∧ (a % 64 = 0 → a % 4096 + 64 * m ≤ 4096) ∧
        (stream t i.val).head = (stream s i.val).head ∧ (stream t i.val).tail = (stream s i.val).tail ∧
        (stream t i.val).fetched = [] ∧ (∀ j, j ≠ i.val → stream t j = stream s j)) ∧
    ((bitOf (strEff s i.val 0x08) 0 = false ∨ (stream s i.val).tail = (stream s i.val).head) →
      (stream s i.val).fetched = [] →
      ∃ t, exec (.descriptorFetch i) s = .next t ∧ ∀ j, stream t j = stream s j) ∧
    (∀ (m : Nat) (b : List Byte), a < 2 ^ 64 → (stream s i.val).fetchAsked = some (a, b.length) →
      (chunks 64 b).length = m →
      ∃ t, exec (.hostReadCompletion (.stream i) (BitVec.ofNat 64 a) (.data b)) s = .next t ∧
        (stream t i.val).fetchAsked = none ∧ (stream t i.val).head = (stream s i.val).head + BitVec.ofNat 32 m ∧
        (∀ j, j ≠ i.val → stream t j = stream s j))

/-- For a running GATHER_POOL or GATHER_ROWS task on a reachable table, whose bags are all evaluated without a fault and whose remaining reads the tokens at hand admit, the row answers a next state in which exactly the bags' host writes are issued, in bag order, and the task has ended: COUNT is NBAGS, COORD the rows pooled, DROPPED, EMPTY and POISON say whether any bag dropped rows, was empty or was poisoned, RESULT is the number dropped up to 2^32 - 1, and the status is 2 where a bag was poisoned, else 0. On a handle that is not reachable the task ends TS_DENIED with detail 1 and nothing is written. No other stream's STR_CPL_IDX moves. -/
def Obligations.GatherTaskEnds : Prop :=
  ∀ (s : State) (i : SId) (n : Nat) (c : Instr) (t : TaskRun),
    (n = 1 ∧ c = .gatherPool i ∨ n = 2 ∧ c = .gatherRows i) → runningTask s i.val n = some t →
    (∀ (tb : Table) (bags : List BagOut) (tr : List Acc),
      taskTable s i.val (streamPart s i.val) (t.u32 8) = some tb →
      gatherEval (taskCtx s i.val t) tb t.desc t.adapter = .fin bags none tr → ReadsAdmitted s i.val t tr →
      ∃ u r, exec c s = .next u ∧ Ended u i.val r ∧
        r.status = (if bags.any (·.poisoned) then 2 else 0) ∧ r.count = (gBody t.desc).nbags ∧
        r.coord = (bags.map (·.pooled)).sum ∧ r.empty = bags.any (·.empty) ∧ r.poison = bags.any (·.poisoned) ∧
        r.dropped = bags.any (fun b => 0 < b.dropped) ∧
        r.result = min (bags.map (·.dropped)).sum (2 ^ 32 - 1) ∧
        u.hif.writes = s.hif.writes ++ hostWritesOf (streamFn s i.val) (bags.flatMap (·.writes)) ∧
        (∀ j, (stream u j).cpl = (stream s j).cpl)) ∧
    (taskTable s i.val (streamPart s i.val) (t.u32 8) = none →
      ∃ u, exec c s = .next u ∧ Ended u i.val (Rec.abort 0x11 1 0 0 0) ∧ u.hif.writes = s.hif.writes ∧
        (∀ j, (stream u j).cpl = (stream s j).cpl))

/-- For a running SCATTER_ADD on its own table whose bags are all staged without a fault, whose reads the tokens admit and of which no claim is denied or lost: once the rounds of claims and applies have passed every bag, SCATTER_ADD answers a next state in which the task has ended, COUNT being the bags applied, COORD the entries pooled, SAT its saturation, RESULT the entries dropped and the status 2 where poison was added, else 0; where a bag is not yet applied, the task goes on waiting with its progress. On a handle that is not reachable it ends TS_DENIED 1, on a shared table TS_DENIED 2, with nothing applied. -/
def Obligations.ScatterTaskEnds : Prop :=
  ∀ (s : State) (i : SId) (t : TaskRun), runningTask s i.val 3 = some t →
    (∀ (tb : Table) (bags : List SaBag) (tr : List Acc) (t' : TaskRun) (s' : State),
      tableFor s (streamPart s i.val) (t.u32 8) = some tb → isShared s (streamPart s i.val) (t.u32 8) = false →
      saEval (taskCtx s i.val t) tb t.desc = .staged bags none tr → ReadsAdmitted s i.val t tr →
      saRounds i.val tb (sBody t.desc) bags (bags.length + 1) (readied s i.val t true tr).1 (readied s i.val t true tr).2 =
        (t', s') →
      saFailed t' Exch.denied = none → saFailed t' (fun e => e.why = 1 || e.why = 2) = none →
      (bags.length ≤ t'.progress →
        ∃ u r, exec (.scatterAdd i) s = .next u ∧ Ended u i.val r ∧ r.status = (if t'.poison then 2 else 0) ∧
          r.count = t'.progress ∧ r.coord = t'.total ∧ r.sat = t'.sat ∧ r.poison = t'.poison ∧
          r.dropped = decide (0 < t'.result) ∧ r.result = min t'.result (2 ^ 32 - 1)) ∧
      (t'.progress < bags.length →
        ∃ u x, exec (.scatterAdd i) s = .next u ∧ (stream u i.val).task = some x ∧ x.progress = t'.progress ∧
          x.done = t'.done)) ∧
    (tableFor s (streamPart s i.val) (t.u32 8) = none →
      ∃ u r, exec (.scatterAdd i) s = .next u ∧ Ended u i.val r ∧ r.status = 0x11 ∧ r.detail = 1 ∧ r.count = 0) ∧
    (∀ tb, tableFor s (streamPart s i.val) (t.u32 8) = some tb → isShared s (streamPart s i.val) (t.u32 8) = true →
      ∃ u r, exec (.scatterAdd i) s = .next u ∧ Ended u i.val r ∧ r.status = 0x11 ∧ r.detail = 2 ∧ r.count = 0)

/-- For a running FOLD of a partition's own placed table that no requantization and no other FOLD holds: with a claim outstanding, the row closes the gate, names the stream and changes nothing else; with none, FOLD_APPLY whose slots all can be read folds every slot and ends with COUNT the slots, COORD the rows written and the entries cleared, SAT, POISON (status 2) and the rows discarded; FOLD_DISCARD clears every slot, leaves no entry in use and ends with COUNT the slots and the entries that were in use in COORD; after either the gate is open. A FOLD while another stream's FOLD holds the ledger waits. On a handle that is not reachable it ends TS_DENIED 1, on a shared table TS_DENIED 2. -/
def Obligations.FoldTaskEnds : Prop :=
  ∀ (s : State) (i : SId) (act : Nat) (c : Instr) (t : TaskRun),
    (act = 0 ∧ c = .foldApply i ∨ act = 1 ∧ c = .foldDiscard i) → runningTask s i.val 4 = some t →
    t.u32 0x0C % 4 = act →
    (∀ tb g, tableFor s (streamPart s i.val) (t.u32 8) = some tb → isShared s (streamPart s i.val) (t.u32 8) = false →
      tb.placed = true → requantizing s (t.u32 8) = false → tb.fold = none →
      g = { tb with fold := some i.val, gateClosed := true } →
      (tb.claims ≠ [] → exec c s = .next (setTable s g)) ∧
      (tb.claims = [] → act = 0 →
        foldNeeds (taskCtx (setTable s g) i.val { t with waiting := false }) g = ([], none) →
        ReadsAdmitted (setTable s g) i.val { t with waiting := false }
          (foldTrace (taskCtx (setTable s g) i.val { t with waiting := false }) g) →
        ∃ u w a, exec c s = .next u ∧ u = afterFold w tb.handle ∧
          a = (foldSlots (taskCtx (setTable s g) i.val { t with waiting := false }) (fBody t.desc) tb.handle
            (2 ^ tb.ledgerLog2) (⟨0, 0, 0, 0, false, false⟩, (readied (setTable s g) i.val { t with waiting := false } false
              (foldTrace (taskCtx (setTable s g) i.val { t with waiting := false }) g)).2)).1 ∧
          Ended w i.val { Rec.ok (2 ^ tb.ledgerLog2) (min a.disc (2 ^ 32 - 1)) (a.rows + 2 ^ 32 * a.cleared) with
            status := if a.poison then 2 else 0, poison := a.poison, sat := a.sat } ∧
          (∀ h x, lk w.tables h = some x → x.fold ≠ some i.val)) ∧
      (tb.claims = [] → act = 1 →
        ∃ u w v, exec c s = .next u ∧ u = afterFold w tb.handle ∧
          v = (List.range (2 ^ tb.ledgerLog2)).foldl (fun s k => clearSlot s tb.handle k) (setTable s g) ∧
          w = endTask { cntAdd v (rk (streamFn v i.val) 0x3330) (2 ^ tb.ledgerLog2) with
              tables := adj v.tables tb.handle (fun x => { x with used := 0 }) } i.val { t with waiting := false }
            (Rec.ok (2 ^ tb.ledgerLog2) 0 (2 ^ 32 * ((List.range (2 ^ tb.ledgerLog2)).filter (fun k =>
              (ledBurst (setTable s g) g (k * tb.leb)).kind.bad ||
                hdrUsed (ledBurst (setTable s g) g (k * tb.leb)).bytes)).length)) ∧
          Ended w i.val (Rec.ok (2 ^ tb.ledgerLog2) 0 (2 ^ 32 * ((List.range (2 ^ tb.ledgerLog2)).filter (fun k =>
              (ledBurst (setTable s g) g (k * tb.leb)).kind.bad ||
                hdrUsed (ledBurst (setTable s g) g (k * tb.leb)).bytes)).length)) ∧
          (∀ h x, lk w.tables h = some x → x.fold ≠ some i.val))) ∧
    (∀ tb j, tableFor s (streamPart s i.val) (t.u32 8) = some tb → isShared s (streamPart s i.val) (t.u32 8) = false →
      tb.placed = true → requantizing s (t.u32 8) = false → tb.fold = some j → j ≠ i.val →
      ∃ u, exec c s = .next u ∧ (stream u i.val).task = some { t with waiting := true } ∧
        (∀ k, k ≠ i.val → stream u k = stream s k) ∧ u = { s with streams := u.streams }) ∧
    (tableFor s (streamPart s i.val) (t.u32 8) = none →
      ∃ u, exec c s = .next u ∧ Ended u i.val (Rec.abort 0x11 1 0 0 0)) ∧
    (∀ tb, tableFor s (streamPart s i.val) (t.u32 8) = some tb → isShared s (streamPart s i.val) (t.u32 8) = true →
      ∃ u, exec c s = .next u ∧ Ended u i.val (Rec.abort 0x11 2 0 0 0))

/-- For a running text task that holds a text unit, or gets one now, whose image is reachable, whose input can be read unpoisoned, whose output can be written and whose reads the tokens admit: TOKENIZE with a valid context or RESET, DETOKENIZE with a valid text state or RESET and every token in the vocabulary, and FORME_MASK likewise with no stack overflow answer a next state in which exactly the output's host writes are issued and the task has ended with COUNT 1, the bytes used and the run's result; DETOKENIZE and FORME_MASK leave the stream's text state as the run says. An image that the partition does not reach ends each TS_DENIED 1. -/
def Obligations.TextTasksEnd : Prop :=
  ∀ (s u : State) (i : SId) (t : TaskRun),
    (∀ p input tr ws tr' o cur, runningTask s i.val 5 = some t → u = (if onUnit s i.val then s else takeUnit s i.val 5) →
      onUnit u i.val = true → imgFor u.profiles (t.u32 8 % 16) (taskCtx u i.val t).part = some p →
      inputRead (taskCtx u i.val t) (t.u64 0x10) (t.u32 0x0C % 2 ^ 25) 1 = .ok input tr →
      cur = ctxCurrent (ctxCopy u p.ctxPages (t.u32 8 / 256 % 64) 0).1 (ctxCopy u p.ctxPages (t.u32 8 / 256 % 64) 1).1 →
      o = caseEval u t p (caseOld cur (bitOf (t.u32 8) 16)) input →
      outputWrite (taskCtx u i.val t) (t.u64 0x18) o.bytes 4 = .ok ws tr' →
      (cur.isSome = true ∨ bitOf (t.u32 8) 16 = true) → pbBad input = false → o.st.r.bad = false →
      ReadsAdmitted u i.val t (tr ++ [(ctxCopy u p.ctxPages (t.u32 8 / 256 % 64) 0).2,
        (ctxCopy u p.ctxPages (t.u32 8 / 256 % 64) 1).2] ++ o.st.r.tr.reverse) →
      ∃ v r, exec (.tokenize i) s = .next v ∧ Ended v i.val r ∧ r.count = 1 ∧ r.result = o.st.written ∧
        r.status = b2n o.st.forced.isSome ∧ r.forced = o.st.forced.isSome ∧
        r.coord = o.used + 2 ^ 32 * o.st.n.length + 2 ^ 46 * o.keep.length ∧
        v.hif.writes = s.hif.writes ++ hostWritesOf (streamFn s i.val) ws) ∧
    (∀ im toks tr ws tr' o, runningTask s i.val 6 = some t → u = (if onUnit s i.val then s else takeUnit s i.val 6) →
      onUnit u i.val = true → imgFor u.profiles (t.u32 8 % 16) (taskCtx u i.val t).part = some im →
      tokenInput (taskCtx u i.val t) t (bitOf (t.u32 8) 18) (t.u32 0x0C % 2 ^ 25) (t.u64 0x10) = .ok toks tr →
      o = proofEval u (stream u i.val).text t im toks →
      outputWrite (taskCtx u i.val t) (t.u64 0x18) o.p.out 1 = .ok ws tr' →
      ((stream u i.val).text.proofBad = false ∨ bitOf (t.u32 8) 16 = true) → o.fault = none →
      toks.any (·.2) = false → o.p.r.bad = false → ReadsAdmitted u i.val t (tr ++ o.p.r.tr.reverse) →
      ∃ v, exec (.detokenize i) s = .next v ∧ Ended v i.val o.record ∧ o.record.status = 0 ∧ o.record.count = 1 ∧
        o.record.result = o.p.out.length ∧ (stream v i.val).text = o.text (stream s i.val).text ∧
        v.hif.writes = s.hif.writes ++ hostWritesOf (streamFn s i.val) ws) ∧
    (∀ im toks tr ws tr' o, runningTask s i.val 7 = some t → u = (if onUnit s i.val then s else takeUnit s i.val 7) →
      onUnit u i.val = true → imgFor u.grammars (t.u32 8 % 32) (taskCtx u i.val t).part = some im →
      tokenInput (taskCtx u i.val t) t (bitOf (t.u32 8) 11) (t.u32 0x0C % 2 ^ 17) (t.u64 0x10) = .ok toks tr →
      o = formeEval u (stream u i.val).text t im toks →
      outputWrite (taskCtx u i.val t) (t.u64 0x18) o.mask 1 = .ok ws tr' →
      ((stream u i.val).text.formeBad = false ∨ bitOf (t.u32 8) 8 = true) → o.how ≠ .fault → o.how ≠ .overflow →
      toks.any (·.2) = false → o.r.bad = false → ReadsAdmitted u i.val t (tr ++ o.r.tr.reverse) →
      ∃ v, exec (.formeMask i) s = .next v ∧ Ended v i.val o.record ∧ o.record.status = 0 ∧ o.record.count = 1 ∧
        o.record.position = o.mask.length ∧ (stream v i.val).text = o.text (t.u32 8 % 32) (stream s i.val).text ∧
        v.hif.writes = s.hif.writes ++ hostWritesOf (streamFn s i.val) ws) ∧
    (∀ n c, (n = 5 ∧ c = .tokenize i ∨ n = 6 ∧ c = .detokenize i ∨ n = 7 ∧ c = .formeMask i) →
      runningTask s i.val n = some t → u = (if onUnit s i.val then s else takeUnit s i.val n) → onUnit u i.val = true →
      (n < 7 → imgFor u.profiles (t.u32 8 % 16) (taskCtx u i.val t).part = none) →
      (n = 7 → imgFor u.grammars (t.u32 8 % 32) (taskCtx u i.val t).part = none) →
      ∃ v, exec c s = .next v ∧ Ended v i.val (Rec.abort 0x11 1 0 0 0) ∧ v.hif.writes = s.hif.writes)

/-- For a running COPY whose ends it may reach: where the element being moved is the last, its bytes have landed, its destination can be written and the tokens admit its reads, the row answers a next state in which the element's host writes are issued and the task has ended with COUNT the number of elements and status 2 where an element was poisoned, else 0; with a chain as destination, once the element's record is linked; with a chain as source, once its record has been read. An end it may not reach ends it TS_DENIED. A running PREFETCH_HINT whose pages are all translated or refused, or need none, ends with COUNT its elements and RESULT the refusals, and holds its pages for the time it names; with pages unanswered it asks for them. -/
def Obligations.CopyAndHintEnd : Prop :=
  ∀ (s : State) (i : SId) (t : TaskRun) (p : Pattern), p = patternOf t.desc →
    (∀ b w tr, runningTask s i.val 8 = some t → copyDenied s i.val t = none → cpSrc t ≠ 3 → cpDst t ≠ 3 →
      t.progress + 1 = p.size →
      copyElem (taskCtx s i.val t) p (cpSrc t) (cpDst t) (t.u32 0x0C) (t.u64 0x18) t.progress = .ok (b, w) tr →
      ReadsAdmitted s i.val t tr →
      ∃ u r, exec (.copy i) s = .next u ∧ Ended u i.val r ∧ r.count = p.size ∧ r.poison = (t.poison || pbBad b) ∧
        r.status = (if t.poison || pbBad b then 2 else 0) ∧
        u.hif.writes = s.hif.writes ++ hostWritesOf (streamFn s i.val) w) ∧
    (∀ j b tr v, runningTask s i.val 8 = some t → copyDenied s i.val t = none → cpSrc t ≠ 3 → cpDst t = 3 →
      runs s 0 = true → chainOut s i.val = some j → t.progress + 1 = p.size →
      ((copySrc (taskCtx s i.val t) p (cpSrc t) (t.u32 0x0C) t.progress).at_ t.progress (fun o => (o, p.coord 0 t.progress))) =
        .ok b tr →
      ReadsAdmitted s i.val t tr → linkRecord (readied s i.val t false tr).2 (0x200 + j) b = (true, v) →
      (∃ x, (stream v i.val).task = some x ∧ x.done = none) →
      ∃ u r, exec (.copy i) s = .next u ∧ Ended u i.val r ∧ r.count = p.size ∧
        r.status = (if t.poison || pbBad b then 2 else 0)) ∧
    (∀ j bytes w tr, runningTask s i.val 8 = some t → copyDenied s i.val t = none → cpSrc t = 3 → cpDst t ≠ 3 →
      runs s 0 = true → chainIn s i.val = some j → (chainTask s i.val = true → t.passes ≠ 0) → t.progress + 1 = p.size →
      lk t.land t.progress = some (.data bytes) →
      ((copyDst (taskCtx s i.val t) p (cpDst t) (t.u32 0x0C) (t.u64 0x18) t.progress
          ((chunks 2 bytes).map (fun x => ⟨x.getD 0 0, x.getD 1 0 != 0⟩))).at_ t.progress
        (fun o => (o, 2 ^ 60 + p.coord 0 t.progress))) = .ok w tr →
      ∃ u r, exec (.copy i) s = .next u ∧ Ended u i.val r ∧ r.count = p.size ∧
        u.hif.writes = s.hif.writes ++ hostWritesOf (streamFn s i.val) w) ∧
    (∀ k, runningTask s i.val 8 = some t → copyDenied s i.val t = some k →
      ∃ u r, exec (.copy i) s = .next u ∧ Ended u i.val r ∧ r.status = 0x11 ∧ r.detail = k ∧ r.count = 0) ∧
    (runningTask s i.val 10 = some t → (isWindow p.base = true ∨ atsOn s (streamFn s i.val) = false) →
      ∃ u, exec (.prefetchHint i) s = .next u ∧ Ended u i.val (Rec.ok p.size 0 (2 ^ 64 - 1)) ∧
        (stream u i.val).holdUntil = s.clk.aon + t.u32 0x0C % 65536 * usT ∧ u.hif.writes = s.hif.writes) ∧
    (∀ no, runningTask s i.val 10 = some t → isWindow p.base = false → atsOn s (streamFn s i.val) = true →
      (∀ e, e < p.size → ∀ g ∈ elemPages p e, has s.hif.ats (atsKey (streamFn s i.val) g) = true) →
      no = (fun g => lk s.hif.ats (atsKey (streamFn s i.val) g) == some false) →
      ∃ u r, exec (.prefetchHint i) s = .next u ∧ Ended u i.val r ∧ r.status = 0 ∧ r.count = p.size ∧
        r.result = ((List.range p.size).map (fun e => ((elemPages p e).filter no).length)).sum ∧
        (stream u i.val).holdUntil = s.clk.aon + t.u32 0x0C % 65536 * usT) ∧
    (runningTask s i.val 10 = some t → isWindow p.base = false → atsOn s (streamFn s i.val) = true →
      ∀ e, e < p.size → ∀ g ∈ elemPages p e, has s.hif.ats (atsKey (streamFn s i.val) g) = false →
      ∃ u x, exec (.prefetchHint i) s = .next u ∧ (stream u i.val).task = some x ∧ x.done = none ∧
        (streamFn s i.val, g) ∈ u.hif.atsAsked)

/-- For a running LOCKUP task: a BARRIER short of its count waits in its group; the one that completes the count ends every arrived task with its arrival rank and forgets the group; one whose count differs from its group's ends as a bad descriptor. ACQUIRE of a local lock waits behind the waiters of its level and changes no other lock, and ends with RESULT 4 where the stream holds the lock. RELEASE of a local lock the stream holds frees it and ends with RESULT 0, of another RESULT 2. ACQUIRE of a member's lock sends one request and opens its lease; with a lease granted it ends with RESULT 4; RELEASE with no lease ends with RESULT 2. -/
def Obligations.LockupTasks : Prop :=
  ∀ (s : State) (i : SId) (t : TaskRun),
    (∀ k n b, runningLockup s i.val 0 = some t → t.waiting = false →
      k = streamPart s i.val * 64 + t.u32 0x10 % 64 → n = t.u32 0x10 / 256 % 128 →
      b = (lk s.locks.barriers k).getD ⟨n, []⟩ →
      (b.count = n → b.arrived.length + 1 < n →
        ∃ u, exec (.lockupBarrier i) s = .next u ∧
          lk u.locks.barriers k = some { b with arrived := b.arrived ++ [i.val] } ∧
          (∀ q, q ≠ k → lk u.locks.barriers q = lk s.locks.barriers q) ∧
          (stream u i.val).task = some { t with waiting := true } ∧ (∀ j, j ≠ i.val → stream u j = stream s j) ∧
          u = { s with streams := u.streams, locks := { s.locks with barriers := u.locks.barriers } }) ∧
      (b.count = n → n ≤ b.arrived.length + 1 → (b.arrived ++ [i.val]).Nodup →
        ∃ u, exec (.lockupBarrier i) s = .next u ∧ Ended u i.val (Rec.ok 1 (b.arrived.length % 256) 0) ∧
          (∀ r j x, b.arrived[r]? = some j → (stream s j).task = some x → x.done = none →
            Ended u j (Rec.ok 1 (r % 256) 0))) ∧
      (b.count ≠ n → ∃ u, exec (.lockupBarrier i) s = .next u ∧ Ended u i.val (Rec.abort 0x10 0x91 0 0 0))) ∧
    (∀ j, j = luLock t → runningLockup s i.val 1 = some t → luRemote t = false →
      ((lockOf s j).holder ≠ some (.strm i.val) → t.waiting = false →
        ∃ u w, exec (.lockupAcquire i) s = .next u ∧ w.who = .strm i.val ∧ w.want = strEff s i.val 0x0C ∧
          lockOf u j = { lockOf s j with waiters := insertWaiter w (lockOf s j).waiters } ∧
          (∀ k, k ≠ j → lockOf u k = lockOf s k) ∧ (stream u i.val).task = some { t with waiting := true } ∧
          u = { s with streams := u.streams, locks := u.locks }) ∧
      ((lockOf s j).holder = some (.strm i.val) →
        ∃ u, exec (.lockupAcquire i) s = .next u ∧ Ended u i.val (Rec.ok 1 4 0))) ∧
    (∀ j, j = luLock t → runningLockup s i.val 2 = some t → luRemote t = false →
      ((lockOf s j).holder = some (.strm i.val) →
        ∃ u, exec (.lockupRelease i) s = .next u ∧ Ended u i.val (Rec.ok 1 0 0) ∧ u.locks = (freeLock s j).locks) ∧
      ((lockOf s j).holder ≠ some (.strm i.val) →
        ∃ u, exec (.lockupRelease i) s = .next u ∧ Ended u i.val (Rec.ok 1 2 0) ∧ u.locks = s.locks)) ∧
    (∀ d j, d = luDev t → j = luLock t → runningLockup s i.val 1 = some t → luRemote t = true →
      (leaseFor s i.val d j = none → mayOpen s d t.admitted = true → lk t.ex 1 = none →
        ∃ u l x, exec (.lockupAcquire i) s = .next u ∧ u.locks.leases = s.locks.leases ++ [l] ∧
          l.dev = d ∧ l.lock = j ∧ l.strm = i.val ∧ l.granted = false ∧ l.lost = false ∧ l.answered = s.clk.timer ∧
          (stream u i.val).task = some x ∧ x.waiting = true ∧ (∃ e, lk x.ex 1 = some e ∧ e.dst = d ∧ e.reqId = l.req)) ∧
      (∀ l, leaseFor s i.val d j = some l → l.granted = true → l.lost = false →
        ∃ u, exec (.lockupAcquire i) s = .next u ∧ Ended u i.val (Rec.ok 1 4 0))) ∧
    (∀ d j, d = luDev t → j = luLock t → runningLockup s i.val 2 = some t → luRemote t = true →
      (leaseFor s i.val d j = none → ∃ u, exec (.lockupRelease i) s = .next u ∧ Ended u i.val (Rec.ok 1 2 0)) ∧
      (∀ l, leaseFor s i.val d j = some l → l.lost = false → lk t.ex 1 = none →
        ∃ u x, exec (.lockupRelease i) s = .next u ∧ (stream u i.val).task = some x ∧ x.waiting = true ∧
          (∃ e, lk x.ex 1 = some e ∧ e.dst = d)))

/-- For a running task whose next read lands in a slug in service: with fewer reads outstanding than DEPTH, a landing place, a token in the stream's bucket and in its partition's and fewer than 12 reads in the channel's queue, READ_ISSUE answers a next state in which the read stands last in the channel's queue and counts as issued, and each bucket has one token less; with no token nothing is issued and the partition's refusal is noted; with DEPTH reached or the channel full nothing changes. Other streams and other channels' queues never change. -/
def Obligations.ReadsTakeTokens : Prop :=
  ∀ (s : State) (i : SId) (t : TaskRun) (a : Acc) (c : Nat) (l : Nat) (p : Nat),
    (stream s i.val).task = some t → t.done = none → engineOk s t.type = true → p = streamPart s i.val →
    (planReads s i.val t)[t.issued - t.base]? = some a → a.pa < spillBase →
    slugLoc s (a.pa / 65536) (a.pa / 256 % 256) = .at_ c l →
    (outstanding s i.val < strEff s i.val 0x30 % 1024 → t.issued < landRoom s i.val t (planReads s i.val t) →
      (0 < tokens s i.val → (lkD s.mem.reorder c []).length < 12 →
        ∃ u, exec (.readIssue i) s = .next u ∧
          lkD u.mem.reorder c [] = lkD s.mem.reorder c [] ++
            [⟨i.val, t.issued, a.pa, cdiv (a.pa % 64 + a.len) 64⟩] ∧
          (∀ d, d ≠ c → lkD u.mem.reorder d [] = lkD s.mem.reorder d []) ∧
          (stream u i.val).task = some { t with issued := t.issued + 1 } ∧
          (stream u i.val).level = (stream s i.val).level - 1 ∧
          (∀ q, lk s.quo p = some q → lk u.quo p = some { q with level := q.level - 1 }) ∧
          (∀ j, j ≠ i.val → stream u j = stream s j)) ∧
      (tokens s i.val = 0 →
        ∃ u, exec (.readIssue i) s = .next u ∧ (∀ q, lk s.quo p = some q →
            lk u.quo p = some { q with refused := q.refused || q.level == 0 }) ∧ u = { s with quo := u.quo }) ∧
      (0 < tokens s i.val → 12 ≤ (lkD s.mem.reorder c []).length → exec (.readIssue i) s = .next s)) ∧
    (strEff s i.val 0x30 % 1024 ≤ outstanding s i.val ∨ landRoom s i.val t (planReads s i.val t) ≤ t.issued →
      exec (.readIssue i) s = .next s)

/-- With the CORE domain running: FILL_HALF_GRANT of a core whose fill half is free answers a next state in which the half holds the pending segment it may take of the highest STR_PRIO, the task's grants rise by one and the other cores stand, or, with none pending, changes nothing; HALF_SWAP of a core whose fill half has landed wholly and whose work half is free or handed on makes the fill half the work half, and otherwise changes nothing; CHASE_PASS of a core at its task's last segment, or with the next segment's core at work, hands on once and the task's passes rise by one. -/
def Obligations.CoreHalves : Prop :=
  ∀ (s : State) (n : CoreId), runs s 0 = true →
    ((core s n.val).fill = none → (∀ g, (core s n.val).work = some g → g.whole = true → (core s n.val).handed = true) →
      (∀ t g, nextSeg s n.val = some (t, g) →
        ∃ u, exec (.fillHalfGrant n) s = .next u ∧ (core u n.val).fill = some g ∧
          (stream u g.strm).task = some { t with granted := t.granted + 1 } ∧
          (∀ m, m ≠ n.val → core u m = core s m) ∧ (∀ j, j ≠ g.strm → stream u j = stream s j) ∧
          (∀ j t' g', has s.streams j = true → pendingSeg s j = some (t', g') → coreTakes s n.val g' = true →
            strEff s g.strm 0x0C ≤ strEff s g'.strm 0x0C)) ∧
      (nextSeg s n.val = none → exec (.fillHalfGrant n) s = .next s)) ∧
    (∀ g, (core s n.val).fill = some g → landed s g = true →
      (core s n.val).work = none ∨ (core s n.val).handed = true →
      ∃ u, exec (.halfSwap n) s = .next u ∧ core u n.val = ⟨some g, none, false⟩ ∧
        (∀ m, m ≠ n.val → core u m = core s m) ∧ u = { s with cores := u.cores }) ∧
    ((core s n.val).fill = none ∨ (∃ g, (core s n.val).fill = some g ∧ landed s g = false) →
      exec (.halfSwap n) s = .next s) ∧
    (∀ g t, (core s n.val).work = some g → (core s n.val).handed = false → (stream s g.strm).task = some t →
      (segEnds (segLimit s g.strm) (planReads s g.strm t) 0 0).length ≤ g.num + 1 →
      ∃ u, exec (.chasePass n) s = .next u ∧ core u n.val = { core s n.val with handed := true } ∧
        (stream u g.strm).task = some { t with passes := t.passes + 1 } ∧
        (∀ m, m ≠ n.val → core u m = core s m) ∧ u = { s with cores := u.cores, streams := u.streams })

/-- For a task in flight with a host read outstanding, HOST_STALL_TIMEOUT once STR_HSTALL milliseconds (at least one) have passed since the timer started, and HOST_COMPLETION_TIMEOUT at any time, answer a next state in which the task has ended with status TS_HOST_STALL, detail 3 and COUNT its progress, and the stream admits no further task until its record is written; before the limit, or with nothing outstanding, the rows change nothing. A completion timeout of a descriptor read fetches that many descriptors that could not be read, and ends the read. -/
def Obligations.HostStalls : Prop :=
  (∀ (s : State) (i : SId) (t : TaskRun), s.pwr.off = false → (stream s i.val).task = some t → t.done = none →
    (∀ c, (∃ a, c = .hostStallTimeout i ∧ t.stallAt = some a ∧
          a + max 1 (strEff s i.val 0x2C % 1024) * msT ≤ s.clk.timer) ∨
        (c = .hostCompletionTimeout i ∧ t.asked ≠ []) →
      ∃ u r, exec c s = .next u ∧ Ended u i.val r ∧ r.status = 0x15 ∧ r.detail = 3 ∧ r.count = t.progress ∧
        (stream u i.val).stallHold = true ∧ (stream u i.val).cpl = (stream s i.val).cpl ∧
        u.hif.writes = s.hif.writes) ∧
    (t.stallAt = none ∨ (∃ a, t.stallAt = some a ∧ s.clk.timer < a + max 1 (strEff s i.val 0x2C % 1024) * msT) →
      exec (.hostStallTimeout i) s = .next s) ∧
    (t.asked = [] → exec (.hostCompletionTimeout i) s = .next s)) ∧
  (∀ (s : State) (i : SId) (a n : Nat), s.pwr.off = false → (stream s i.val).task = none →
    (stream s i.val).fetchAsked = some (a, 64 * n) →
    ∃ u, exec (.hostCompletionTimeout i) s = .next u ∧ (stream u i.val).fetchAsked = none ∧
      (stream u i.val).head = (stream s i.val).head + BitVec.ofNat 32 n ∧
      (∀ j, j ≠ i.val → stream u j = stream s j))

/-- For a queue that can be used (after the upsets the row brings), whose copies agree where it is guarded: MARK sets MARK to RD, valid; REWIND moves RD back to MARK, or to HEAD without a mark, and UNREAD grows by the cells between; RELEASE frees the cells from HEAD to RD, moves HEAD there and clears the mark; RELEASE_MARK does so up to MARK and keeps it, and without a mark does nothing; READ delivers the cell at RD, where its words can be read, and advances RD, frees nothing, and delivers nothing where UNREAD is 0. Other queues keep their positions. Where a guarded queue's copies disagree, the queue is reset by force instead. -/
def Obligations.GalleyConsumerOperations : Prop :=
  ∀ (s u : State) (q : Qid) (ups : List GalUpset) (x : GQueue), u = galUpsets s ups →
    (QueueReady u q.val x [2] →
      ∃ t y, exec (.mark q ups) s = .next t ∧ gq t q.val = some y ∧ y.val 1 = x.val 2 ∧ y.markValid = true ∧
        (∀ c, c ≠ 1 → y.val c = x.val c) ∧ (∀ k, k ≠ q.val → gq t k = gq u k) ∧
        t = { u with gal := { u.gal with queues := t.gal.queues } }) ∧
    (∀ l, QueueReady u q.val x [0, 1, 2, 3, 4, 5] →
      walkCells u q.val (x.val 2) (x.val 3) 65537 (if x.markValid then x.val 1 else x.val 0) = .ok l →
      ∃ t y, exec (.rewind q ups) s = .next t ∧ gq t q.val = some y ∧
        y.val 2 = (if x.markValid then x.val 1 else x.val 0) ∧ y.val 5 = x.val 5 + l.length ∧
        y.markValid = x.markValid ∧ (∀ c, c ≠ 2 → c ≠ 5 → y.val c = x.val c) ∧
        (∀ k, k ≠ q.val → gq t k = gq u k) ∧ t = { u with gal := { u.gal with queues := t.gal.queues } }) ∧
    (∀ l, QueueReady u q.val x [0, 2, 4, 7] → walkCells u q.val (x.val 2) (x.val 3) 65537 (x.val 0) = .ok l →
      ∃ t y, exec (.release q ups) s = .next t ∧ gq t q.val = some y ∧ y.val 0 = x.val 2 ∧ y.markValid = false ∧
        y.val 4 = x.val 4 - l.length ∧ y.val 7 = (x.val 7 + (l.filter (fun e => e.2.last)).length) % 2 ^ 32 ∧
        (∀ c, c = 1 ∨ c = 2 ∨ c = 5 ∨ c = 6 → y.val c = x.val c) ∧
        t.gal.freeP.getD 2 0 = u.gal.freeP.getD 2 0 + l.length ∧ (∀ k, k ≠ q.val → gq t k = gq u k) ∧
        t = { u with gal := t.gal } ∧ t.gal.words = u.gal.words) ∧
    (∀ l, QueueReady u q.val x [0, 1, 4, 7] → x.markValid = true →
      walkCells u q.val (x.val 1) (x.val 3) 65537 (x.val 0) = .ok l →
      ∃ t y, exec (.releaseMark q ups) s = .next t ∧ gq t q.val = some y ∧ y.val 0 = x.val 1 ∧ y.markValid = true ∧
        y.val 4 = x.val 4 - l.length ∧ y.val 7 = (x.val 7 + (l.filter (fun e => e.2.last)).length) % 2 ^ 32 ∧
        (∀ c, c = 1 ∨ c = 2 ∨ c = 5 ∨ c = 6 → y.val c = x.val c) ∧
        t.gal.freeP.getD 2 0 = u.gal.freeP.getD 2 0 + l.length ∧ (∀ k, k ≠ q.val → gq t k = gq u k) ∧
        t = { u with gal := t.gal } ∧ t.gal.words = u.gal.words) ∧
    (QueueReady u q.val x [0, 1, 4, 7] → x.markValid = false → exec (.releaseMark q ups) s = .next u) ∧
    (∀ m ws v, QueueReady u q.val x [2, 3, 5] → x.emptySeen q.val = false → x.val 2 ≠ qEnd → x.val 5 ≠ 0 →
      reach u q.val (x.val 2) = .ok m → readWords u x.owner (x.val 2) ((m.lenm1 + 8) / 8) = (ws, none, v) →
      ∃ t y, exec (.read q ups) s = .next t ∧ lk t.gal.queues q.val = some y ∧
        y.val 2 = (if x.val 2 = x.val 3 then qEnd else m.next) ∧ y.val 5 = x.val 5 - 1 ∧
        (∀ c, c ≠ 2 → c ≠ 5 → y.val c = x.val c) ∧ y.markValid = x.markValid ∧
        t.gal.reads = v.gal.reads ++ [⟨q.val, x.val 2, ws, m.lenm1 + 1, m.last, m.poison, false⟩] ∧
        t = { v with gal := { v.gal with queues := t.gal.queues, reads := t.gal.reads } }) ∧
    (QueueReady u q.val x [2, 3, 5] → x.val 2 = qEnd → x.val 5 = 0 →
      ∃ t y, exec (.read q ups) s = .next t ∧ gq t q.val = some y ∧ y.prim = x.prim ∧ y.shad = x.shad ∧
        t = { u with gal := { u.gal with queues := t.gal.queues } }) ∧
    (∀ v, runs u 0 = true → gq u q.val = some x → guarded u q.val = true →
      (copyFault x [2] = some v → exec (.mark q ups) s = .next (forcedReset u q.val v 2)) ∧
      (copyFault x [2, 3, 5] = some v → exec (.read q ups) s = .next (forcedReset u q.val v 1)) ∧
      (copyFault x [0, 1, 2, 3, 4, 5] = some v → exec (.rewind q ups) s = .next (forcedReset u q.val v 3)) ∧
      (copyFault x [0, 2, 4, 7] = some v → exec (.release q ups) s = .next (forcedReset u q.val v 4)) ∧
      (copyFault x [0, 1, 4, 7] = some v → exec (.releaseMark q ups) s = .next (forcedReset u q.val v 5)))

/-- ENQ into a queue that holds a granted cell writes the words and the metadata, links the cell after TAIL and counts it in HELD, UNREAD and, with LAST, UNITS_IN; then only a cross-domain port may ask for a further cell. TRIM leaves the cells up to the last LAST, the port's granted cells go, PRODUCER_ABORTED reads 1. RESET leaves the queue empty with MARK_VALID 0 and no request of it waiting. CELL_GRANT with one request that R256 grants moves the cell at the head of the free list to the queue; where no request can be granted nothing changes; a faulty free list is rebuilt first. GALLEY_SCRUB steps its cursor over a cell that reads clean, and counts the pass at the last cell. Upsets that a row brings come first. -/
def Obligations.GalleyProducerOperations : Prop :=
  ∀ (s u : State) (q : Qid) (ups : List GalUpset) (x : GQueue), u = galUpsets s ups →
    (∀ words last p c r v, dpStop s = false → v = demandOn u 0 → gq v q.val = some x → x.headroom = c :: r →
      x.prim.length = 8 → x.shad.length = 8 → (guarded v q.val = true → copyFault x [3, 4, 5, 6] = none) →
      (x.val 3 = qEnd ∨ ∃ m, reach v q.val (x.val 3) = .ok m) → c < qEnd → words.length ≤ 32 →
      ∃ t y, exec (.enq q words last p ups) s = .next (fillHeadroom t q.val) ∧
        (crosses q.val = false → fillHeadroom t q.val = t) ∧ gq t q.val = some y ∧ y.val 3 = c ∧
        y.val 4 = x.val 4 + 1 ∧ y.val 5 = x.val 5 + 1 ∧ y.val 6 = (if last then (x.val 6 + 1) % 2 ^ 32 else x.val 6) ∧
        y.val 0 = (if x.val 0 = qEnd then c else x.val 0) ∧ y.headroom = r ∧ y.aborted = false ∧
        (∀ i w, words[i]? = some w → rawWord t c i = hamEnc 64 7 w.toNat) ∧
        (∀ k, (k < c * 32 ∨ c * 32 + 32 ≤ k) → lkD t.gal.words k 0 = lkD u.gal.words k 0) ∧
        (∀ k, k ≠ q.val → gq t k = gq u k) ∧ t = { u with gal := t.gal, pwr := t.pwr }) ∧
    (∀ l, QueueReady u q.val x [0, 1, 2, 3, 4, 5] → walkCells u q.val qEnd (x.val 3) 65537 (x.val 0) = .ok l →
      ∃ t y, exec (.trim q ups) s = .next t ∧ gq t q.val = some y ∧ y.val 4 = keptLen l ∧
        y.val 3 = (if keptLen l = 0 then qEnd else match l[keptLen l - 1]? with | some e => e.1 | none => qEnd) ∧
        (keptLen l = 0 → y.val 0 = qEnd) ∧ y.headroom = [] ∧ y.aborted = true ∧ y.trimmed = true ∧
        y.markValid = x.markValid ∧ (∀ k, k ≠ q.val → gq t k = gq u k) ∧ t = { u with gal := t.gal } ∧
        t.gal.words = u.gal.words) ∧
    (runs s 0 = true → gq s q.val = some x → unreadable s = [] →
      ∃ t y, exec (.reset q) s = .next t ∧ gq t q.val = some y ∧
        y.prim = [qEnd, qEnd, qEnd, qEnd, 0, 0, 0, 0] ∧ y.shad = [qEnd, qEnd, qEnd, qEnd, 0, 0, 0, 0] ∧
        y.markValid = false ∧ y.headroom = [] ∧ (∀ r ∈ t.gal.waiting, r.q ≠ q.val) ∧
        (∀ k, k ≠ q.val → gq t k = gq s k) ∧ t = { s with gal := t.gal } ∧ t.gal.words = s.gal.words) ∧
    (∀ r a, runs s 0 = true → freeListOk s = true → s.gal.waiting = [r] → gq s r.q = some x →
      grantAcct s r.q x = some a → s.gal.freeP.getD 2 0 ≠ 0 →
      ∃ t y, exec .cellGrant s = .next t ∧ gq t r.q = some y ∧
        y.headroom = x.headroom ++ [s.gal.freeP.getD 0 0] ∧ y.prim = x.prim ∧ y.shad = x.shad ∧ t.gal.waiting = [] ∧
        t.gal.freeP.getD 2 0 = s.gal.freeP.getD 2 0 - 1 ∧ (∀ k, k ≠ r.q → gq t k = gq s k) ∧
        t = { s with gal := t.gal, cfg := { s.cfg with cnt := t.cfg.cnt }, rr := t.rr }) ∧
    (runs s 0 = true → freeListOk s = true → (∀ r ∈ s.gal.waiting, grantTo s r.q = none) →
      exec .cellGrant s = .next s) ∧
    (runs s 0 = true → freeListOk s = false → s.gal.waiting = [] → exec .cellGrant s = .next (rebuild s)) ∧
    (s.pwr.off = false → runs s 0 = true → s.bg.galCursor < 65536 →
      s.bg.galCursor * (mgmt u 12 * msT) ≤ (lkD s.pwr.ran 0 0 - s.bg.galAt) * 65536 →
      (∀ w < 32, ∃ d, hamDec 64 7 (rawWord u s.bg.galCursor w) = some (d, false)) →
      (entry u s.bg.galCursor ≠ none) →
      exec (.galleyScrub ups) s = .next (if s.bg.galCursor + 1 < 65536
        then { u with bg := { s.bg with galCursor := s.bg.galCursor + 1 } }
        else cntAdd { u with bg := { s.bg with galCursor := 0, galAt := lkD s.pwr.ran 0 0 } } (telKey 0x80C) 1))

/-- EVENT_POST on a powered device gives the record to each of its logs, each log once, in rising order (partitions, the driver domain, the global log), with the consecutive numbers the one counter reads: the log's slot then holds the record with its number and its LIDX, or, where it could not be staged, the log's losses name that number. The counter moves on by the number of logs, so a record posted later carries a higher number; it is zero at reset. Nothing but the event log changes, and other logs stay as they are. -/
def Obligations.RecordsAreStamped : Prop :=
  State.reset.evt.seq = 0 ∧
  ∀ (s : State) (logs : List LogId) (r : EvRec), s.pwr.off = false →
    ∀ ns, ns = (List.range 34).filter (fun n => (logs.map LogId.num).contains n) →
    ∃ t, exec (.eventPost logs r) s = .next t ∧ t = { s with evt := t.evt } ∧ t.evt.seq = s.evt.seq + ns.length ∧
      (∀ i l, ns[i]? = some l →
        (lkD t.evt.logs l LogSt.empty).posted = (lkD s.evt.logs l LogSt.empty).posted + 1 ∧
        ((∃ x, lk (lkD t.evt.logs l LogSt.empty).slots ((lkD s.evt.logs l LogSt.empty).posted % logSlots l) = some x ∧
            x.seq = s.evt.seq + i ∧ x.lidx = (lkD s.evt.logs l LogSt.empty).posted % 2 ^ 32 ∧ x.time = s.clk.aon ∧
            x.device = s.ident.podId ∧ x.r = r) ∨
          ((lkD t.evt.logs l LogSt.empty).lossLastSeq = s.evt.seq + i ∧
            (lkD t.evt.logs l LogSt.empty).lost = (lkD s.evt.logs l LogSt.empty).lost + 1))) ∧
      (∀ l, l ∉ ns → lk t.evt.logs l = lk s.evt.logs l)

/-- LOST_SUMMARY posts, to a log whose losses can be told, one record of their number and their first and last LIDX and SEQ, and clears the count; with no loss anywhere it changes nothing. NOR_WRITE moves the oldest staged record to the end of the ring's current block; where the block holds 1,023 records the next block becomes current, and the block after that is erased and its erases rise. NOR_BUCKET_REFILL takes 25,000,000 off an accumulator that has reached it and gives the bucket a token, up to 65,536; below that it changes nothing. Only the event log changes. -/
def Obligations.EventLogKeeping : Prop :=
  ∀ (s : State), s.pwr.off = false →
    ((∀ l < 34, (lkD s.evt.logs l LogSt.empty).lossCnt = 0) → exec .lostSummary s = .next s) ∧
    (∀ k x, k < 34 → lk s.evt.logs k = some x → x.lossCnt ≠ 0 → canStage s.evt (k == globalLog) = true →
      (∀ l < 34, l ≠ k → (lkD s.evt.logs l LogSt.empty).lossCnt = 0) →
      ∃ t, exec .lostSummary s = .next t ∧ (lkD t.evt.logs k LogSt.empty).lossCnt = 0 ∧
        t.evt.seq = s.evt.seq + 1 ∧
        Recorded { s with evt := { s.evt with logs := put s.evt.logs k { x with lossCnt := 0 } } } t k
          (evRec 0x0F01 2 (if k = globalLog then 63 else k) x.lossCnt
            (x.lossFirst % 2 ^ 32 + 2 ^ 32 * (x.lossLast % 2 ^ 32)) x.lossFirstSeq x.lossLastSeq)) ∧
    (s.evt.staged = [] → exec .norWrite s = .next s) ∧
    (∀ x r b, s.evt.staged = x :: r → b = lkD s.evt.ring s.evt.cur NorBlock.empty → b.recs.length < 1023 →
      exec .norWrite s = .next { s with evt := { s.evt with
        staged := r, ring := put s.evt.ring s.evt.cur (if b.recs.isEmpty
          then { b with boot := s.evt.boot, firstSeq := x.seq, recs := [x] } else { b with recs := b.recs ++ [x] }) } }) ∧
    (∀ x r, s.evt.staged = x :: r → 1023 ≤ (lkD s.evt.ring s.evt.cur NorBlock.empty).recs.length → s.evt.cur < 128 →
      ∃ t, exec .norWrite s = .next t ∧ t.evt.staged = r ∧ t.evt.cur = (s.evt.cur + 1) % 128 ∧
        (lkD t.evt.ring t.evt.cur NorBlock.empty).recs = [x] ∧
        (lkD t.evt.ring t.evt.cur NorBlock.empty).firstSeq = x.seq ∧
        (lkD t.evt.ring ((s.evt.cur + 2) % 128) NorBlock.empty).recs = [] ∧
        (lkD t.evt.ring ((s.evt.cur + 2) % 128) NorBlock.empty).erases =
          (lkD s.evt.ring ((s.evt.cur + 2) % 128) NorBlock.empty).erases + 1 ∧
        (∀ k, k ≠ (s.evt.cur + 1) % 128 → k ≠ (s.evt.cur + 2) % 128 → lk t.evt.ring k = lk s.evt.ring k) ∧
        t = { s with evt := { s.evt with staged := t.evt.staged, cur := t.evt.cur, ring := t.evt.ring } }) ∧
    (25000000 ≤ s.evt.acc → exec .norBucketRefill s =
      .next { s with evt := { s.evt with acc := s.evt.acc - 25000000, bucket := min 65536 (s.evt.bucket + 1) } }) ∧
    (s.evt.acc < 25000000 → exec .norBucketRefill s = .next s)

/-- With MEMC running: READ_DATA_RETURN takes the oldest read off a channel's queue, gives it back to its task, counts it and no more where it reads clean. CE_WRITE_BACK stores the repaired burst where it still reads CORRECTED, else drops the repair. WCB_WRITE_BACK merges an entry whose wait has ended. MR4_READ keeps a rank's temperature and multiplier; PER_BANK_REFRESH restarts a rank's interval once 3.906 us over the larger multiplier has passed; PAGE_ZEROED zeroes a page that waits and frees it. MEM_CE_SUMMARY and CHANNEL_DROP_SUMMARY, once a second, post one record of the second's count and clear it, and post none for a count of 0. -/
def Obligations.MemoryRows : Prop :=
  ∀ (s : State) (c : Ch),
    (∀ r rest, runs s 1 = true → lkD s.mem.reorder c.val [] = r :: rest →
      (s.mem.burstCap = 0 ∨ lkD s.mem.issued c.val 0 + (r.bursts + 1) ≤ s.mem.burstCap) →
      ∀ u, u = { s with mem := { s.mem with
        issued := put s.mem.issued c.val (lkD s.mem.issued c.val 0 + (r.bursts + 1))
        reorder := setD s.mem.reorder c.val rest [] } } →
      (∀ b ∈ touched r.pa (64 * r.bursts - r.pa % 64), ∃ l, slugLoc u b.1 b.2.1 = .at_ c.val l ∧
        (burstRead u ⟨c.val, l, b.2.2⟩).kind = .clean) →
      exec (.readDataReturn c []) s = .next (match (stream u r.stream).task with
        | some t => if t.done = none ∧ r.seqNo < t.issued
            then setTask u r.stream { t with returned := t.returned ++ [r.seqNo] } else u
        | none => u)) ∧
    (runs s 1 = true → lkD s.mem.reorder c.val [] = [] → ∀ errs, exec (.readDataReturn c errs) s = .next s) ∧
    (∀ k d, runs s 1 = true → chOn s c.val = true →
      s.mem.ceBack.find? (fun e => (BRef.ofKey e.1).ch == c.val) = some (k, d) →
      (s.mem.burstCap = 0 ∨ lkD s.mem.issued c.val 0 + 2 ≤ s.mem.burstCap) →
      ∀ u, u = { s with mem := { s.mem with
        issued := put s.mem.issued c.val (lkD s.mem.issued c.val 0 + 2)
        ceBack := s.mem.ceBack.filter (fun e => e.1 != k) } } →
      exec (.ceWriteBack c) s = .next (if (dramRead u (BRef.ofKey k)).kind = .corrected
        then burstStore u (BRef.ofKey k) (dramRead u (BRef.ofKey k)).bytes false else u)) ∧
    (∀ w, runs s 1 = true → lkD s.mem.wcb c.val [] = [w] → w.due ≤ s.clk.aon →
      (s.mem.burstCap = 0 ∨ lkD s.mem.issued c.val 0 + 2 ≤ s.mem.burstCap) →
      ∀ u, u = { s with mem := { s.mem with
        issued := put s.mem.issued c.val (lkD s.mem.issued c.val 0 + 2), wcb := setD s.mem.wcb c.val [] [] } } →
      (dramRead u (BRef.ofKey w.burst)).kind = .clean →
      exec (.wcbWriteBack c) s = .next (burstStore u (BRef.ofKey w.burst)
        (overlay (dramRead u (BRef.ofKey w.burst)).bytes w.bytes) w.poison)) ∧
    (∀ (rank : Fin 3) (temp : Byte) (m : Fin 3), isDue s (.mr4 c.val rank.val) = true → runs s 1 = true →
      chOn s c.val = true → rank.val < ranks s →
      ∃ t, exec (.mr4Read c rank temp m) s = .next t ∧ lkD t.mem.mr4Temp c.val 0 = temp.toNat ∧
        lkD t.mem.mr4Mult (4 * c.val + rank.val) 0 = m.val ∧ isDue t (.mr4 c.val rank.val) = false ∧
        t = { s with clk := { s.clk with due := t.clk.due },
                     mem := { s.mem with mr4Temp := t.mem.mr4Temp, mr4Mult := t.mem.mr4Mult } }) ∧
    (∀ rank : Fin 3, runs s 1 = true → chOn s c.val = true → rank.val < ranks s →
      exec (.perBankRefresh c rank) s =
        .next (if 3906 ≤ (s.clk.aon - lkD s.mem.refreshAt (4 * c.val + rank.val) 0) * 40 *
            2 ^ max (min s.pwr.step 2) (lkD s.mem.mr4Mult (4 * c.val + rank.val) 0)
          then { s with mem := { s.mem with refreshAt := put s.mem.refreshAt (4 * c.val + rank.val) s.clk.aon } } else s)) ∧
    (∀ p q, pageUse s p = .zeroing q → runs s 1 = true →
      ∃ t, exec (.pageZeroed p) s = .next t ∧ pageUse t p = .free ∧ (∀ k, k ≠ p → lk t.pages k = lk s.pages k) ∧
        t = { zeroPage s p with pages := t.pages }) ∧
    (isDue s (.ceSum c.val) = true → s.pwr.off = false →
      ∃ t, exec (.memCeSummary c) s = .next t ∧ lkD t.mem.ceRun c.val 0 = 0 ∧ isDue t (.ceSum c.val) = false ∧
        t.evt = (if lkD s.mem.ceRun c.val 0 = 0 then s.evt
          else (postG s 0x0402 1 c.val (lkD s.mem.ceRun c.val 0) (lkD s.mem.ceLast c.val 0) 0).evt) ∧
        t = { s with clk := { s.clk with due := t.clk.due }, evt := t.evt, mem := { s.mem with ceRun := t.mem.ceRun } }) ∧
    (isDue s (.drop c.val) = true → s.pwr.off = false →
      ∃ t, exec (.channelDropSummary c) s = .next t ∧ lkD t.mem.dropRun c.val 0 = 0 ∧ isDue t (.drop c.val) = false ∧
        t.evt = (if lkD s.mem.dropRun c.val 0 = 0 then s.evt
          else (postG s 0x0405 4 c.val (lkD s.mem.dropRun c.val 0) 0 0).evt) ∧
        t = { s with clk := { s.clk with due := t.clk.due }, evt := t.evt, mem := { s.mem with dropRun := t.mem.dropRun } })

/-- A PATROL_SCRUB_GROUP that is due, with room in the queue and under the cap, moves the channel's cursor to the next group, or to 0 at the end of the pass. SCRUB_BATCH opens a batch where MEMC idles, groups are due and SCRUB_BATCH_MS has passed, and closes it when none is due. SCRUB_RATE_LOOP moves the step by Table 19.3: up while CE_H is above SCRUB_CE_HI, down after 24 low hours, to 7 with a UE. A due CALIBRATION_SLOT or RETRAIN_PIECE begins where the queue is empty and is deferred where it is not; a retrain has 20 pieces. AGING_SAMPLE moves g by at most 1 mV toward ceil(d / 500), never down and never past 20. -/
def Obligations.ScrubAndCalibration : Prop :=
  ∀ (s : State) (c : Ch),
    (∀ errs, isDue s (.group c.val) = true → runs s 1 = true → lkD s.mem.chState c.val 0 = 0 →
      groupDue s c.val = true → (lkD s.mem.reorder c.val []).length ≤ 8 →
      (s.mem.burstCap = 0 ∨ lkD s.mem.issued c.val 0 + 64 ≤ s.mem.burstCap) →
      ∃ t, exec (.patrolScrubGroup c errs) s = .next t ∧
        lkD t.bg.cursor c.val 0 = (if scrubGroups s ≤ lkD s.bg.cursor c.val 0 + 1 then 0
          else lkD s.bg.cursor c.val 0 + 1) ∧
        lkD t.mem.issued c.val 0 = lkD s.mem.issued c.val 0 + 64 ∧ isDue t (.group c.val) = false ∧
        t = { s with mem := t.mem, cfg := { s.cfg with cnt := t.cfg.cnt }, clk := { s.clk with due := t.clk.due }, evt := t.evt, bg := { s.bg with cursor := t.bg.cursor, passAt := t.bg.passAt } }) ∧
    (∀ errs, groupDue s c.val = false → exec (.patrolScrubGroup c errs) s = .next s) ∧
    (s.pwr.off = false → s.bg.inBatch = false → dom s 1 = 1 → dpStop s = false →
      (∃ k < 64, lkD s.mem.chState k 0 = 0 ∧ groupDue s k = true) → s.bg.batchAt + mgmt s 11 * msT ≤ s.clk.aon →
      exec .scrubBatch s = .next { s with bg := { s.bg with inBatch := true, batchAt := s.clk.aon } }) ∧
    (s.pwr.off = false → s.bg.inBatch = true → (∀ k < 64, lkD s.mem.chState k 0 = 0 → groupDue s k = false) →
      exec .scrubBatch s = .next { s with bg := { s.bg with inBatch := false } }) ∧
    (isDue s .scrubRate = true → s.pwr.off = false → s.clk.aon ≠ 0 → (loop s 3).crossed ≠ 2 →
      totalUe s ≤ s.bg.ueBase →
      (mgmt s 9 < totalCe s - s.bg.ceBase → s.bg.scrubStep < mgmt s 8 →
        ∃ t, exec .scrubRateLoop s = .next t ∧ isDue t .scrubRate = false ∧ t.bg.ceBase = totalCe s ∧
          t.bg.scrubStep = s.bg.scrubStep + 1 ∧ (loop t 3).pinned = 0) ∧
      (totalCe s - s.bg.ceBase ≤ mgmt s 9 → totalCe s - s.bg.ceBase ≤ mgmt s 10 → 23 ≤ s.bg.hoursLow →
        mgmt s 7 < s.bg.scrubStep →
        ∃ t, exec .scrubRateLoop s = .next t ∧ isDue t .scrubRate = false ∧ t.bg.ceBase = totalCe s ∧
          t.bg.scrubStep = s.bg.scrubStep - 1 ∧ (loop t 3).pinned = 0)) ∧
    (isDue s .scrubRate = true → s.pwr.off = false → s.clk.aon ≠ 0 → s.bg.ueBase < totalUe s →
      ∃ t, exec .scrubRateLoop s = .next t ∧ t.bg.scrubStep = 7 ∧
        (mgmt s 8 < 7 → (loop s 3).crossed = 0 → (loop t 3).crossed = 2)) ∧
    (∀ k, k = lkD s.mem.mr4Temp c.val 0 → runs s 1 = true →
      (lkD s.bg.trackAt c.val 0 + mgmt s 13 * msT ≤ memcRan s ∨ apart k (lkD s.bg.trackTemp c.val 0) 5 = true) →
      (lkD s.mem.reorder c.val [] = [] →
        ∃ t, exec (.calibrationSlot c) s = .next t ∧ lkD t.bg.trackAt c.val 0 = memcRan s ∧
          lkD t.bg.trackTemp c.val 0 = k ∧ lk t.bg.deferAt c.val = none ∧
          t = { s with cfg := { s.cfg with cnt := t.cfg.cnt }, bg := { s.bg with trackAt := t.bg.trackAt, trackTemp := t.bg.trackTemp, deferAt := t.bg.deferAt } }) ∧
      (lkD s.mem.reorder c.val [] ≠ [] → lk s.bg.deferAt c.val = none → exec (.calibrationSlot c) s =
        .next { s with bg := { s.bg with deferAt := put s.bg.deferAt c.val s.clk.aon } })) ∧
    (∀ n, lkD s.bg.pieces c.val 0 = n → 1 < n → runs s 1 = true → lkD s.mem.reorder c.val [] = [] →
      lkD s.bg.pieceAt c.val 0 + 100 * usT ≤ s.clk.aon →
      ∃ t, exec (.retrainPiece c) s = .next t ∧ lkD t.bg.pieces c.val 0 = n - 1 ∧
        lkD t.bg.pieceAt c.val 0 = s.clk.aon ∧ t.bg.retrainAt = s.bg.retrainAt ∧
        t = { s with cfg := { s.cfg with cnt := t.cfg.cnt }, bg := { s.bg with pieces := t.bg.pieces, pieceAt := t.bg.pieceAt, deferAt := t.bg.deferAt } }) ∧
    (runs s 1 = true → lkD s.mem.reorder c.val [] = [] → lkD s.bg.pieces c.val 0 = 1 →
      lkD s.bg.pieceAt c.val 0 + 100 * usT ≤ s.clk.aon →
      ∃ t, exec (.retrainPiece c) s = .next t ∧ lkD t.bg.pieces c.val 0 = 0 ∧
        lkD t.bg.retrainAt c.val 0 = memcRan s ∧ lkD t.bg.retrainTemp c.val 0 = lkD s.mem.mr4Temp c.val 0) ∧
    (runs s 1 = true → lkD s.mem.reorder c.val [] = [] → lkD s.bg.pieces c.val 0 = 0 →
      lkD s.bg.retrainAt c.val 0 + mgmt s 14 * secT ≤ memcRan s →
      ∃ t, exec (.retrainPiece c) s = .next t ∧ lkD t.bg.pieces c.val 0 = 19) ∧
    (∀ pairs d, isDue s .aging = true → runs s 0 = true →
      d = (median (pairs.map (fun (r, x) => ((r : Int) - (x : Int)) * 1000000 / (max r 1 : Nat)))).toNat →
      ∃ t, exec (.agingSample pairs) s = .next t ∧ t.bg.agingD = d ∧
        t.bg.agingG = max s.bg.agingG (min (min 20 ((d + 499) / 500)) (s.bg.agingG + 1)) ∧
        s.bg.agingG ≤ t.bg.agingG ∧ t.bg.agingG ≤ s.bg.agingG + 1 ∧
        t.bg.agingLimit = (s.bg.agingLimit || decide (20 ≤ (d + 499) / 500)) ∧
        t = { s with clk := { s.clk with due := t.clk.due }, bg := { s.bg with agingD := t.bg.agingD, agingG := t.bg.agingG, agingLimit := t.bg.agingLimit } })

/-- A due QUOIN_PERIOD brings in the quoin-boundary registers of the domains that run, then makes every bucket's level min(min(level, BURST) + RATE, BURST) with the values now in effect, stream and partition buckets alike, and starts a new burst count in every channel; with no member's request and no stream nothing else happens. A due ARBITRATION_EPOCH grants a FREE lock, or an ABANDONED one whose wait is over, to the head of its queue: HELD, or HELD_RECOVERING with one partition record and the flag. A MARGIN_SLOT of a pair still wanted adds that pair's result to the operation. None of them acts before it is due. -/
def Obligations.PeriodsAndEpochs : Prop :=
  ∀ (s : State),
    (∀ u, isDue s .quoin = true → s.pwr.off = false → u = quoinEdge (setDue s .quoin 25) →
      exec .quoinPeriod s = .next (admitAll (serveAll u)) ∧
      (s.streams = [] → s.pod.ownerReqs = [] → exec .quoinPeriod s = .next u) ∧
      (∀ k, effective u k = if keyAt k .quoin && keyRuns s k then committed s k else effective s k) ∧
      u.cfg.mgmtEff = s.cfg.mgmtCommitted ∧
      (∀ i x, lk s.streams i = some x → ∃ y, lk u.streams i = some y ∧
        y.level = min (min x.level (strEff u i 0x34 / 65536) + strEff u i 0x34 % 8192) (strEff u i 0x34 / 65536) ∧
        y = { x with level := y.level }) ∧
      (∀ p x, lk s.quo p = some x → ∃ y, lk u.quo p = some y ∧ y.rate = (part s p).q.quoRate ∧
        y.burst = (part s p).q.quoBurst ∧ y.refused = false ∧
        y.level = min (min x.level (part s p).q.quoBurst + (part s p).q.quoRate) (part s p).q.quoBurst) ∧
      u.mem.issued = [] ∧ u.mem.burstCap = burstCapOf s.pwr.step) ∧
    (isDue s .quoin = false → exec .quoinPeriod s = .next s) ∧
    (∀ u j x w r f, isDue s .epoch = true → s.pwr.off = false →
      u = sampleUnits (sampleLinks (sampleCells (samplePrios (setDue s .epoch 4)))) → dpStop u = false →
      lockIds u = [j] → lockOf u j = x → x.waiters = w :: r → (∀ y ∈ x.waiters, wantPrio u y = y.prio) →
      w.who = .reg f →
      (x.st = 0 → ∃ t, exec .arbitrationEpoch s = .next t ∧
        lockOf t j = { x with st := 1, holder := some (.reg f), waiters := r, renewAt := w.renewAt, notBefore := 0 } ∧
        t.evt = u.evt ∧ cnt t (rk f 0x3340) = cnt u (rk f 0x3340) + 1 ∧
        t = { u with locks := t.locks, cfg := { u.cfg with cnt := t.cfg.cnt } }) ∧
      (x.st = 2 → x.notBefore ≤ u.clk.timer → ∃ t, exec .arbitrationEpoch s = .next t ∧
        lockOf t j = { x with st := 3, holder := some (.reg f), waiters := r, renewAt := w.renewAt, notBefore := 0 } ∧
        t.evt = (postP u (partOfFn f) 0x0802 3 j 0 0 0).evt ∧ cnt t (rk f 0x3348) = cnt u (rk f 0x3348) + 1 ∧
        t = { u with locks := t.locks, evt := t.evt, cfg := { u.cfg with cnt := t.cfg.cnt } }) ∧
      (x.st = 1 ∨ x.st = 3 → ∃ t, exec .arbitrationEpoch s = .next t ∧ lockOf t j = x ∧ t = { u with locks := t.locks })) ∧
    (isDue s .epoch = false → exec .arbitrationEpoch s = .next s) ∧
    (∀ (c : Ch) (kind : Fin 4) left right o v, runs s 1 = true → opRunning s 0x603 = some o →
      lk s.mem.marginAt c.val = none → 4 * c.val + kind.val ∈ marginPairs o.req →
      4 * c.val + kind.val ∉ o.acc.map (· % 256) → o.acc.length + 1 < o.unitsTotal →
      v = marginCode (4 * c.val + kind.val) (min left (if kind.val % 2 = 0 then 32 else 40))
        (min right (if kind.val % 2 = 0 then 32 else 40)) (decide ((if kind.val % 2 = 0 then 32 else 40) ≤ left))
        (decide ((if kind.val % 2 = 0 then 32 else 40) ≤ right)) (lkD s.mem.chState c.val 0 != 0) →
      exec (.marginSlot c kind left right) s = .next (setOp { s with mem := { s.mem with
        marginAt := put s.mem.marginAt c.val s.clk.aon } } { o with acc := o.acc ++ [v], unitsDone := o.unitsDone + 1 }))

/-- POWER_STATE_EVALUATE runs every gated domain that has demand and has every stopped one wake; a domain without demand keeps its state. IDLE_ENTRY gates a running domain without demand after PWR_HOLD_IDLE. DOZE_ENTRY stops every domain at 500 mV, DEEP_ENTRY powers MEMC down, each only with permission, quiet, and after its hold-off; a demand leaves the state as it is. A wake runs the domains that wait, clears their wait, lowers their first trim target, brings the rails within the AVS bounds where no domain ran, and writes one record for every channel that retrains; one that fails its full retrain is FAILED. -/
def Obligations.PowerStatesFollowDemand : Prop :=
  ∀ (s : State),
    (s.pwr.off = false → s.pwr.thermtrip = false → s.pwr.globalStop = false →
      ∃ t, exec .powerStateEvaluate s = .next t ∧
        (∀ d < 6, demand s d = true → lkD t.pwr.demandAt d 0 = s.clk.aon ∧ (dom s d = 1 → dom t d = 0) ∧
          (2 ≤ dom s d → dom t d = dom s d ∧ d ∈ t.pwr.waking)) ∧
        (∀ d, demand s d = false ∨ dom s d = 0 → dom t d = dom s d) ∧
        t = { s with pwr := { s.pwr with dom := t.pwr.dom, demandAt := t.pwr.demandAt, waking := t.pwr.waking } }) ∧
    (∀ d : Dom, exec (.idleEntry d) s = .next (if dom s d.val = 0 ∧ demand s d.val = false ∧ dpStop s = false ∧
        lkD s.pwr.demandAt d.val 0 + bar2Eff s 0x30008 ≤ s.clk.aon
      then { s with pwr := { s.pwr with dom := setD s.pwr.dom d.val 1 0 } } else s)) ∧
    (devState s = 1 → 2 ≤ deepest s → avsFault s = false → dpStop s = false → quiet s = true →
      (∀ d < 6, lkD s.pwr.demandAt d 0 + max 100 (bar2Eff s 0x3000C) * usT ≤ s.clk.aon) →
      ∃ t, exec .dozeEntry s = .next t ∧ (∀ d < 6, dom t d = max 2 (dom s d)) ∧ t.pwr.vdd = 500 ∧
        t.pwr.waking = [] ∧ t.pwr.dozeAt = s.clk.aon ∧ t.pwr.vddOp = s.pwr.vdd ∧
        t = { wcbFlush s with pwr := t.pwr }) ∧
    (devState s = 2 → 3 ≤ deepest s → avsFault s = false → dpStop s = false → quiet s = true → s.pwr.waking = [] →
      s.pwr.dozeAt + max 10 (bar2Eff s 0x30010) * msT ≤ s.clk.aon →
      ∃ t, exec .deepEntry s = .next t ∧ dom t 1 = 3 ∧ (∀ d, d ≠ 1 → dom t d = dom s d) ∧
        t = { s with pwr := { s.pwr with dom := t.pwr.dom } }) ∧
    (quiet s = false ∨ avsFault s = true → exec .dozeEntry s = .next s ∧ exec .deepEntry s = .next s) ∧
    (∀ sync quick full l, l = s.pwr.waking.filter (fun d => dom s d == 2) → l ≠ [] → dpStop s = false →
      ∃ t, exec (.dozeWake sync quick full) s = .next t ∧ (∀ d ∈ l, dom t d = 0 ∧ lkD t.pwr.dcoLow d false = true) ∧
        (∀ d, d ∉ l → dom t d = dom s d) ∧ t.pwr.waking = s.pwr.waking.filter (fun d => !l.contains d) ∧
        (2 ≤ devState s → t.pwr.vdd = max (mgmt s 1) (min (mgmt s 2) s.pwr.vddOp)) ∧
        (devState s < 2 → t.pwr.vdd = s.pwr.vdd) ∧
        (quick.filter sync.contains = [] ∨ 1 ∉ l → t = { s with pwr := t.pwr }) ∧
        (1 ∈ l → ∀ c : Ch, quick.filter sync.contains = [c] →
          (c ∉ full → t.evt = (postG s 0x0407 2 (c.val + 256) 0 0 0).evt ∧ t = { s with pwr := t.pwr, evt := t.evt }) ∧
          (c ∈ full → lkD s.mem.chState c.val 0 = 0 → lkD t.mem.chState c.val 0 = 1))) ∧
    (∀ quick full, 1 ∈ s.pwr.waking → dom s 1 = 3 → dpStop s = false →
      ∃ t, exec (.deepWake quick full) s = .next t ∧ dom t 1 = 0 ∧ 1 ∉ t.pwr.waking ∧
        lkD t.pwr.dcoLow 1 false = true ∧ (quick = [] → t = { s with pwr := t.pwr }) ∧
        (∀ d, d ∈ s.pwr.waking → 2 ≤ dom s d → dom t d = 0) ∧
        (2 ≤ devState s → t.pwr.vdd = max (mgmt s 1) (min (mgmt s 2) s.pwr.vddOp))) ∧
    (s.pwr.waking = [] → ∀ sync quick full, exec (.dozeWake sync quick full) s = .next s ∧
      exec (.deepWake quick full) s = .next s)

/-- A due DCO_TRIM without override keeps the error in ppm and the corrected code within 12 bits, ends the lowered target, and trims on, with the loop crossing, while the error exceeds 0.5%. A due AVS_STEP sets VDD_CORE to the least voltage with margin plus the guard band, on 5 mV, within the bounds, and VDD_SRAM after it; where the bound leaves no margin the clock falls 50 MHz. A retry clears a fault when acknowledged and makes one at the third failure. A temperature sample keeps the hottest readings and the step with hysteresis, caps the clock, and trips on the second hot sample in a row. The throttle lowers the clock 50 MHz above target, raises it 2 degrees below, never past the caps. -/
def Obligations.ClocksVoltageAndHeat : Prop :=
  ∀ (s : State), s.pwr.off = false → s.pwr.thermtrip = false →
    (∀ (d : Dom) m e ppm, (isDue s (.trim d.val) = true ∨ lkD s.pwr.dcoFast d.val false = true ∨
        lkD s.pwr.dcoLow d.val false = true) → dom s d.val ≤ 1 → bitOf (bar2Eff s (0x30080 + 4 * d.val)) 31 = false →
      e = trimExpected s d.val * (if lkD s.pwr.dcoLow d.val false then 99 else 100) →
      ppm = roundNe ((((m * 800 : Nat) : Int) - e) * 1000000) (max e 1) →
      ∃ t, exec (.dcoTrim d m) s = .next t ∧ lkD t.pwr.dcoErr d.val 0 = twos 16 ppm ∧
        lkD t.pwr.dcoLow d.val false = false ∧ lkD t.pwr.dcoCode d.val 0 ≤ 4095 ∧
        (∀ k : Nat, (k : Int) = (lkD s.pwr.dcoCode d.val 0 : Nat) -
          roundNe ((((m * 800 : Nat) : Int) - e) * 1000000) (max (e * 1000) 1) → k ≤ 4095 → lkD t.pwr.dcoCode d.val 0 = k) ∧
        (lkD t.pwr.dcoFast d.val false = true ↔ 5000 < ppm ∨ ppm < -5000) ∧
        (5000 < ppm ∨ ppm < -5000 → (loop t 1).crossed ≠ 0) ∧
        (∀ k, k ≠ d.val → lkD t.pwr.dcoCode k 0 = lkD s.pwr.dcoCode k 0) ∧
        t = { s with pwr := t.pwr, evt := t.evt, clk := { s.clk with due := t.clk.due } }) ∧
    (∀ (d : Dom) m, bitOf (bar2Eff s (0x30080 + 4 * d.val)) 31 = true →
      ∃ t, exec (.dcoTrim d m) s = .next t ∧ t = { s with clk := { s.clk with due := t.clk.due } }) ∧
    (∀ least want, isDue s .avs = true → devState s = 0 → avsFault s = false →
      want = (least + s.bg.agingG + 4) / 5 * 5 →
      ∃ t, exec (.avsStep least) s = .next t ∧
        t.pwr.vdd = max (max 500 (mgmt s 1)) (min (min 800 (mgmt s 2)) want) ∧
        t.pwr.avs0.conf = t.pwr.vdd ∧ t.pwr.avs1.conf = min 850 (max 750 (t.pwr.vdd + 50)) ∧
        (min 800 (mgmt s 2) < least → t.pwr.avsCap = max 400 (s.pwr.coreClk - 50) ∧
          t.pwr.coreClk ≤ max 400 (s.pwr.coreClk - 50)) ∧
        (least ≤ min 800 (mgmt s 2) → t.pwr.avsCap = min 1400 (s.pwr.avsCap + 50)) ∧
        t = { s with pwr := t.pwr, evt := t.evt, clk := { s.clk with due := t.clk.due } }) ∧
    (∀ least, isDue s .avs = true → devState s ≠ 0 → exec (.avsStep least) s = .next (setDue s .avs 2500)) ∧
    (∀ acked a b, a = s.pwr.avs0 → (a.fault = false ∨ a.due ≤ s.clk.aon) → b = s.pwr.avs1 →
        (b.fault = false ∨ b.due ≤ s.clk.aon) →
      (∃ t, exec (.avsCommandRetry 0 acked) s = .next t ∧ t.pwr.avs1 = b ∧
        (acked = true → t.pwr.avs0 = { a with fault := false, fails := 0, conf := s.pwr.vdd }) ∧
        (acked = false → t.pwr.avs0.fails = a.fails + 1 ∧ t.pwr.avs0.conf = a.conf ∧
          t.pwr.avs0.fault = (a.fault || decide (3 ≤ a.fails + 1))) ∧
        t.pwr.coreClk = min s.pwr.coreClk (clkCap t) ∧ t = { s with pwr := t.pwr }) ∧
      (∃ t, exec (.avsCommandRetry 1 acked) s = .next t ∧ t.pwr.avs0 = a ∧
        (acked = true → t.pwr.avs1 = { b with fault := false, fails := 0, conf :=
                                         if 2 ≤ devState s then 700 else sramFor s.pwr.vdd }) ∧
        (acked = false → t.pwr.avs1.fails = b.fails + 1 ∧ t.pwr.avs1.fault = (b.fault || decide (3 ≤ b.fails + 1))) ∧
        t.pwr.coreClk = min s.pwr.coreClk (clkCap t) ∧ t = { s with pwr := t.pwr })) ∧
    (∀ sens logic h l, isDue s .temp = true → s.fw.bootPhase ≠ 0 → h = (stackTemps s sens).foldl max 0 →
      l = (logic.map (·.toNat)).foldl max 0 →
      ∃ t, exec (.temperatureSample sens logic) s = .next t ∧ t.pwr.stackT = h ∧ t.pwr.logicT = l ∧
        t.pwr.step = max (stepEnter h) (stepKeep s.pwr.step h) ∧
        t.pwr.trip = (decide (115 ≤ l) || sens.any (fun b => decide (110 ≤ b.toNat))) ∧
        t.pwr.thermtrip = (t.pwr.trip && s.pwr.trip) ∧
        (t.pwr.step ≠ 0 → t.pwr.coreClk ≤ coreCap t.pwr.step) ∧
        (t.pwr.step = 3 → ∀ f < 33, lkD t.hif.held f false = true)) ∧
    (∀ clk, isDue s .throttle = true → clk = s.pwr.coreClk → (loop s 2).crossed = 0 →
      (mgmt s 4 < s.pwr.logicT → s.pwr.logicT < 100 → mgmt s 5 + 50 ≤ clk →
        ∃ t, exec .thermalThrottleStep s = .next t ∧ t.pwr.coreClk = min (clk - 50) (clkCap s) ∧ t.evt = s.evt ∧
          (loop t 2).pinned = 0 ∧ t = { s with pwr := t.pwr, clk := { s.clk with due := t.clk.due } }) ∧
      (mgmt s 4 < s.pwr.logicT → s.pwr.logicT < 100 → clk < mgmt s 5 + 50 →
        ∃ t, exec .thermalThrottleStep s = .next t ∧ t.pwr.coreClk = clk ∧ (loop t 2).pinned = 1 ∧
          t = { s with pwr := t.pwr, clk := { s.clk with due := t.clk.due } }) ∧
      (mgmt s 4 < s.pwr.logicT → 100 ≤ s.pwr.logicT → 450 ≤ clk → clk < mgmt s 5 + 50 →
        ∃ t, exec .thermalThrottleStep s = .next t ∧ t.pwr.coreClk = min (clk - 50) (clkCap s) ∧
          (loop t 2).crossed = 1 ∧ t.evt = (postG s 0x0901 2 (2 + 16 + 256) 0 0 0).evt) ∧
      (s.pwr.logicT + 2 ≤ mgmt s 4 → clk + 50 ≤ clkCap s →
        ∃ t, exec .thermalThrottleStep s = .next t ∧ t.pwr.coreClk = clk + 50 ∧ (loop t 2).pinned = 0 ∧
          t = { s with pwr := t.pwr, clk := { s.clk with due := t.clk.due } }) ∧
      (s.pwr.logicT ≤ mgmt s 4 → mgmt s 4 < s.pwr.logicT + 2 →
        ∃ t, exec .thermalThrottleStep s = .next t ∧ t.pwr.coreClk = min clk (clkCap s)))

/-- For every mailbox command row whose request Onaman runs next, a request that fails a shared check answers a next state in which the response carries that status and DETAIL and nothing else differs: in recovery mode a command outside the listed ones fails with MS_UNAVAILABLE 3; a PF0 command of a VF with MS_NOT_PERMITTED 1; a LENGTH below 8, above 2,048 or no multiple of 4 with MS_BAD_LENGTH 0; nonzero excess bytes with MS_BAD_LENGTH 1. An opcode of no command is answered by the first row with MS_BAD_OPCODE. While the CP does not run Onaman, no row changes anything. -/
def Obligations.MailboxRefusals : Prop :=
  (∀ (s : State) (c : Instr) f op sel r st d, mbxRow c = some (f, op, sel) → Asks s f op r → sel (reqBytes r) = true →
      sharedCheck s f r = some (st, d) →
    ∃ t, exec c s = .next t ∧ Replied s t f st d 0 []) ∧
  (∀ (s : State) f r c, Asks s f (reqOp r.bytes) r → r.bytes.length = 2048 → cmdOf (reqOp r.bytes) = some c →
    (s.fw.recovery = true → inRecovery (reqOp r.bytes) = false → sharedCheck s f r = some (0x1E, 3)) ∧
    (s.fw.recovery = false →
      (c.pf0 = true → f ≠ 0 → sharedCheck s f r = some (0x14, 1)) ∧
      (c.pf0 = false ∨ f = 0 →
        (reqLen r.bytes < 8 ∨ 2048 < reqLen r.bytes ∨ reqLen r.bytes % 4 ≠ 0 → sharedCheck s f r = some (0x11, 0)) ∧
        (8 ≤ reqLen r.bytes → reqLen r.bytes ≤ 2048 → reqLen r.bytes % 4 = 0 →
          (∃ x ∈ (reqBytes r).drop (c.len (reqBytes r)), x ≠ 0) → sharedCheck s f r = some (0x11, 1))))) ∧
  (∀ (s : State) (f : Fn) r, Asks s f.val (reqOp r.bytes) r → r.bytes.length = 2048 → cmdOf (reqOp r.bytes) = none →
    ∃ t, exec (.getInterface f) s = .next t ∧ Replied s t f.val 0x10 0 0 []) ∧
  (∀ (s : State) (c : Instr) x, mbxRow c = some x → cpRuns s = false → exec c s = .next s)

/-- For a request that passes the shared checks: GET_INTERFACE returns the running OIL, image, SVN, handover and the function; GET_CAPS the DEFINED, PERMITTED and ENABLED sets of the function or, from PF0, of a target; ENABLE_CAPS sets the function's ENABLED set within PERMITTED, or from PF0 a partition's PERMITTED set, which bounds its ENABLED set at once, one record for each bit removed; GET_COMMAND_INFO describes an opcode; GET_LIMITS returns every limit from an ID on; OP_STATUS returns a record and releases a final one; OP_CANCEL brings a RUNNING operation to CANCELLED, and refuses a final one and a map-out. Each answers MS_OK or the status named, and changes nothing more. -/
def Obligations.DiscoveryCommands : Prop :=
  ∀ (s : State) (f : Fn) (b : List Byte),
    (Ready s f.val 1 b → ∃ t, exec (.getInterface f) s = .next t ∧ ∃ x, x = runningSlot s ∧
      Replied s t f.val 0 0 0
        (leBytes 4 (x.oil + 2 ^ 16 * b2n s.fw.recovery + 2 ^ 17 * b2n s.fw.fallback + 2 ^ 18 * s.fw.running) ++
         leBytes 4 x.ver.toNat ++ leBytes 4 (x.svn + 2 ^ 8 * s.fw.rollback + 2 ^ 16 * x.handover) ++
         leBytes 4 (if f.val = 0 then 2 ^ 7 else f.val + 2 ^ 8 * (f.val - 1)))) ∧
    (Ready s f.val 2 b → ∀ tg, tg = leAt b 8 1 → (tg ≠ 0 → f.val = 0 → tg ≤ 32 →
        ∃ t, exec (.getCaps f) s = .next t ∧ Replied s t f.val 0 0 0
          (leBytes 32 0x7FF ++ leBytes 32 (mbxOf s tg).permitted.toNat ++ leBytes 32 (mbxOf s tg).enabled.toNat)) ∧
      (tg = 0 → ∃ t, exec (.getCaps f) s = .next t ∧ Replied s t f.val 0 0 0
          (leBytes 32 0x7FF ++ leBytes 32 (if f.val = 0 then 0x7FF else (mbxOf s f.val).permitted.toNat) ++
           leBytes 32 (mbxOf s f.val).enabled.toNat)) ∧
      (tg ≠ 0 → f.val ≠ 0 → ∃ t, exec (.getCaps f) s = .next t ∧ Replied s t f.val 0x14 1 0 [])) ∧
    (Ready s f.val 3 b → ∀ tg m, tg = leAt b 8 1 → m = BitVec.ofNat 256 (leAt b 0x0C 32) → m.getLsbD 0 = true →
        m &&& ~~~0x7FF#256 = 0 →
      (tg = 0xFF → (f.val ≠ 0 → m &&& ~~~(mbxOf s f.val).permitted = 0) →
        ∃ t u, exec (.enableCaps f) s = .next t ∧ Replied u t f.val 0 0 0 [] ∧
          u = fwCommit (setMbx s f.val { mbxOf s f.val with enabled := m })) ∧
      (tg = 0xFF → f.val ≠ 0 → m &&& ~~~(mbxOf s f.val).permitted ≠ 0 →
        ∃ t, exec (.enableCaps f) s = .next t ∧ Replied s t f.val 0x14 2 0 []) ∧
      (tg < 32 → f.val ≠ 0 → ∃ t, exec (.enableCaps f) s = .next t ∧ Replied s t f.val 0x14 1 0 []) ∧
      (tg < 32 → f.val = 0 → ∃ t u v, exec (.enableCaps f) s = .next t ∧ Replied u t 0 0 0 0 [] ∧
        v = setMbx s (tg + 1) { mbxOf s (tg + 1) with permitted := m, enabled := (mbxOf s (tg + 1)).enabled &&& m } ∧
        u = fwCommit { v with evt := u.evt } ∧
        u.evt = (((List.range 256).filter (fun n => (mbxOf s (tg + 1)).permitted.getLsbD n && !m.getLsbD n)).foldl
          (fun s n => postP s tg 0x0204 2 n 0 0 0) v).evt)) ∧
    (Ready s f.val 4 b → ∃ t, exec (.getCommandInfo f) s = .next t ∧
      (∀ c, cmdOf (leAt b 8 2) = some c → Replied s t f.val 0 0 0
        (leBytes 4 (1 + 4 * b2n c.long + 8 * b2n c.query) ++ leBytes 4 0x0100 ++ leBytes 8 0)) ∧
      (cmdOf (leAt b 8 2) = none → Replied s t f.val 0 0 0 (List.replicate 16 0))) ∧
    (Ready s f.val 5 b → ∀ l, l = (limitsOf s f.val).filter (fun e => leAt b 8 2 ≤ e.1) →
      ∃ t, exec (.getLimits f) s = .next t ∧ Replied s t f.val 0 0 0
        (leBytes 4 l.length ++ leBytes 4 0 ++ leBytes 8 0 ++ l.flatMap (fun e => leBytes 2 e.1 ++ leBytes 6 0 ++ leBytes 8 e.2))) ∧
    (Ready s f.val 0x100 b →
      (∀ o, opById s f.val (leAt b 8 2) = some o → ∃ t u, exec (.opStatus f) s = .next t ∧
        Replied u t f.val 0 0 0 (leBytes 2 o.id ++ leBytes 2 o.opcode ++
          leBytes 4 (o.st.num + 2 ^ 8 * o.finalMs + 2 ^ 16 * o.finalDetail) ++ leBytes 8 o.unitsDone ++ leBytes 8 o.unitsTotal) ∧
        (o.st = .running → u = s) ∧ (o.st ≠ .running → u = { s with ops := s.ops.filter (fun x => x.key != o.key) })) ∧
      (opById s f.val (leAt b 8 2) = none → ∃ t, exec (.opStatus f) s = .next t ∧ Replied s t f.val 0x18 0 0 [])) ∧
    (Ready s f.val 0x101 b →
      (opById s f.val (leAt b 8 2) = none → ∃ t, exec (.opCancel f) s = .next t ∧ Replied s t f.val 0x18 0 0 []) ∧
      (∀ o, opById s f.val (leAt b 8 2) = some o →
        (o.st ≠ .running → ∃ t, exec (.opCancel f) s = .next t ∧ Replied s t f.val 0x19 2 0 []) ∧
        (o.st = .running → o.opcode = 0x601 → ∃ t, exec (.opCancel f) s = .next t ∧ Replied s t f.val 0x19 3 0 []) ∧
        (o.st = .running → o.opcode ≠ 0x601 → ∃ t u, exec (.opCancel f) s = .next t ∧ Replied u t f.val 0 0 0 [] ∧
          u = setOp (opLeft s o) { o with
                st := .cancelled, finalMs := 0, finalDetail := 0, land := [], asked := [], ex := [] } ∧
          (o.opcode ∉ [0x301, 0x308, 0x500, 0x502] → opLeft s o = s))))

/-- For a request that passes the shared checks: SET_POWER_PERMIT from 1 to 3 sets the deepest state the host permits, and the device rises at once where it stands below; SET_LOOP_BOUNDS of a word 0 to 6 and a value that leaves every bound in its range commits the word, and answers MS_UNAVAILABLE 2 while the AMC is down and MS_BAD_FIELD at 0x0C where a bound would leave its range; GET_LOOP_BOUNDS returns the 22 committed words; COLOPHON_READ returns the colophon. No more changes. -/
def Obligations.PowerCommands : Prop :=
  ∀ (s : State) (f : Fn) (b : List Byte),
    (Ready s f.val 0x700 b → ∀ v, v = leAt b 8 1 % 4 →
      (v ≠ 0 → ∃ t u w, exec (.setPowerPermit f) s = .next t ∧ Replied u t f.val 0 0 0 [] ∧
        w = { s with pwr := { s.pwr with permit := v } } ∧ u = fwCommit (enforceDeepest w) ∧
        (devState s ≤ deepest w → u = fwCommit w)) ∧
      (v = 0 → ∃ t, exec (.setPowerPermit f) s = .next t ∧ Replied s t f.val 0x12 8 0 [])) ∧
    (Ready s f.val 0x701 b → ∀ w v, w = leAt b 8 1 → v = leAt b 0x0C 4 →
      (w ≤ 6 → s.mgmt.amcDown = false → boundAccepted s w v = true →
        ∃ t u, exec (.setLoopBounds f) s = .next t ∧ Replied u t f.val 0 0 0 [] ∧ mgmtStaged u w = v ∧ mgmtCommitted u w = v ∧
          (∀ n, n ≠ w → mgmtStaged u n = mgmtStaged s n) ∧ lkD u.cfg.commitAt 2 0 = s.clk.aon ∧
          u = { s with cfg := u.cfg, pwr := { s.pwr with waking := u.pwr.waking } }) ∧
      (w ≤ 6 → s.mgmt.amcDown = true → ∃ t, exec (.setLoopBounds f) s = .next t ∧ Replied s t f.val 0x1E 2 0 []) ∧
      (6 < w → ∃ t, exec (.setLoopBounds f) s = .next t ∧ Replied s t f.val 0x12 8 0 []) ∧
      (w ≤ 6 → s.mgmt.amcDown = false → boundAccepted s w v = false →
        ∃ t, exec (.setLoopBounds f) s = .next t ∧ Replied s t f.val 0x12 0x0C 0 [])) ∧
    (Ready s f.val 0x702 b → ∃ t, exec (.getLoopBounds f) s = .next t ∧
      Replied s t f.val 0 0 0 ((List.range 22).flatMap (fun w => leBytes 4 (mgmtCommitted s w)))) ∧
    (Ready s f.val 0xA00 b → ∃ t, exec (.colophonRead f) s = .next t ∧ Replied s t f.val 0 0 0 (colophon s))

/-- For a request of PF0 that passes the shared checks and a quota block within its ranges and pools: PARTITION_CREATE of an ABSENT partition makes it ACTIVE with the block, PERMITTED and ENABLED hold BASE alone and GENERATION rises; of another it answers MS_CONFLICT 3. PARTITION_SET_QUOTA of an ACTIVE partition whose use the block covers replaces the block. ASSIGN_STREAM puts an idle stream in a free slot; RELEASE_STREAM returns a stream that fulfils the conditions, and otherwise answers MS_NOT_FOUND or MS_CONFLICT 3. PARTITION_QUERY returns state, block and use. Each answers MS_OK and leaves other partitions and streams. -/
def Obligations.PartitionCommands : Prop :=
  ∀ (s : State) (f : Fn) (b : List Byte) (p : Nat) (q : Quota), f.val = 0 → p = leAt b 8 1 → q = parseQuota b →
    (∀ x, x = part s p → p < 32 → q.bufPages ≤ q.memPages → q.galRes ≤ q.galMax → q.galMax ≤ 65536 → q.maxTables ≤ 4096 →
      1 ≤ q.quoRate → q.quoRate ≤ 5333 → q.quoRate ≤ q.quoBurst → q.linkShare ≤ 256 →
      (∀ r ∈ q.locks, r.base + r.count ≤ 1024) →
      (Ready s f.val 0x200 b → x.st ≠ .absent → ∃ t, exec (.partitionCreate f) s = .next t ∧ Replied s t 0 0x19 3 0 []) ∧
      (Ready s f.val 0x201 b → x.st ≠ .active → ∃ t, exec (.partitionSetQuota f) s = .next t ∧ Replied s t 0 0x19 3 0 []) ∧
      (othersHold s p (·.memPages) + q.memPages ≤ memPool s → othersHold s p (·.galRes) + q.galRes ≤ 61440 →
        othersHold s p (·.linkShare) + q.linkShare ≤ 256 → othersHold s p (·.maxTables) + q.maxTables ≤ tablePool s →
        (Ready s f.val 0x200 b → x.st = .absent →
          ∀ w v, w = { resetRegion (capsToBase (setPart s p ⟨.active, q, (x.gen + 1) % 2 ^ 32⟩) (p + 1)) (p + 1) with
              quo := put s.quo p ⟨q.quoRate, q.quoBurst, q.quoBurst, false⟩ } →
            growWindow w p 0 q.bufPages = some v →
          ∃ t u, exec (.partitionCreate f) s = .next t ∧ Replied u t 0 0 0 0 [] ∧
            part u p = ⟨.active, q, (x.gen + 1) % 2 ^ 32⟩ ∧ (∀ r, r ≠ p → part u r = part s r) ∧
            (mbxOf u (p + 1)).permitted = 1 ∧ (mbxOf u (p + 1)).enabled = 1 ∧ u = fwCommit { w with pages := v.pages }) ∧
        (Ready s f.val 0x201 b → x.st = .active → objectPages s p + q.bufPages ≤ q.memPages →
            lkD s.gal.held p 0 ≤ q.galMax → tablesOwned s p ≤ q.maxTables →
          (q.bufPages ≤ x.q.bufPages → ∃ t u, exec (.partitionSetQuota f) s = .next t ∧ Replied u t 0 0 0 0 [] ∧
            part u p = { x with q := q } ∧ (∀ r, r ≠ p → part u r = part s r) ∧
            u = fwCommit (lowerWindow (setPart s p { x with q := q }) p q.bufPages)) ∧
          (x.q.bufPages < q.bufPages → ∀ v, growWindow (setPart s p { x with q := q }) p x.q.bufPages
              (q.bufPages - x.q.bufPages) = some v →
            ∃ t u, exec (.partitionSetQuota f) s = .next t ∧ Replied u t 0 0 0 0 [] ∧
              part u p = { x with q := q } ∧ (∀ r, r ≠ p → part u r = part s r) ∧ u = fwCommit v)))) ∧
    (Ready s f.val 0x202 b → ∀ i k g, i = bits (leAt b 8 4) 13 8 → k = bits (leAt b 8 4) 21 16 → g = targetFn (leAt b 8 4 % 256) →
        (leAt b 8 4 % 256 = 0xFF ∨ leAt b 8 4 % 256 < 32 ∧ (part s (leAt b 8 4 % 256)).st = .active) →
      ((stream s i).slot = none → slotStream s g k = none →
        ∃ t u, exec (.partitionAssignStream f) s = .next t ∧ Replied u t 0 0 0 0 [] ∧
          stream u i = { Stream.idle with slot := some (g, k) } ∧ (∀ j, j ≠ i → stream u j = stream s j) ∧
          u = fwCommit { resetSlot s g k with streams := u.streams }) ∧
      ((stream s i).slot.isSome = true ∨ (slotStream s g k).isSome = true →
        ∃ t, exec (.partitionAssignStream f) s = .next t ∧ Replied s t 0 0x19 3 0 [])) ∧
    (Ready s f.val 0x203 b → ∀ i, i = leAt b 8 1 % 64 →
      ((stream s i).slot = none → ∃ t, exec (.partitionReleaseStream f) s = .next t ∧ Replied s t 0 0x18 0 0 []) ∧
      (∀ g k, (stream s i).slot = some (g, k) →
        (releasable s i g k = true → ∃ t u, exec (.partitionReleaseStream f) s = .next t ∧ Replied u t 0 0 0 0 [] ∧
          stream u i = Stream.idle ∧ u = fwCommit (unassign s i g k)) ∧
        (releasable s i g k = false → ∃ t, exec (.partitionReleaseStream f) s = .next t ∧ Replied s t 0 0x19 3 0 []))) ∧
    (∀ g : Fn, Ready s g.val 0x206 b → p < 32 → g.val = 0 ∨ g.val = p + 1 → ∀ st, st = (match (part s p).st with
        | .absent => 0 | .active => 1 | .wiping => 2 | .destroying => 3) →
      ∃ t, exec (.partitionQuery g) s = .next t ∧ Replied s t g.val 0 0 0
        (leBytes 4 (st + 2 ^ 8 * p + 2 ^ 16 * streamCount s (p + 1)) ++ quotaBytes (part s p).q ++ leBytes 4 (objectPages s p) ++
         leBytes 4 (cellsHeld s p) ++ leBytes 4 (tablesOwned s p) ++ leBytes 4 (locksHeld s p) ++
         leBytes 4 (if g.val = 0 then pendingZero s (· == p) else 0) ++ leBytes 4 (part s p).gen))

/-- For a request of PF0 on an ACTIVE partition with no RUNNING operation on its objects, PARTITION_WIPE and PARTITION_DESTROY put it in WIPING or DESTROYING, stop its admission and answer MS_STARTED with UNITS_TOTAL MEM_PAGES; the operation waits while a task of the partition is in flight. A RUNNING operation whose tasks have ended ends DONE: GENERATION rises by one, and the partition is ACTIVE with its quotas after a wipe, and ABSENT with no quota and with BASE capabilities alone after a destroy; other partitions are left. A partition that is not ACTIVE answers MS_CONFLICT 3. -/
def Obligations.PartitionWipeAndDestroy : Prop :=
  ∀ (s : State) (f : Fn), f.val = 0 →
    (∀ (b : List Byte) p op st c, (c = .partitionWipe f ∧ op = 0x204 ∧ st = .wiping ∨
        c = .partitionDestroy f ∧ op = 0x205 ∧ st = .destroying) → Ready s 0 op b → p = leAt b 8 1 → p < 32 →
      ((part s p).st = .active → opsHeld s 0 < 16 → (∀ o ∈ s.ops, o.st = .running → o.id ≠ 0 → opPart o ≠ p) →
        (∃ i ∈ fnStreams s (p + 1), (stream s i).task.isSome = true) →
        ∃ t o w, exec c s = .next t ∧ Started w t 0 op (part s p).q.memPages b [] [] o ∧
          part w p = { part s p with st := st } ∧ (∀ r, r ≠ p → part w r = part s r) ∧ lkD w.hif.held (p + 1) false = true ∧
          w = { s with parts := w.parts, hif := { s.hif with held := w.hif.held } }) ∧
      ((part s p).st ≠ .active → ∃ t, exec c s = .next t ∧ Replied s t 0 0x19 3 0 [])) ∧
    (∀ (o : Op) p, o.id ≠ 0 → p = leAt o.req 8 1 → (∀ i ∈ fnStreams s (p + 1), (stream s i).task = none) →
        shortRuns s (p + 1) = false → runs s 1 = true →
      (Works s 0 0x204 o → ∃ t, exec (.partitionWipe f) s = .next t ∧
        opOf t o.key = some { o with
          unitsDone := o.unitsTotal, st := .done, finalMs := 0, finalDetail := 0, land := [], asked := [], ex := [] } ∧
        part t p = { part s p with gen := ((part s p).gen + 1) % 2 ^ 32, st := .active } ∧
        (∀ r, r ≠ p → part t r = part s r) ∧ t.mbx = s.mbx) ∧
      (Works s 0 0x205 o → ∃ t, exec (.partitionDestroy f) s = .next t ∧
        opOf t o.key = some { o with
          unitsDone := o.unitsTotal, st := .done, finalMs := 0, finalDetail := 0, land := [], asked := [], ex := [] } ∧
        part t p = ⟨.absent, Quota.none, ((part s p).gen + 1) % 2 ^ 32⟩ ∧ (∀ r, r ≠ p → part t r = part s r) ∧
        (mbxOf t (p + 1)).permitted = 1 ∧ (mbxOf t (p + 1)).enabled = 1 ∧ (∀ g, g ≠ p + 1 → mbxOf t g = mbxOf s g)))

/-- For a request that passes the shared checks: TABLE_CREATE of a well-formed descriptor whose handle is new adds exactly that table, DEFINED; an existing handle answers MS_CONFLICT 3. TABLE_DESTROY removes a table that nothing names, maps or holds, and answers MS_CONFLICT 3 where a task names it or it is mapped, 1 where an operation holds it, and MS_NOT_FOUND where the function does not reach it. TABLE_QUERY of a reached table answers MS_OK with its state, CHECK and epoch first and changes nothing. MAP and UNMAP of a shared table change its mapping for one ACTIVE partition; TABLE_REGISTER_GOLDEN from the owner's function sets or removes the registration. -/
def Obligations.TableCommands : Prop :=
  ∀ (s : State) (f : Fn) (b : List Byte) h, h = leAt b 8 4 →
    (Ready s f.val 0x300 b → ∀ t, t = parseTable b → t.owner = partOfFn f.val → t.train ≠ 3 → 1 ≤ t.nshard → t.nshard ≤ 64 →
        t.rows ≠ 0 → (t.train = 0 → t.frac = 0 ∧ t.ledgerLog2 = 0) →
        (t.train ≠ 0 → 8 ≤ t.frac ∧ t.frac ≤ 24 ∧ 10 ≤ t.ledgerLog2 ∧ t.ledgerLog2 ≤ 24) → t.rowfmt = 1 →
        (∀ i, i < t.nshard → shardBad t i = false) → (t.code = 1 → capOn s f.val 1 = true) →
        (t.train = 2 → capOn s f.val 2 = true) → (t.remote s = true → capOn s f.val 7 = true) →
      (lk s.tables t.handle = none → tablesOwned s t.owner < tableLimit s t.owner →
        ∃ z u, exec (.tableCreate f) s = .next z ∧ Replied u z f.val 0 0 0 [] ∧ lk u.tables t.handle = some t ∧ t.placed = false ∧
          (∀ k, k ≠ t.handle → lk u.tables k = lk s.tables k) ∧ u = fwCommit { s with tables := u.tables }) ∧
      (lk s.tables t.handle = none → tableLimit s t.owner ≤ tablesOwned s t.owner →
        ∃ z, exec (.tableCreate f) s = .next z ∧ Replied s z f.val 0x16 4 0 []) ∧
      ((lk s.tables t.handle).isSome = true → ∃ z, exec (.tableCreate f) s = .next z ∧ Replied s z f.val 0x19 3 0 [])) ∧
    (Ready s f.val 0x302 b →
      (reachTable s f.val h = none → ∃ z, exec (.tableDestroy f) s = .next z ∧ Replied s z f.val 0x18 0 0 []) ∧
      (∀ t, reachTable s f.val h = some t →
        (foreign f.val t = true → ∃ z, exec (.tableDestroy f) s = .next z ∧ Replied s z f.val 0x14 1 0 []) ∧
        (foreign f.val t = false → ∀ o, tableHolder s h = some o →
          ∃ z, exec (.tableDestroy f) s = .next z ∧ Replied s z f.val 0x19 1 (holderWord f.val o) []) ∧
        (foreign f.val t = false → tableHolder s h = none → naming s t.handle ≠ [] ∨ t.mapped ≠ [] →
          ∃ z, exec (.tableDestroy f) s = .next z ∧ Replied s z f.val 0x19 3 0 []) ∧
        (foreign f.val t = false → tableHolder s h = none → naming s t.handle = [] → t.mapped = [] →
          ∃ z u, exec (.tableDestroy f) s = .next z ∧ Replied u z f.val 0 0 0 [] ∧ lk u.tables t.handle = none ∧
            (∀ k, k ≠ t.handle → lk u.tables k = lk s.tables k) ∧ (∀ e ∈ u.bindings, e.1 % 2 ^ 32 ≠ t.handle) ∧
            (∀ p ∈ devPages t.stores ++ t.ledger, lk u.pages p = some (.zeroing t.owner)) ∧
            u = fwCommit { s with tables := u.tables, bindings := u.bindings, pages := u.pages }))) ∧
    (Ready s f.val 0x303 b →
      (reachTable s f.val h = none → ∃ z, exec (.tableQuery f) s = .next z ∧ Replied s z f.val 0x18 0 0 []) ∧
      (∀ t, reachTable s f.val h = some t → ∃ z res w, exec (.tableQuery f) s = .next z ∧ Replied s z f.val 0 0 0 res ∧
        res.take 12 = leBytes 4 w ++ leBytes 4 t.descCheck.toNat ++ leBytes 4 t.epoch ∧
        w % 2 = b2n t.placed ∧ w / 4 % 2 = b2n t.golden.isSome ∧ w / 16 % 2 = b2n (tableHolder s t.handle).isSome)) ∧
    (Ready s f.val 0x304 b → handleOwner h = 32 → ∀ p, p = leAt b 0x0C 4 % 32 →
      (lk s.tables h = none → ∀ c, (c = .tableMapShared f ∧ bitOf (leAt b 0x0C 4) 8 = true ∨
          c = .tableUnmapShared f ∧ bitOf (leAt b 0x0C 4) 8 = false) →
        ∃ z, exec c s = .next z ∧ Replied s z f.val 0x18 0 0 []) ∧
      (∀ t, lk s.tables h = some t → t.handle = h → t.train = 0 → (part s p).st = .active → tableHolder s h = none →
        (bitOf (leAt b 0x0C 4) 8 = true → ∃ z u, exec (.tableMapShared f) s = .next z ∧ Replied u z f.val 0 0 0 [] ∧
          lk u.tables h = some { t with mapped := if t.mapped.contains p then t.mapped else t.mapped ++ [p] } ∧
          (∀ k, k ≠ h → lk u.tables k = lk s.tables k) ∧ u = fwCommit { s with tables := u.tables }) ∧
        (bitOf (leAt b 0x0C 4) 8 = false → ∃ z u x, exec (.tableUnmapShared f) s = .next z ∧ Replied u z f.val 0 0 0 [] ∧
          lk u.tables h = some x ∧ x.mapped = t.mapped.filter (· != p) ∧ x.stores = t.stores ∧
          (∀ k, k ≠ h → lk u.tables k = lk s.tables k) ∧ (∀ e ∈ u.bindings, e.1 % 2 ^ 32 = h → e.1 / 2 ^ 32 ≠ p) ∧
          u = fwCommit { s with tables := u.tables, bindings := u.bindings }))) ∧
    (Ready s f.val 0x305 b → ∀ t n, reachTable s f.val h = some t → t.handle = h → n = leAt b 0x18 4 →
        leAt b 0x10 5 + n ≤ t.rows → leAt b 0x1C 4 % 4 = 0 → (n ≠ 0 → srcSize t (leAt b 0x0C 1 % 4) ≤ leAt b 0x1C 4) →
        badAddr (leAt b 0x20 8) 1 = false →
      (t.owner ≠ partOfFn f.val → ∃ z, exec (.tableRegisterGolden f) s = .next z ∧ Replied s z f.val 0x14 1 0 []) ∧
      (t.owner = partOfFn f.val → tableHolder s h = none →
        ∃ z u, exec (.tableRegisterGolden f) s = .next z ∧ Replied u z f.val 0 0 0 [] ∧
          (n = 0 → lk u.tables h = some { t with golden := none }) ∧
          (n ≠ 0 → lk u.tables h = some { t with
            golden := some ⟨f.val, leAt b 0x10 5, n, leAt b 0x20 8, leAt b 0x1C 4, leAt b 0x0C 1 % 4⟩ }) ∧
          (∀ k, k ≠ h → lk u.tables k = lk s.tables k) ∧ u = fwCommit { s with tables := u.tables }))

/-- A TABLE_LOAD of a range of a PLACED table with an empty ledger starts, UNITS_TOTAL the rows of the range on this device; the operation writes rows in order until one waits, stays RUNNING there, ends FAILED with MS_BAD_FIELD 0x20 where a source row is damaged, the range from it on INCOMPLETE, and ends DONE after the last with the EPOCH given and INCOMPLETE cleared where covered. TABLE_REQUANTIZE of a DEFINED table ends DONE at once under the new CODE; of a PLACED one it takes pages, waits for a FOLD, and ends DONE on them with CODE, EPOCH and stores switched. A table that is not PLACED, or whose ledger holds an entry, refuses a load with MS_CONFLICT 3. -/
def Obligations.TableOperations : Prop :=
  ∀ (s : State) (f : Fn),
    (∀ (b : List Byte) t h, h = leAt b 8 4 → Ready s f.val 0x301 b → reachTable s f.val h = some t → foreign f.val t = false →
        tableHolder s h = none → leAt b 0x18 4 ≠ 0 → leAt b 0x10 5 + leAt b 0x18 4 ≤ t.rows → leAt b 0x1C 4 % 4 = 0 →
        srcSize t (leAt b 0x0C 1 % 4) ≤ leAt b 0x1C 4 → badAddr (leAt b 0x20 8) 1 = false →
      (t.placed = false ∨ t.used ≠ 0 → ∃ z, exec (.tableLoad f) s = .next z ∧ Replied s z f.val 0x19 3 0 []) ∧
      (t.placed = true → t.used = 0 → opsHeld s f.val < 16 → ∃ z o u, exec (.tableLoad f) s = .next z ∧ z = loadGo u o ∧
        Started s u f.val 0x301 (rowsHere t (leAt b 0x10 5) (leAt b 0x18 4)).length b [] [] o)) ∧
    (∀ (o : Op) h k st q v, Works s f.val 0x301 o → o.id ≠ 0 → h = leAt o.req 8 4 →
        loadRows o h ((loadList s o).drop o.unitsDone) o.unitsDone s = (k, st, q, v) →
      (st = 0 → ∃ z, exec (.tableLoad f) s = .next z ∧
        opOf z o.key = some { o with
          unitsDone := k, st := .done, finalMs := 0, finalDetail := 0, land := [], asked := [], ex := [] } ∧
        z = { v with ops := z.ops, tables := z.tables } ∧
        (∀ x, lk v.tables h = some x → ∃ y, lk z.tables h = some y ∧ y.stores = x.stores ∧ y.code = x.code ∧
          y.epoch = (if bitOf (leAt o.req 0x0C 4) 3 then leAt o.req 0x28 4 else x.epoch) ∧
          (x.incomplete = none → y.incomplete = none) ∧
          (∀ lo hi, x.incomplete = some (lo, hi) → leAt o.req 0x10 5 ≤ lo → hi ≤ leAt o.req 0x10 5 + leAt o.req 0x18 4 - 1 →
            y.incomplete = none))) ∧
      (st = 2 → ∃ z, exec (.tableLoad f) s = .next z ∧
        opOf z o.key = some { o with
          unitsDone := k, st := .failed, finalMs := 0x12, finalDetail := 0x20, land := [], asked := [], ex := [] } ∧
        z = { loadLeft v { o with unitsDone := k } with ops := z.ops }) ∧
      (st = 1 → exec (.tableLoad f) s = .next (askOp v { o with unitsDone := k } q))) ∧
    (∀ (b : List Byte) t h code, h = leAt b 8 4 → code = leAt b 0x0C 4 % 2 → Ready s f.val 0x308 b → reachTable s f.val h = some t →
        lk s.tables h = some t → t.handle = h → foreign f.val t = false → tableHolder s h = none → opsHeld s f.val < 16 →
        capOn s f.val 10 = true → (code = 1 ∨ t.code = 1 → capOn s f.val 1 = true) →
      (t.placed = false → ∃ z o u, exec (.tableRequantize f) s = .next z ∧ Started s u f.val 0x308 0 b [] [] o ∧
        { o with unitsDone := 0, st := .done, finalMs := 0, finalDetail := 0, land := [], asked := [], ex := [] } ∈ z.ops ∧
        lk z.tables h = some { t with
          code := code, epoch := if bitOf (leAt b 0x0C 4) 3 then leAt b 0x10 4 else t.epoch } ∧
        (∀ k, k ≠ h → lk z.tables k = lk s.tables k) ∧ z = { u with ops := z.ops, tables := z.tables }) ∧
      (t.placed = true → spilledOf t ≠ [] → ∃ z, exec (.tableRequantize f) s = .next z ∧ Replied s z f.val 0x19 3 0 []) ∧
      (t.placed = true → spilledOf t = [] → ∀ n, n = (t.stores.map (fun x => (t.withCode code).storePages x.shard)).sum →
        (availPages s t.owner < n → ∃ z, exec (.tableRequantize f) s = .next z ∧ Replied s z f.val 0x16 1 0 []) ∧
        (∀ l v, n ≤ availPages s t.owner → takePages s (fun _ => .object t.owner) n = some (l, v) →
          ∃ z o u, exec (.tableRequantize f) s = .next z ∧ z = requantGo u o ∧
            Started { s with pages := v.pages } u f.val 0x308 (t.stores.map (fun x => t.heldRows x.shard)).sum b l [] o))) ∧
    (∀ (o : Op) t h code, Works s f.val 0x308 o → o.id ≠ 0 → h = leAt o.req 8 4 → code = leAt o.req 0x0C 4 % 2 →
        lk s.tables h = some t → t.handle = h → t.placed = true →
      (t.fold.isSome = true → exec (.tableRequantize f) s = .next s) ∧
      (t.fold = none → ∃ z x, exec (.tableRequantize f) s = .next z ∧
        opOf z o.key = some { o with
          unitsDone := o.unitsTotal, st := .done, finalMs := 0, finalDetail := 0, land := [], asked := [], ex := [] } ∧
        lk z.tables h = some x ∧ x.code = code ∧ x.stores = dealPages (t.withCode code) t.stores o.acc ∧ x.placed = true ∧
        x.rows = t.rows ∧ x.epoch = (if bitOf (leAt o.req 0x0C 4) 3 then leAt o.req 0x10 4 else t.epoch) ∧ z.mbx = s.mbx))

/-- A PLACE_PLAN or PLACE_COMMIT of distinct reached tables that passes its checks starts, UNITS_TOTAL the devices measured or the pages needed here. A plan whose devices are all measured writes its result with COMMITTED clear and ends DONE, whatever the verdict. A commit that fits takes every page, writes its result with COMMITTED set, makes each listed table PLACED and ends DONE; one that does not fit writes the result and ends FAILED with MS_NO_RESOURCE 1, and takes nothing. A table that is not reached answers MS_NOT_FOUND. -/
def Obligations.PlacementOperations : Prop :=
  ∀ (s : State) (f : Fn),
    (∀ (b : List Byte) ts p, ts = placeTables s f.val b → p = placeTarget b →
        (ts.any (Table.remote s) = true → capOn s f.val 7 = true) → (f.val ≠ 0 → p = partOfFn f.val) →
        (f.val = 0 → p < 32 → (part s p).st = .active) →
      (Ready s f.val 0x306 b → firstFail (placeRange b false) = none →
        (ts.length < placeNtab b → ∃ z, exec (.placePlan f) s = .next z ∧ Replied s z f.val 0x18 0 0 []) ∧
        (placeNtab b ≤ ts.length → (∀ t ∈ ts, tableHolder s t.handle = none) → opsHeld s f.val < 16 →
          ∃ z o u, exec (.placePlan f) s = .next z ∧ z = planGo u o ∧
            Started s u f.val 0x306 (placeDevs ts).length b [] [] o)) ∧
      (Ready s f.val 0x307 b → firstFail (placeRange b true) = none →
        (ts.length < placeNtab b → ∃ z, exec (.placeCommit f) s = .next z ∧ Replied s z f.val 0x18 0 0 []) ∧
        (∀ m, m = measureHere s f.val b → placeNtab b ≤ ts.length → (∀ t ∈ ts, tableHolder s t.handle = none) →
            opsHeld s f.val < 16 → m.short ≠ 0 →
          ∃ z o u, exec (.placeCommit f) s = .next z ∧ z = commitGo u o ∧
            Started s u f.val 0x307 m.need b [] [] o))) ∧
    (∀ (o : Op) v x ms ts, Works s f.val 0x306 o → v = askOp s o (planNeeds s o) → opOf v o.key = some x →
        ts = placeTables v x.fn x.req → planMeasures v x = ms.map some →
      exec (.placePlan f) s = .next (writeResult v { x with unitsDone := ms.length } (resultSize ms.length ts.length)
        (placeResult ts ms false) (fun w => finishOp w { x with unitsDone := ms.length } .done 0 0))) ∧
    (∀ (o : Op) m ts n, Works s f.val 0x307 o → ts = placeTables s o.fn o.req → m = measureHere s o.fn o.req →
        n = resultSize 1 ts.length →
      (m.short ≠ 0 → exec (.placeCommit f) s = .next (writeResult s o n (placeResult ts [m] false)
        (fun w => finishOp w o .failed 0x16 1))) ∧
      (∀ t, m.short = 0 → ts = [t] → t.placed = false → ∀ l v,
          takePages s (fun _ => .object t.owner) (tableNeed t m.dev - (m.spill.filter (fun e => e.1 == t.handle)).length) =
            some (l, v) →
        exec (.placeCommit f) s = .next (writeResult s o n (placeResult ts [m] true) (fun w =>
          finishOp (placeTable { w with pages := v.pages } t m (fnOfPart (placeTarget o.req))
            (leAt o.req (placeSpillAt o.req 0) 8) l).1 { o with unitsDone := m.need } .done 0 0)))) ∧
    (∀ (t : Table) m fn addr l, t.placed = false → t.holds m.dev ≠ [] → ∃ x,
      lk (placeTable s t m fn addr l).1.tables t.handle = some x ∧ x.placed = true ∧ x.foldCount = 0 ∧ x.used = 0 ∧
      x.rows = t.rows ∧ x.code = t.code ∧ ∀ k, k ≠ t.handle → lk (placeTable s t m fn addr l).1.tables k = lk s.tables k)
end

