-- ==== Sys2Proof/Laws/Tab.lean ====
section
/-! SUPPORT. Laws of sparse tables: what a key reads as after an entry is listed or removed, and that every operation
keeps the canonical form. -/

set_option Elab.async false
set_option linter.unusedSimpArgs false
set_option linter.unusedTactic false
set_option linter.unreachableTactic false
set_option linter.unusedVariables false

namespace Sys2Proof.Machine

variable {α : Type}

@[simp] theorem lk_nil (k : Nat) : lk ([] : Tab α) k = none := rfl

@[simp] theorem lkD_nil (k : Nat) (d : α) : lkD ([] : Tab α) k d = d := rfl

/-- A listed key reads as what was listed. -/
@[simp] theorem lk_put_self (t : Tab α) (k : Nat) (v : α) : lk (put t k v) k = some v := by
  induction t with
  | nil => simp [put, lk]
  | cons e t ih =>
    obtain ⟨k', v'⟩ := e
    simp only [put]
    split
    · simp [lk]
    · split
      · simp [lk]
      · simp [lk, *]

/-- Listing a key leaves every other key alone. -/
theorem lk_put_ne (t : Tab α) {k j : Nat} (v : α) (h : j ≠ k) : lk (put t k v) j = lk t j := by
  induction t with
  | nil => simp [put, lk, h.symm]
  | cons e t ih =>
    obtain ⟨k', v'⟩ := e
    simp only [put]
    split
    · simp [lk, h.symm]
    · split
      · subst_vars
        simp [lk, h.symm]
      · simp [lk, ih]

@[simp] theorem lkD_put_self (t : Tab α) (k : Nat) (v d : α) : lkD (put t k v) k d = v := by simp [lkD]

theorem lkD_put_ne (t : Tab α) {k j : Nat} (v d : α) (h : j ≠ k) : lkD (put t k v) j d = lkD t j d := by
  simp [lkD, lk_put_ne t v h]

/-- A removed key is not listed. -/
@[simp] theorem lk_del_self (t : Tab α) (k : Nat) : lk (del t k) k = none := by
  unfold del
  induction t with
  | nil => rfl
  | cons e t ih =>
    obtain ⟨k', v'⟩ := e
    by_cases h : k' = k
    · simpa [h] using ih
    · simpa [h, lk] using ih

/-- Removing a key leaves every other key alone. -/
theorem lk_del_ne (t : Tab α) {k j : Nat} (h : j ≠ k) : lk (del t k) j = lk t j := by
  unfold del
  induction t with
  | nil => rfl
  | cons e t ih =>
    obtain ⟨k', v'⟩ := e
    by_cases hk : k' = k
    · subst hk
      simpa [lk, h.symm] using ih
    · simp [hk, lk, ih]

@[simp] theorem lkD_del_self (t : Tab α) (k : Nat) (d : α) : lkD (del t k) k d = d := by simp [lkD]

theorem lkD_del_ne (t : Tab α) {k j : Nat} (d : α) (h : j ≠ k) : lkD (del t k) j d = lkD t j d := by
  simp [lkD, lk_del_ne t h]

/-- A key reads as what it was given. -/
@[simp] theorem lkD_setD_self [DecidableEq α] (t : Tab α) (k : Nat) (v d : α) : lkD (setD t k v d) k d = v := by
  unfold setD
  split <;> simp [*]

/-- Giving a key a value leaves every other key alone. -/
theorem lk_setD_ne [DecidableEq α] (t : Tab α) {k j : Nat} (v d : α) (h : j ≠ k) : lk (setD t k v d) j = lk t j := by
  unfold setD
  split
  · exact lk_del_ne t h
  · exact lk_put_ne t v h

theorem lkD_setD_ne [DecidableEq α] (t : Tab α) {k j : Nat} (v d e : α) (h : j ≠ k) :
    lkD (setD t k v d) j e = lkD t j e := by simp [lkD, lk_setD_ne t v d h]

@[simp] theorem lkD_updD_self [DecidableEq α] (t : Tab α) (k : Nat) (d : α) (f : α → α) :
    lkD (updD t k d f) k d = f (lkD t k d) := by simp [updD]

theorem lkD_updD_ne [DecidableEq α] (t : Tab α) {k j : Nat} (d : α) (f : α → α) (h : j ≠ k) :
    lkD (updD t k d f) j d = lkD t j d := by simp [updD, lkD_setD_ne t _ d d h]

/-- A table built from a list of keys, without the entries that read as the default anyway. -/
theorem lkD_map_filter {β : Type} [DecidableEq α] (l : List β) (k : β → Nat) (g : β → α) (d : α) (j : β)
    (hk : ∀ a b, k a = k b → a = b) (hj : j ∈ l) :
    lkD ((l.map (fun i => (k i, g i))).filter (fun e => e.2 != d) : Tab α) (k j) d = g j := by
  induction l with
  | nil => simp at hj
  | cons a l ih =>
    by_cases ha : a = j
    · subst ha
      by_cases hg : g a = d
      · by_cases hl : a ∈ l
        · simpa [hg] using (ih hl).trans hg
        · simp only [List.map_cons, List.filter_cons, hg, bne_self_eq_false, Bool.false_eq_true, if_false]
          clear ih hj
          induction l with
          | nil => rfl
          | cons b l ih =>
            simp only [List.mem_cons, not_or] at hl
            simp only [List.map_cons, List.filter_cons]
            split
            · simp only [lkD, lk]
              rw [if_neg (fun h => hl.1 (hk _ _ h).symm)]
              exact ih hl.2
            · exact ih hl.2
      · simp [hg, lkD, lk]
    · have hl : j ∈ l := by simpa [Ne.symm ha] using hj
      simp only [List.map_cons, List.filter_cons]
      split
      · simp only [lkD, lk]
        rw [if_neg (fun h => ha (hk _ _ h))]
        exact ih hl
      · exact ih hl

/-- Keeping entries by their keys keeps what the other keys read as. -/
theorem lk_filter_key (t : Tab α) (p : Nat → Bool) (k : Nat) :
    lk (t.filter (fun e => p e.1) : Tab α) k = if p k then lk t k else none := by
  induction t with
  | nil => simp [lk]
  | cons e t ih =>
    obtain ⟨k', v⟩ := e
    by_cases h : p k'
    · by_cases hk : k' = k
      · subst hk; simp [lk, h]
      · simp [lk, h, hk, ih]
    · by_cases hk : k' = k
      · subst hk; simpa [lk, h] using ih
      · simp [lk, h, hk, ih]

theorem lkD_filter_key (t : Tab α) (p : Nat → Bool) (k : Nat) (d : α) :
    lkD (t.filter (fun e => p e.1) : Tab α) k d = if p k then lkD t k d else d := by
  simp only [lkD, lk_filter_key]
  split <;> rfl

/-- Changing values key by key. -/
theorem lk_map_val (t : Tab α) (f : Nat → α → α) (k : Nat) :
    lk (t.map (fun e => (e.1, f e.1 e.2)) : Tab α) k = (lk t k).map (f k) := by
  induction t with
  | nil => rfl
  | cons e t ih =>
    obtain ⟨k', v⟩ := e
    by_cases hk : k' = k
    · subst hk; simp [lk]
    · simp [lk, hk, ih]

/-- An entry that is found is listed. -/
theorem lk_mem (t : Tab α) (k : Nat) (v : α) (h : lk t k = some v) : (k, v) ∈ t := by
  induction t with
  | nil => simp at h
  | cons e t ih =>
    obtain ⟨k', v'⟩ := e
    simp only [lk] at h
    split at h
    · rename_i hk; cases h; subst hk; exact List.mem_cons_self ..
    · exact List.mem_cons_of_mem _ (ih h)

/-- A key that no entry names reads as the default. -/
theorem lk_of_not_mem (t : Tab α) (k : Nat) (h : k ∉ t.map (·.1)) : lk t k = none := by
  induction t with
  | nil => rfl
  | cons e t ih =>
    obtain ⟨k', v⟩ := e
    simp only [List.map_cons, List.mem_cons, not_or] at h
    simp only [lk]
    rw [if_neg (fun e => h.1 e.symm)]
    exact ih h.2

/-- Listing every entry of a table over another. -/
theorem lk_foldr_put (l t : Tab α) (k : Nat) :
    lk (l.foldr (fun e t => put t e.1 e.2) t) k = (lk l k).orElse (fun _ => lk t k) := by
  induction l with
  | nil => simp
  | cons e l ih =>
    obtain ⟨k', v⟩ := e
    by_cases hk : k' = k
    · subst hk; simp [lk]
    · simp [lk, hk, lk_put_ne _ _ (Ne.symm hk), ih]

/-! ### The canonical form -/

/-- Keys rise in a table exactly where its first key lies below the others and they rise. -/
theorem sorted_cons (k : Nat) (v : α) (t : Tab α) :
    Tab.sorted ((k, v) :: t) = true ↔ (∀ e ∈ t, k < e.1) ∧ Tab.sorted t = true := by
  induction t generalizing k v with
  | nil => simp [Tab.sorted]
  | cons e t ih =>
    obtain ⟨k', v'⟩ := e
    constructor
    · intro h
      simp only [Tab.sorted, Bool.and_eq_true, decide_eq_true_eq] at h
      refine ⟨?_, h.2⟩
      intro e he
      rcases List.mem_cons.1 he with rfl | he
      · exact h.1
      · exact Nat.lt_trans h.1 (((ih k' v').1 h.2).1 e he)
    · intro h
      simp only [Tab.sorted, Bool.and_eq_true, decide_eq_true_eq]
      exact ⟨h.1 (k', v') (List.mem_cons_self ..), h.2⟩

/-- What a listing holds is the new entry or was held before. -/
theorem mem_put {t : Tab α} {k : Nat} {v : α} {e : Nat × α} (h : e ∈ put t k v) : e = (k, v) ∨ e ∈ t := by
  induction t with
  | nil => simpa [put] using h
  | cons x t ih =>
    obtain ⟨k', v'⟩ := x
    simp only [put] at h
    split at h
    · simpa using h
    · split at h
      · rcases List.mem_cons.1 h with h | h
        · exact .inl h
        · exact .inr (List.mem_cons_of_mem _ h)
      · rcases List.mem_cons.1 h with h | h
        · exact .inr (h ▸ List.mem_cons_self ..)
        · exact (ih h).imp id (List.mem_cons_of_mem _)

/-- Listing a key keeps the keys rising. -/
theorem sorted_put (t : Tab α) (k : Nat) (v : α) (h : Tab.sorted t = true) : Tab.sorted (put t k v) = true := by
  induction t with
  | nil => rfl
  | cons e t ih =>
    obtain ⟨k', v'⟩ := e
    obtain ⟨hk, ht⟩ := (sorted_cons k' v' t).1 h
    simp only [put]
    split
    · rename_i hlt
      refine (sorted_cons _ _ _).2 ⟨?_, h⟩
      intro e he
      rcases List.mem_cons.1 he with rfl | he
      · exact hlt
      · exact Nat.lt_trans hlt (hk e he)
    · split
      · subst_vars
        exact (sorted_cons _ _ _).2 ⟨hk, ht⟩
      · rename_i h1 h2
        refine (sorted_cons _ _ _).2 ⟨?_, ih ht⟩
        intro e he
        rcases mem_put he with rfl | he
        · show k' < k
          omega
        · exact hk e he

/-- Removing keys keeps the keys rising. -/
theorem sorted_filter (t : Tab α) (p : Nat × α → Bool) (h : Tab.sorted t = true) :
    Tab.sorted (t.filter p : Tab α) = true := by
  induction t with
  | nil => rfl
  | cons e t ih =>
    obtain ⟨k, v⟩ := e
    obtain ⟨hk, ht⟩ := (sorted_cons k v t).1 h
    by_cases hp : p (k, v) = true
    · rw [List.filter_cons_of_pos hp]
      exact (sorted_cons _ _ _).2 ⟨fun e he => hk e (List.mem_filter.1 he).1, ih ht⟩
    · rw [List.filter_cons_of_neg hp]
      exact ih ht

theorem sorted_del (t : Tab α) (k : Nat) (h : Tab.sorted t = true) : Tab.sorted (del t k) = true :=
  sorted_filter t _ h

/-- Giving a key a value keeps the canonical form. -/
theorem wf_setD [DecidableEq α] (t : Tab α) (k : Nat) (v d : α) (h : Tab.wf d t = true) :
    Tab.wf d (setD t k v d) = true := by
  simp only [Tab.wf, Bool.and_eq_true, List.all_eq_true, decide_eq_true_eq] at h ⊢
  unfold setD
  split
  · exact ⟨sorted_del t k h.1, fun e he => h.2 e (List.mem_filter.1 he).1⟩
  · refine ⟨sorted_put t k v h.1, fun e he => ?_⟩
    rcases mem_put he with rfl | he
    · assumption
    · exact h.2 e he

theorem wf_updD [DecidableEq α] (t : Tab α) (k : Nat) (d : α) (f : α → α) (h : Tab.wf d t = true) :
    Tab.wf d (updD t k d f) = true := wf_setD t k _ d h

/-! ### adj -/

theorem lk_adj_self {α : Type} (t : Tab α) (k : Nat) (f : α → α) : lk (adj t k f) k = (lk t k).map f := by
  unfold adj
  cases h : lk t k <;> simp [h]

theorem lk_adj_ne {α : Type} (t : Tab α) {k q : Nat} (f : α → α) (h : q ≠ k) : lk (adj t k f) q = lk t q := by
  unfold adj
  split
  · exact lk_put_ne _ _ h
  · rfl

theorem lkD_adj_ne {α : Type} (t : Tab α) {k q : Nat} (f : α → α) (d : α) (h : q ≠ k) : lkD (adj t k f) q d = lkD t q d := by
  simp only [lkD, lk_adj_ne t f h]

end Sys2Proof.Machine
end

