-- ==== Sys2Proof/Laws/State.lean ====
section
/-! SUPPORT. What the plain updates of `State` leave alone, field by field, and what they make the views of `State` read.
No proof needs to unfold a record update. -/

set_option Elab.async false
set_option linter.unusedSimpArgs false
set_option linter.unusedTactic false
set_option linter.unreachableTactic false
set_option linter.unusedVariables false

namespace Sys2Proof.Machine

variable (s : State)

/-! ### cntAdd -/

@[simp] theorem cntAdd_pending (k n : Nat) : (cntAdd s k n).pending = s.pending := rfl
@[simp] theorem cntAdd_ident (k n : Nat) : (cntAdd s k n).ident = s.ident := rfl
@[simp] theorem cntAdd_clk (k n : Nat) : (cntAdd s k n).clk = s.clk := rfl
@[simp] theorem cntAdd_evt (k n : Nat) : (cntAdd s k n).evt = s.evt := rfl
@[simp] theorem cntAdd_hif (k n : Nat) : (cntAdd s k n).hif = s.hif := rfl
@[simp] theorem cntAdd_mbx (k n : Nat) : (cntAdd s k n).mbx = s.mbx := rfl
@[simp] theorem cntAdd_ops (k n : Nat) : (cntAdd s k n).ops = s.ops := rfl
@[simp] theorem cntAdd_opNext (k n : Nat) : (cntAdd s k n).opNext = s.opNext := rfl
@[simp] theorem cntAdd_fw (k n : Nat) : (cntAdd s k n).fw = s.fw := rfl
@[simp] theorem cntAdd_mem (k n : Nat) : (cntAdd s k n).mem = s.mem := rfl
@[simp] theorem cntAdd_parts (k n : Nat) : (cntAdd s k n).parts = s.parts := rfl
@[simp] theorem cntAdd_pages (k n : Nat) : (cntAdd s k n).pages = s.pages := rfl
@[simp] theorem cntAdd_tables (k n : Nat) : (cntAdd s k n).tables = s.tables := rfl
@[simp] theorem cntAdd_adapters (k n : Nat) : (cntAdd s k n).adapters = s.adapters := rfl
@[simp] theorem cntAdd_bindings (k n : Nat) : (cntAdd s k n).bindings = s.bindings := rfl
@[simp] theorem cntAdd_streams (k n : Nat) : (cntAdd s k n).streams = s.streams := rfl
@[simp] theorem cntAdd_pod (k n : Nat) : (cntAdd s k n).pod = s.pod := rfl
@[simp] theorem cntAdd_pwr (k n : Nat) : (cntAdd s k n).pwr = s.pwr := rfl
@[simp] theorem cntAdd_pins (k n : Nat) : (cntAdd s k n).pins = s.pins := rfl
@[simp] theorem cntAdd_bg (k n : Nat) : (cntAdd s k n).bg = s.bg := rfl
@[simp] theorem cntAdd_mgmt (k n : Nat) : (cntAdd s k n).mgmt = s.mgmt := rfl
@[simp] theorem cntAdd_jtag (k n : Nat) : (cntAdd s k n).jtag = s.jtag := rfl
@[simp] theorem cntAdd_gal (k n : Nat) : (cntAdd s k n).gal = s.gal := rfl
@[simp] theorem cntAdd_locks (k n : Nat) : (cntAdd s k n).locks = s.locks := rfl
@[simp] theorem cntAdd_cores (k n : Nat) : (cntAdd s k n).cores = s.cores := rfl
@[simp] theorem cntAdd_quo (k n : Nat) : (cntAdd s k n).quo = s.quo := rfl
@[simp] theorem cntAdd_profiles (k n : Nat) : (cntAdd s k n).profiles = s.profiles := rfl
@[simp] theorem cntAdd_grammars (k n : Nat) : (cntAdd s k n).grammars = s.grammars := rfl
@[simp] theorem cntAdd_units (k n : Nat) : (cntAdd s k n).units = s.units := rfl
@[simp] theorem cntAdd_unitWait (k n : Nat) : (cntAdd s k n).unitWait = s.unitWait := rfl
@[simp] theorem cntAdd_rr (k n : Nat) : (cntAdd s k n).rr = s.rr := rfl
@[simp] theorem cntAdd_stallRem (k n : Nat) : (cntAdd s k n).stallRem = s.stallRem := rfl
@[simp] theorem cntAdd_freeCtr (k n : Nat) : (cntAdd s k n).freeCtr = s.freeCtr := rfl

/-! ### setDue -/

@[simp] theorem setDue_pending (p : Per) (n : Nat) : (setDue s p n).pending = s.pending := rfl
@[simp] theorem setDue_ident (p : Per) (n : Nat) : (setDue s p n).ident = s.ident := rfl
@[simp] theorem setDue_evt (p : Per) (n : Nat) : (setDue s p n).evt = s.evt := rfl
@[simp] theorem setDue_cfg (p : Per) (n : Nat) : (setDue s p n).cfg = s.cfg := rfl
@[simp] theorem setDue_hif (p : Per) (n : Nat) : (setDue s p n).hif = s.hif := rfl
@[simp] theorem setDue_mbx (p : Per) (n : Nat) : (setDue s p n).mbx = s.mbx := rfl
@[simp] theorem setDue_ops (p : Per) (n : Nat) : (setDue s p n).ops = s.ops := rfl
@[simp] theorem setDue_opNext (p : Per) (n : Nat) : (setDue s p n).opNext = s.opNext := rfl
@[simp] theorem setDue_fw (p : Per) (n : Nat) : (setDue s p n).fw = s.fw := rfl
@[simp] theorem setDue_mem (p : Per) (n : Nat) : (setDue s p n).mem = s.mem := rfl
@[simp] theorem setDue_parts (p : Per) (n : Nat) : (setDue s p n).parts = s.parts := rfl
@[simp] theorem setDue_pages (p : Per) (n : Nat) : (setDue s p n).pages = s.pages := rfl
@[simp] theorem setDue_tables (p : Per) (n : Nat) : (setDue s p n).tables = s.tables := rfl
@[simp] theorem setDue_adapters (p : Per) (n : Nat) : (setDue s p n).adapters = s.adapters := rfl
@[simp] theorem setDue_bindings (p : Per) (n : Nat) : (setDue s p n).bindings = s.bindings := rfl
@[simp] theorem setDue_streams (p : Per) (n : Nat) : (setDue s p n).streams = s.streams := rfl
@[simp] theorem setDue_pod (p : Per) (n : Nat) : (setDue s p n).pod = s.pod := rfl
@[simp] theorem setDue_pwr (p : Per) (n : Nat) : (setDue s p n).pwr = s.pwr := rfl
@[simp] theorem setDue_pins (p : Per) (n : Nat) : (setDue s p n).pins = s.pins := rfl
@[simp] theorem setDue_bg (p : Per) (n : Nat) : (setDue s p n).bg = s.bg := rfl
@[simp] theorem setDue_mgmt (p : Per) (n : Nat) : (setDue s p n).mgmt = s.mgmt := rfl
@[simp] theorem setDue_jtag (p : Per) (n : Nat) : (setDue s p n).jtag = s.jtag := rfl
@[simp] theorem setDue_gal (p : Per) (n : Nat) : (setDue s p n).gal = s.gal := rfl
@[simp] theorem setDue_locks (p : Per) (n : Nat) : (setDue s p n).locks = s.locks := rfl
@[simp] theorem setDue_cores (p : Per) (n : Nat) : (setDue s p n).cores = s.cores := rfl
@[simp] theorem setDue_quo (p : Per) (n : Nat) : (setDue s p n).quo = s.quo := rfl
@[simp] theorem setDue_profiles (p : Per) (n : Nat) : (setDue s p n).profiles = s.profiles := rfl
@[simp] theorem setDue_grammars (p : Per) (n : Nat) : (setDue s p n).grammars = s.grammars := rfl
@[simp] theorem setDue_units (p : Per) (n : Nat) : (setDue s p n).units = s.units := rfl
@[simp] theorem setDue_unitWait (p : Per) (n : Nat) : (setDue s p n).unitWait = s.unitWait := rfl
@[simp] theorem setDue_rr (p : Per) (n : Nat) : (setDue s p n).rr = s.rr := rfl
@[simp] theorem setDue_stallRem (p : Per) (n : Nat) : (setDue s p n).stallRem = s.stallRem := rfl
@[simp] theorem setDue_freeCtr (p : Per) (n : Nat) : (setDue s p n).freeCtr = s.freeCtr := rfl

/-! ### setDueIn -/

@[simp] theorem setDueIn_pending (p : Per) (n : Nat) : (setDueIn s p n).pending = s.pending := rfl
@[simp] theorem setDueIn_ident (p : Per) (n : Nat) : (setDueIn s p n).ident = s.ident := rfl
@[simp] theorem setDueIn_evt (p : Per) (n : Nat) : (setDueIn s p n).evt = s.evt := rfl
@[simp] theorem setDueIn_cfg (p : Per) (n : Nat) : (setDueIn s p n).cfg = s.cfg := rfl
@[simp] theorem setDueIn_hif (p : Per) (n : Nat) : (setDueIn s p n).hif = s.hif := rfl
@[simp] theorem setDueIn_mbx (p : Per) (n : Nat) : (setDueIn s p n).mbx = s.mbx := rfl
@[simp] theorem setDueIn_ops (p : Per) (n : Nat) : (setDueIn s p n).ops = s.ops := rfl
@[simp] theorem setDueIn_opNext (p : Per) (n : Nat) : (setDueIn s p n).opNext = s.opNext := rfl
@[simp] theorem setDueIn_fw (p : Per) (n : Nat) : (setDueIn s p n).fw = s.fw := rfl
@[simp] theorem setDueIn_mem (p : Per) (n : Nat) : (setDueIn s p n).mem = s.mem := rfl
@[simp] theorem setDueIn_parts (p : Per) (n : Nat) : (setDueIn s p n).parts = s.parts := rfl
@[simp] theorem setDueIn_pages (p : Per) (n : Nat) : (setDueIn s p n).pages = s.pages := rfl
@[simp] theorem setDueIn_tables (p : Per) (n : Nat) : (setDueIn s p n).tables = s.tables := rfl
@[simp] theorem setDueIn_adapters (p : Per) (n : Nat) : (setDueIn s p n).adapters = s.adapters := rfl
@[simp] theorem setDueIn_bindings (p : Per) (n : Nat) : (setDueIn s p n).bindings = s.bindings := rfl
@[simp] theorem setDueIn_streams (p : Per) (n : Nat) : (setDueIn s p n).streams = s.streams := rfl
@[simp] theorem setDueIn_pod (p : Per) (n : Nat) : (setDueIn s p n).pod = s.pod := rfl
@[simp] theorem setDueIn_pwr (p : Per) (n : Nat) : (setDueIn s p n).pwr = s.pwr := rfl
@[simp] theorem setDueIn_pins (p : Per) (n : Nat) : (setDueIn s p n).pins = s.pins := rfl
@[simp] theorem setDueIn_bg (p : Per) (n : Nat) : (setDueIn s p n).bg = s.bg := rfl
@[simp] theorem setDueIn_mgmt (p : Per) (n : Nat) : (setDueIn s p n).mgmt = s.mgmt := rfl
@[simp] theorem setDueIn_jtag (p : Per) (n : Nat) : (setDueIn s p n).jtag = s.jtag := rfl
@[simp] theorem setDueIn_gal (p : Per) (n : Nat) : (setDueIn s p n).gal = s.gal := rfl
@[simp] theorem setDueIn_locks (p : Per) (n : Nat) : (setDueIn s p n).locks = s.locks := rfl
@[simp] theorem setDueIn_cores (p : Per) (n : Nat) : (setDueIn s p n).cores = s.cores := rfl
@[simp] theorem setDueIn_quo (p : Per) (n : Nat) : (setDueIn s p n).quo = s.quo := rfl
@[simp] theorem setDueIn_profiles (p : Per) (n : Nat) : (setDueIn s p n).profiles = s.profiles := rfl
@[simp] theorem setDueIn_grammars (p : Per) (n : Nat) : (setDueIn s p n).grammars = s.grammars := rfl
@[simp] theorem setDueIn_units (p : Per) (n : Nat) : (setDueIn s p n).units = s.units := rfl
@[simp] theorem setDueIn_unitWait (p : Per) (n : Nat) : (setDueIn s p n).unitWait = s.unitWait := rfl
@[simp] theorem setDueIn_rr (p : Per) (n : Nat) : (setDueIn s p n).rr = s.rr := rfl
@[simp] theorem setDueIn_stallRem (p : Per) (n : Nat) : (setDueIn s p n).stallRem = s.stallRem := rfl
@[simp] theorem setDueIn_freeCtr (p : Per) (n : Nat) : (setDueIn s p n).freeCtr = s.freeCtr := rfl

/-! ### postOne -/

/-- What it leaves alone. -/
theorem postOne_frame (l : Nat) (r : EvRec) : postOne s l r = { s with evt := (postOne s l r).evt } := by
  simp only [postOne]
  split <;> rfl

@[simp] theorem postOne_pending (l : Nat) (r : EvRec) : (postOne s l r).pending = s.pending := (congrArg State.pending (postOne_frame s l r) :)
@[simp] theorem postOne_ident (l : Nat) (r : EvRec) : (postOne s l r).ident = s.ident := (congrArg State.ident (postOne_frame s l r) :)
@[simp] theorem postOne_clk (l : Nat) (r : EvRec) : (postOne s l r).clk = s.clk := (congrArg State.clk (postOne_frame s l r) :)
@[simp] theorem postOne_cfg (l : Nat) (r : EvRec) : (postOne s l r).cfg = s.cfg := (congrArg State.cfg (postOne_frame s l r) :)
@[simp] theorem postOne_hif (l : Nat) (r : EvRec) : (postOne s l r).hif = s.hif := (congrArg State.hif (postOne_frame s l r) :)
@[simp] theorem postOne_mbx (l : Nat) (r : EvRec) : (postOne s l r).mbx = s.mbx := (congrArg State.mbx (postOne_frame s l r) :)
@[simp] theorem postOne_ops (l : Nat) (r : EvRec) : (postOne s l r).ops = s.ops := (congrArg State.ops (postOne_frame s l r) :)
@[simp] theorem postOne_opNext (l : Nat) (r : EvRec) : (postOne s l r).opNext = s.opNext := (congrArg State.opNext (postOne_frame s l r) :)
@[simp] theorem postOne_fw (l : Nat) (r : EvRec) : (postOne s l r).fw = s.fw := (congrArg State.fw (postOne_frame s l r) :)
@[simp] theorem postOne_mem (l : Nat) (r : EvRec) : (postOne s l r).mem = s.mem := (congrArg State.mem (postOne_frame s l r) :)
@[simp] theorem postOne_parts (l : Nat) (r : EvRec) : (postOne s l r).parts = s.parts := (congrArg State.parts (postOne_frame s l r) :)
@[simp] theorem postOne_pages (l : Nat) (r : EvRec) : (postOne s l r).pages = s.pages := (congrArg State.pages (postOne_frame s l r) :)
@[simp] theorem postOne_tables (l : Nat) (r : EvRec) : (postOne s l r).tables = s.tables := (congrArg State.tables (postOne_frame s l r) :)
@[simp] theorem postOne_adapters (l : Nat) (r : EvRec) : (postOne s l r).adapters = s.adapters := (congrArg State.adapters (postOne_frame s l r) :)
@[simp] theorem postOne_bindings (l : Nat) (r : EvRec) : (postOne s l r).bindings = s.bindings := (congrArg State.bindings (postOne_frame s l r) :)
@[simp] theorem postOne_streams (l : Nat) (r : EvRec) : (postOne s l r).streams = s.streams := (congrArg State.streams (postOne_frame s l r) :)
@[simp] theorem postOne_pod (l : Nat) (r : EvRec) : (postOne s l r).pod = s.pod := (congrArg State.pod (postOne_frame s l r) :)
@[simp] theorem postOne_pwr (l : Nat) (r : EvRec) : (postOne s l r).pwr = s.pwr := (congrArg State.pwr (postOne_frame s l r) :)
@[simp] theorem postOne_pins (l : Nat) (r : EvRec) : (postOne s l r).pins = s.pins := (congrArg State.pins (postOne_frame s l r) :)
@[simp] theorem postOne_bg (l : Nat) (r : EvRec) : (postOne s l r).bg = s.bg := (congrArg State.bg (postOne_frame s l r) :)
@[simp] theorem postOne_mgmt (l : Nat) (r : EvRec) : (postOne s l r).mgmt = s.mgmt := (congrArg State.mgmt (postOne_frame s l r) :)
@[simp] theorem postOne_jtag (l : Nat) (r : EvRec) : (postOne s l r).jtag = s.jtag := (congrArg State.jtag (postOne_frame s l r) :)
@[simp] theorem postOne_gal (l : Nat) (r : EvRec) : (postOne s l r).gal = s.gal := (congrArg State.gal (postOne_frame s l r) :)
@[simp] theorem postOne_locks (l : Nat) (r : EvRec) : (postOne s l r).locks = s.locks := (congrArg State.locks (postOne_frame s l r) :)
@[simp] theorem postOne_cores (l : Nat) (r : EvRec) : (postOne s l r).cores = s.cores := (congrArg State.cores (postOne_frame s l r) :)
@[simp] theorem postOne_quo (l : Nat) (r : EvRec) : (postOne s l r).quo = s.quo := (congrArg State.quo (postOne_frame s l r) :)
@[simp] theorem postOne_profiles (l : Nat) (r : EvRec) : (postOne s l r).profiles = s.profiles := (congrArg State.profiles (postOne_frame s l r) :)
@[simp] theorem postOne_grammars (l : Nat) (r : EvRec) : (postOne s l r).grammars = s.grammars := (congrArg State.grammars (postOne_frame s l r) :)
@[simp] theorem postOne_units (l : Nat) (r : EvRec) : (postOne s l r).units = s.units := (congrArg State.units (postOne_frame s l r) :)
@[simp] theorem postOne_unitWait (l : Nat) (r : EvRec) : (postOne s l r).unitWait = s.unitWait := (congrArg State.unitWait (postOne_frame s l r) :)
@[simp] theorem postOne_rr (l : Nat) (r : EvRec) : (postOne s l r).rr = s.rr := (congrArg State.rr (postOne_frame s l r) :)
@[simp] theorem postOne_stallRem (l : Nat) (r : EvRec) : (postOne s l r).stallRem = s.stallRem := (congrArg State.stallRem (postOne_frame s l r) :)
@[simp] theorem postOne_freeCtr (l : Nat) (r : EvRec) : (postOne s l r).freeCtr = s.freeCtr := (congrArg State.freeCtr (postOne_frame s l r) :)

/-! ### postG -/

/-- What it leaves alone. -/
theorem postG_frame (type sev p0 p1 p2 p3 : Nat) : postG s type sev p0 p1 p2 p3 = { s with evt := (postG s type sev p0 p1 p2 p3).evt } := postOne_frame s _ _

@[simp] theorem postG_pending (type sev p0 p1 p2 p3 : Nat) : (postG s type sev p0 p1 p2 p3).pending = s.pending := (congrArg State.pending (postG_frame s type sev p0 p1 p2 p3) :)
@[simp] theorem postG_ident (type sev p0 p1 p2 p3 : Nat) : (postG s type sev p0 p1 p2 p3).ident = s.ident := (congrArg State.ident (postG_frame s type sev p0 p1 p2 p3) :)
@[simp] theorem postG_clk (type sev p0 p1 p2 p3 : Nat) : (postG s type sev p0 p1 p2 p3).clk = s.clk := (congrArg State.clk (postG_frame s type sev p0 p1 p2 p3) :)
@[simp] theorem postG_cfg (type sev p0 p1 p2 p3 : Nat) : (postG s type sev p0 p1 p2 p3).cfg = s.cfg := (congrArg State.cfg (postG_frame s type sev p0 p1 p2 p3) :)
@[simp] theorem postG_hif (type sev p0 p1 p2 p3 : Nat) : (postG s type sev p0 p1 p2 p3).hif = s.hif := (congrArg State.hif (postG_frame s type sev p0 p1 p2 p3) :)
@[simp] theorem postG_mbx (type sev p0 p1 p2 p3 : Nat) : (postG s type sev p0 p1 p2 p3).mbx = s.mbx := (congrArg State.mbx (postG_frame s type sev p0 p1 p2 p3) :)
@[simp] theorem postG_ops (type sev p0 p1 p2 p3 : Nat) : (postG s type sev p0 p1 p2 p3).ops = s.ops := (congrArg State.ops (postG_frame s type sev p0 p1 p2 p3) :)
@[simp] theorem postG_opNext (type sev p0 p1 p2 p3 : Nat) : (postG s type sev p0 p1 p2 p3).opNext = s.opNext := (congrArg State.opNext (postG_frame s type sev p0 p1 p2 p3) :)
@[simp] theorem postG_fw (type sev p0 p1 p2 p3 : Nat) : (postG s type sev p0 p1 p2 p3).fw = s.fw := (congrArg State.fw (postG_frame s type sev p0 p1 p2 p3) :)
@[simp] theorem postG_mem (type sev p0 p1 p2 p3 : Nat) : (postG s type sev p0 p1 p2 p3).mem = s.mem := (congrArg State.mem (postG_frame s type sev p0 p1 p2 p3) :)
@[simp] theorem postG_parts (type sev p0 p1 p2 p3 : Nat) : (postG s type sev p0 p1 p2 p3).parts = s.parts := (congrArg State.parts (postG_frame s type sev p0 p1 p2 p3) :)
@[simp] theorem postG_pages (type sev p0 p1 p2 p3 : Nat) : (postG s type sev p0 p1 p2 p3).pages = s.pages := (congrArg State.pages (postG_frame s type sev p0 p1 p2 p3) :)
@[simp] theorem postG_tables (type sev p0 p1 p2 p3 : Nat) : (postG s type sev p0 p1 p2 p3).tables = s.tables := (congrArg State.tables (postG_frame s type sev p0 p1 p2 p3) :)
@[simp] theorem postG_adapters (type sev p0 p1 p2 p3 : Nat) : (postG s type sev p0 p1 p2 p3).adapters = s.adapters := (congrArg State.adapters (postG_frame s type sev p0 p1 p2 p3) :)
@[simp] theorem postG_bindings (type sev p0 p1 p2 p3 : Nat) : (postG s type sev p0 p1 p2 p3).bindings = s.bindings := (congrArg State.bindings (postG_frame s type sev p0 p1 p2 p3) :)
@[simp] theorem postG_streams (type sev p0 p1 p2 p3 : Nat) : (postG s type sev p0 p1 p2 p3).streams = s.streams := (congrArg State.streams (postG_frame s type sev p0 p1 p2 p3) :)
@[simp] theorem postG_pod (type sev p0 p1 p2 p3 : Nat) : (postG s type sev p0 p1 p2 p3).pod = s.pod := (congrArg State.pod (postG_frame s type sev p0 p1 p2 p3) :)
@[simp] theorem postG_pwr (type sev p0 p1 p2 p3 : Nat) : (postG s type sev p0 p1 p2 p3).pwr = s.pwr := (congrArg State.pwr (postG_frame s type sev p0 p1 p2 p3) :)
@[simp] theorem postG_pins (type sev p0 p1 p2 p3 : Nat) : (postG s type sev p0 p1 p2 p3).pins = s.pins := (congrArg State.pins (postG_frame s type sev p0 p1 p2 p3) :)
@[simp] theorem postG_bg (type sev p0 p1 p2 p3 : Nat) : (postG s type sev p0 p1 p2 p3).bg = s.bg := (congrArg State.bg (postG_frame s type sev p0 p1 p2 p3) :)
@[simp] theorem postG_mgmt (type sev p0 p1 p2 p3 : Nat) : (postG s type sev p0 p1 p2 p3).mgmt = s.mgmt := (congrArg State.mgmt (postG_frame s type sev p0 p1 p2 p3) :)
@[simp] theorem postG_jtag (type sev p0 p1 p2 p3 : Nat) : (postG s type sev p0 p1 p2 p3).jtag = s.jtag := (congrArg State.jtag (postG_frame s type sev p0 p1 p2 p3) :)
@[simp] theorem postG_gal (type sev p0 p1 p2 p3 : Nat) : (postG s type sev p0 p1 p2 p3).gal = s.gal := (congrArg State.gal (postG_frame s type sev p0 p1 p2 p3) :)
@[simp] theorem postG_locks (type sev p0 p1 p2 p3 : Nat) : (postG s type sev p0 p1 p2 p3).locks = s.locks := (congrArg State.locks (postG_frame s type sev p0 p1 p2 p3) :)
@[simp] theorem postG_cores (type sev p0 p1 p2 p3 : Nat) : (postG s type sev p0 p1 p2 p3).cores = s.cores := (congrArg State.cores (postG_frame s type sev p0 p1 p2 p3) :)
@[simp] theorem postG_quo (type sev p0 p1 p2 p3 : Nat) : (postG s type sev p0 p1 p2 p3).quo = s.quo := (congrArg State.quo (postG_frame s type sev p0 p1 p2 p3) :)
@[simp] theorem postG_profiles (type sev p0 p1 p2 p3 : Nat) : (postG s type sev p0 p1 p2 p3).profiles = s.profiles := (congrArg State.profiles (postG_frame s type sev p0 p1 p2 p3) :)
@[simp] theorem postG_grammars (type sev p0 p1 p2 p3 : Nat) : (postG s type sev p0 p1 p2 p3).grammars = s.grammars := (congrArg State.grammars (postG_frame s type sev p0 p1 p2 p3) :)
@[simp] theorem postG_units (type sev p0 p1 p2 p3 : Nat) : (postG s type sev p0 p1 p2 p3).units = s.units := (congrArg State.units (postG_frame s type sev p0 p1 p2 p3) :)
@[simp] theorem postG_unitWait (type sev p0 p1 p2 p3 : Nat) : (postG s type sev p0 p1 p2 p3).unitWait = s.unitWait := (congrArg State.unitWait (postG_frame s type sev p0 p1 p2 p3) :)
@[simp] theorem postG_rr (type sev p0 p1 p2 p3 : Nat) : (postG s type sev p0 p1 p2 p3).rr = s.rr := (congrArg State.rr (postG_frame s type sev p0 p1 p2 p3) :)
@[simp] theorem postG_stallRem (type sev p0 p1 p2 p3 : Nat) : (postG s type sev p0 p1 p2 p3).stallRem = s.stallRem := (congrArg State.stallRem (postG_frame s type sev p0 p1 p2 p3) :)
@[simp] theorem postG_freeCtr (type sev p0 p1 p2 p3 : Nat) : (postG s type sev p0 p1 p2 p3).freeCtr = s.freeCtr := (congrArg State.freeCtr (postG_frame s type sev p0 p1 p2 p3) :)

/-! ### postP -/

/-- What it leaves alone. -/
theorem postP_frame (part type sev p0 p1 p2 p3 : Nat) : postP s part type sev p0 p1 p2 p3 = { s with evt := (postP s part type sev p0 p1 p2 p3).evt } := postOne_frame s _ _

@[simp] theorem postP_pending (part type sev p0 p1 p2 p3 : Nat) : (postP s part type sev p0 p1 p2 p3).pending = s.pending := (congrArg State.pending (postP_frame s part type sev p0 p1 p2 p3) :)
@[simp] theorem postP_ident (part type sev p0 p1 p2 p3 : Nat) : (postP s part type sev p0 p1 p2 p3).ident = s.ident := (congrArg State.ident (postP_frame s part type sev p0 p1 p2 p3) :)
@[simp] theorem postP_clk (part type sev p0 p1 p2 p3 : Nat) : (postP s part type sev p0 p1 p2 p3).clk = s.clk := (congrArg State.clk (postP_frame s part type sev p0 p1 p2 p3) :)
@[simp] theorem postP_cfg (part type sev p0 p1 p2 p3 : Nat) : (postP s part type sev p0 p1 p2 p3).cfg = s.cfg := (congrArg State.cfg (postP_frame s part type sev p0 p1 p2 p3) :)
@[simp] theorem postP_hif (part type sev p0 p1 p2 p3 : Nat) : (postP s part type sev p0 p1 p2 p3).hif = s.hif := (congrArg State.hif (postP_frame s part type sev p0 p1 p2 p3) :)
@[simp] theorem postP_mbx (part type sev p0 p1 p2 p3 : Nat) : (postP s part type sev p0 p1 p2 p3).mbx = s.mbx := (congrArg State.mbx (postP_frame s part type sev p0 p1 p2 p3) :)
@[simp] theorem postP_ops (part type sev p0 p1 p2 p3 : Nat) : (postP s part type sev p0 p1 p2 p3).ops = s.ops := (congrArg State.ops (postP_frame s part type sev p0 p1 p2 p3) :)
@[simp] theorem postP_opNext (part type sev p0 p1 p2 p3 : Nat) : (postP s part type sev p0 p1 p2 p3).opNext = s.opNext := (congrArg State.opNext (postP_frame s part type sev p0 p1 p2 p3) :)
@[simp] theorem postP_fw (part type sev p0 p1 p2 p3 : Nat) : (postP s part type sev p0 p1 p2 p3).fw = s.fw := (congrArg State.fw (postP_frame s part type sev p0 p1 p2 p3) :)
@[simp] theorem postP_mem (part type sev p0 p1 p2 p3 : Nat) : (postP s part type sev p0 p1 p2 p3).mem = s.mem := (congrArg State.mem (postP_frame s part type sev p0 p1 p2 p3) :)
@[simp] theorem postP_parts (part type sev p0 p1 p2 p3 : Nat) : (postP s part type sev p0 p1 p2 p3).parts = s.parts := (congrArg State.parts (postP_frame s part type sev p0 p1 p2 p3) :)
@[simp] theorem postP_pages (part type sev p0 p1 p2 p3 : Nat) : (postP s part type sev p0 p1 p2 p3).pages = s.pages := (congrArg State.pages (postP_frame s part type sev p0 p1 p2 p3) :)
@[simp] theorem postP_tables (part type sev p0 p1 p2 p3 : Nat) : (postP s part type sev p0 p1 p2 p3).tables = s.tables := (congrArg State.tables (postP_frame s part type sev p0 p1 p2 p3) :)
@[simp] theorem postP_adapters (part type sev p0 p1 p2 p3 : Nat) : (postP s part type sev p0 p1 p2 p3).adapters = s.adapters := (congrArg State.adapters (postP_frame s part type sev p0 p1 p2 p3) :)
@[simp] theorem postP_bindings (part type sev p0 p1 p2 p3 : Nat) : (postP s part type sev p0 p1 p2 p3).bindings = s.bindings := (congrArg State.bindings (postP_frame s part type sev p0 p1 p2 p3) :)
@[simp] theorem postP_streams (part type sev p0 p1 p2 p3 : Nat) : (postP s part type sev p0 p1 p2 p3).streams = s.streams := (congrArg State.streams (postP_frame s part type sev p0 p1 p2 p3) :)
@[simp] theorem postP_pod (part type sev p0 p1 p2 p3 : Nat) : (postP s part type sev p0 p1 p2 p3).pod = s.pod := (congrArg State.pod (postP_frame s part type sev p0 p1 p2 p3) :)
@[simp] theorem postP_pwr (part type sev p0 p1 p2 p3 : Nat) : (postP s part type sev p0 p1 p2 p3).pwr = s.pwr := (congrArg State.pwr (postP_frame s part type sev p0 p1 p2 p3) :)
@[simp] theorem postP_pins (part type sev p0 p1 p2 p3 : Nat) : (postP s part type sev p0 p1 p2 p3).pins = s.pins := (congrArg State.pins (postP_frame s part type sev p0 p1 p2 p3) :)
@[simp] theorem postP_bg (part type sev p0 p1 p2 p3 : Nat) : (postP s part type sev p0 p1 p2 p3).bg = s.bg := (congrArg State.bg (postP_frame s part type sev p0 p1 p2 p3) :)
@[simp] theorem postP_mgmt (part type sev p0 p1 p2 p3 : Nat) : (postP s part type sev p0 p1 p2 p3).mgmt = s.mgmt := (congrArg State.mgmt (postP_frame s part type sev p0 p1 p2 p3) :)
@[simp] theorem postP_jtag (part type sev p0 p1 p2 p3 : Nat) : (postP s part type sev p0 p1 p2 p3).jtag = s.jtag := (congrArg State.jtag (postP_frame s part type sev p0 p1 p2 p3) :)
@[simp] theorem postP_gal (part type sev p0 p1 p2 p3 : Nat) : (postP s part type sev p0 p1 p2 p3).gal = s.gal := (congrArg State.gal (postP_frame s part type sev p0 p1 p2 p3) :)
@[simp] theorem postP_locks (part type sev p0 p1 p2 p3 : Nat) : (postP s part type sev p0 p1 p2 p3).locks = s.locks := (congrArg State.locks (postP_frame s part type sev p0 p1 p2 p3) :)
@[simp] theorem postP_cores (part type sev p0 p1 p2 p3 : Nat) : (postP s part type sev p0 p1 p2 p3).cores = s.cores := (congrArg State.cores (postP_frame s part type sev p0 p1 p2 p3) :)
@[simp] theorem postP_quo (part type sev p0 p1 p2 p3 : Nat) : (postP s part type sev p0 p1 p2 p3).quo = s.quo := (congrArg State.quo (postP_frame s part type sev p0 p1 p2 p3) :)
@[simp] theorem postP_profiles (part type sev p0 p1 p2 p3 : Nat) : (postP s part type sev p0 p1 p2 p3).profiles = s.profiles := (congrArg State.profiles (postP_frame s part type sev p0 p1 p2 p3) :)
@[simp] theorem postP_grammars (part type sev p0 p1 p2 p3 : Nat) : (postP s part type sev p0 p1 p2 p3).grammars = s.grammars := (congrArg State.grammars (postP_frame s part type sev p0 p1 p2 p3) :)
@[simp] theorem postP_units (part type sev p0 p1 p2 p3 : Nat) : (postP s part type sev p0 p1 p2 p3).units = s.units := (congrArg State.units (postP_frame s part type sev p0 p1 p2 p3) :)
@[simp] theorem postP_unitWait (part type sev p0 p1 p2 p3 : Nat) : (postP s part type sev p0 p1 p2 p3).unitWait = s.unitWait := (congrArg State.unitWait (postP_frame s part type sev p0 p1 p2 p3) :)
@[simp] theorem postP_rr (part type sev p0 p1 p2 p3 : Nat) : (postP s part type sev p0 p1 p2 p3).rr = s.rr := (congrArg State.rr (postP_frame s part type sev p0 p1 p2 p3) :)
@[simp] theorem postP_stallRem (part type sev p0 p1 p2 p3 : Nat) : (postP s part type sev p0 p1 p2 p3).stallRem = s.stallRem := (congrArg State.stallRem (postP_frame s part type sev p0 p1 p2 p3) :)
@[simp] theorem postP_freeCtr (part type sev p0 p1 p2 p3 : Nat) : (postP s part type sev p0 p1 p2 p3).freeCtr = s.freeCtr := (congrArg State.freeCtr (postP_frame s part type sev p0 p1 p2 p3) :)

/-! ### setStaged -/

@[simp] theorem setStaged_pending (k : Nat) (v : W32) : (setStaged s k v).pending = s.pending := rfl
@[simp] theorem setStaged_ident (k : Nat) (v : W32) : (setStaged s k v).ident = s.ident := rfl
@[simp] theorem setStaged_clk (k : Nat) (v : W32) : (setStaged s k v).clk = s.clk := rfl
@[simp] theorem setStaged_evt (k : Nat) (v : W32) : (setStaged s k v).evt = s.evt := rfl
@[simp] theorem setStaged_hif (k : Nat) (v : W32) : (setStaged s k v).hif = s.hif := rfl
@[simp] theorem setStaged_mbx (k : Nat) (v : W32) : (setStaged s k v).mbx = s.mbx := rfl
@[simp] theorem setStaged_ops (k : Nat) (v : W32) : (setStaged s k v).ops = s.ops := rfl
@[simp] theorem setStaged_opNext (k : Nat) (v : W32) : (setStaged s k v).opNext = s.opNext := rfl
@[simp] theorem setStaged_fw (k : Nat) (v : W32) : (setStaged s k v).fw = s.fw := rfl
@[simp] theorem setStaged_mem (k : Nat) (v : W32) : (setStaged s k v).mem = s.mem := rfl
@[simp] theorem setStaged_parts (k : Nat) (v : W32) : (setStaged s k v).parts = s.parts := rfl
@[simp] theorem setStaged_pages (k : Nat) (v : W32) : (setStaged s k v).pages = s.pages := rfl
@[simp] theorem setStaged_tables (k : Nat) (v : W32) : (setStaged s k v).tables = s.tables := rfl
@[simp] theorem setStaged_adapters (k : Nat) (v : W32) : (setStaged s k v).adapters = s.adapters := rfl
@[simp] theorem setStaged_bindings (k : Nat) (v : W32) : (setStaged s k v).bindings = s.bindings := rfl
@[simp] theorem setStaged_streams (k : Nat) (v : W32) : (setStaged s k v).streams = s.streams := rfl
@[simp] theorem setStaged_pod (k : Nat) (v : W32) : (setStaged s k v).pod = s.pod := rfl
@[simp] theorem setStaged_pwr (k : Nat) (v : W32) : (setStaged s k v).pwr = s.pwr := rfl
@[simp] theorem setStaged_pins (k : Nat) (v : W32) : (setStaged s k v).pins = s.pins := rfl
@[simp] theorem setStaged_bg (k : Nat) (v : W32) : (setStaged s k v).bg = s.bg := rfl
@[simp] theorem setStaged_mgmt (k : Nat) (v : W32) : (setStaged s k v).mgmt = s.mgmt := rfl
@[simp] theorem setStaged_jtag (k : Nat) (v : W32) : (setStaged s k v).jtag = s.jtag := rfl
@[simp] theorem setStaged_gal (k : Nat) (v : W32) : (setStaged s k v).gal = s.gal := rfl
@[simp] theorem setStaged_locks (k : Nat) (v : W32) : (setStaged s k v).locks = s.locks := rfl
@[simp] theorem setStaged_cores (k : Nat) (v : W32) : (setStaged s k v).cores = s.cores := rfl
@[simp] theorem setStaged_quo (k : Nat) (v : W32) : (setStaged s k v).quo = s.quo := rfl
@[simp] theorem setStaged_profiles (k : Nat) (v : W32) : (setStaged s k v).profiles = s.profiles := rfl
@[simp] theorem setStaged_grammars (k : Nat) (v : W32) : (setStaged s k v).grammars = s.grammars := rfl
@[simp] theorem setStaged_units (k : Nat) (v : W32) : (setStaged s k v).units = s.units := rfl
@[simp] theorem setStaged_unitWait (k : Nat) (v : W32) : (setStaged s k v).unitWait = s.unitWait := rfl
@[simp] theorem setStaged_rr (k : Nat) (v : W32) : (setStaged s k v).rr = s.rr := rfl
@[simp] theorem setStaged_stallRem (k : Nat) (v : W32) : (setStaged s k v).stallRem = s.stallRem := rfl
@[simp] theorem setStaged_freeCtr (k : Nat) (v : W32) : (setStaged s k v).freeCtr = s.freeCtr := rfl

/-! ### setCommitted -/

@[simp] theorem setCommitted_pending (k : Nat) (v : W32) : (setCommitted s k v).pending = s.pending := rfl
@[simp] theorem setCommitted_ident (k : Nat) (v : W32) : (setCommitted s k v).ident = s.ident := rfl
@[simp] theorem setCommitted_clk (k : Nat) (v : W32) : (setCommitted s k v).clk = s.clk := rfl
@[simp] theorem setCommitted_evt (k : Nat) (v : W32) : (setCommitted s k v).evt = s.evt := rfl
@[simp] theorem setCommitted_hif (k : Nat) (v : W32) : (setCommitted s k v).hif = s.hif := rfl
@[simp] theorem setCommitted_mbx (k : Nat) (v : W32) : (setCommitted s k v).mbx = s.mbx := rfl
@[simp] theorem setCommitted_ops (k : Nat) (v : W32) : (setCommitted s k v).ops = s.ops := rfl
@[simp] theorem setCommitted_opNext (k : Nat) (v : W32) : (setCommitted s k v).opNext = s.opNext := rfl
@[simp] theorem setCommitted_fw (k : Nat) (v : W32) : (setCommitted s k v).fw = s.fw := rfl
@[simp] theorem setCommitted_mem (k : Nat) (v : W32) : (setCommitted s k v).mem = s.mem := rfl
@[simp] theorem setCommitted_parts (k : Nat) (v : W32) : (setCommitted s k v).parts = s.parts := rfl
@[simp] theorem setCommitted_pages (k : Nat) (v : W32) : (setCommitted s k v).pages = s.pages := rfl
@[simp] theorem setCommitted_tables (k : Nat) (v : W32) : (setCommitted s k v).tables = s.tables := rfl
@[simp] theorem setCommitted_adapters (k : Nat) (v : W32) : (setCommitted s k v).adapters = s.adapters := rfl
@[simp] theorem setCommitted_bindings (k : Nat) (v : W32) : (setCommitted s k v).bindings = s.bindings := rfl
@[simp] theorem setCommitted_streams (k : Nat) (v : W32) : (setCommitted s k v).streams = s.streams := rfl
@[simp] theorem setCommitted_pod (k : Nat) (v : W32) : (setCommitted s k v).pod = s.pod := rfl
@[simp] theorem setCommitted_pwr (k : Nat) (v : W32) : (setCommitted s k v).pwr = s.pwr := rfl
@[simp] theorem setCommitted_pins (k : Nat) (v : W32) : (setCommitted s k v).pins = s.pins := rfl
@[simp] theorem setCommitted_bg (k : Nat) (v : W32) : (setCommitted s k v).bg = s.bg := rfl
@[simp] theorem setCommitted_mgmt (k : Nat) (v : W32) : (setCommitted s k v).mgmt = s.mgmt := rfl
@[simp] theorem setCommitted_jtag (k : Nat) (v : W32) : (setCommitted s k v).jtag = s.jtag := rfl
@[simp] theorem setCommitted_gal (k : Nat) (v : W32) : (setCommitted s k v).gal = s.gal := rfl
@[simp] theorem setCommitted_locks (k : Nat) (v : W32) : (setCommitted s k v).locks = s.locks := rfl
@[simp] theorem setCommitted_cores (k : Nat) (v : W32) : (setCommitted s k v).cores = s.cores := rfl
@[simp] theorem setCommitted_quo (k : Nat) (v : W32) : (setCommitted s k v).quo = s.quo := rfl
@[simp] theorem setCommitted_profiles (k : Nat) (v : W32) : (setCommitted s k v).profiles = s.profiles := rfl
@[simp] theorem setCommitted_grammars (k : Nat) (v : W32) : (setCommitted s k v).grammars = s.grammars := rfl
@[simp] theorem setCommitted_units (k : Nat) (v : W32) : (setCommitted s k v).units = s.units := rfl
@[simp] theorem setCommitted_unitWait (k : Nat) (v : W32) : (setCommitted s k v).unitWait = s.unitWait := rfl
@[simp] theorem setCommitted_rr (k : Nat) (v : W32) : (setCommitted s k v).rr = s.rr := rfl
@[simp] theorem setCommitted_stallRem (k : Nat) (v : W32) : (setCommitted s k v).stallRem = s.stallRem := rfl
@[simp] theorem setCommitted_freeCtr (k : Nat) (v : W32) : (setCommitted s k v).freeCtr = s.freeCtr := rfl

/-! ### setEffective -/

@[simp] theorem setEffective_pending (k : Nat) (v : W32) : (setEffective s k v).pending = s.pending := rfl
@[simp] theorem setEffective_ident (k : Nat) (v : W32) : (setEffective s k v).ident = s.ident := rfl
@[simp] theorem setEffective_clk (k : Nat) (v : W32) : (setEffective s k v).clk = s.clk := rfl
@[simp] theorem setEffective_evt (k : Nat) (v : W32) : (setEffective s k v).evt = s.evt := rfl
@[simp] theorem setEffective_hif (k : Nat) (v : W32) : (setEffective s k v).hif = s.hif := rfl
@[simp] theorem setEffective_mbx (k : Nat) (v : W32) : (setEffective s k v).mbx = s.mbx := rfl
@[simp] theorem setEffective_ops (k : Nat) (v : W32) : (setEffective s k v).ops = s.ops := rfl
@[simp] theorem setEffective_opNext (k : Nat) (v : W32) : (setEffective s k v).opNext = s.opNext := rfl
@[simp] theorem setEffective_fw (k : Nat) (v : W32) : (setEffective s k v).fw = s.fw := rfl
@[simp] theorem setEffective_mem (k : Nat) (v : W32) : (setEffective s k v).mem = s.mem := rfl
@[simp] theorem setEffective_parts (k : Nat) (v : W32) : (setEffective s k v).parts = s.parts := rfl
@[simp] theorem setEffective_pages (k : Nat) (v : W32) : (setEffective s k v).pages = s.pages := rfl
@[simp] theorem setEffective_tables (k : Nat) (v : W32) : (setEffective s k v).tables = s.tables := rfl
@[simp] theorem setEffective_adapters (k : Nat) (v : W32) : (setEffective s k v).adapters = s.adapters := rfl
@[simp] theorem setEffective_bindings (k : Nat) (v : W32) : (setEffective s k v).bindings = s.bindings := rfl
@[simp] theorem setEffective_streams (k : Nat) (v : W32) : (setEffective s k v).streams = s.streams := rfl
@[simp] theorem setEffective_pod (k : Nat) (v : W32) : (setEffective s k v).pod = s.pod := rfl
@[simp] theorem setEffective_pwr (k : Nat) (v : W32) : (setEffective s k v).pwr = s.pwr := rfl
@[simp] theorem setEffective_pins (k : Nat) (v : W32) : (setEffective s k v).pins = s.pins := rfl
@[simp] theorem setEffective_bg (k : Nat) (v : W32) : (setEffective s k v).bg = s.bg := rfl
@[simp] theorem setEffective_mgmt (k : Nat) (v : W32) : (setEffective s k v).mgmt = s.mgmt := rfl
@[simp] theorem setEffective_jtag (k : Nat) (v : W32) : (setEffective s k v).jtag = s.jtag := rfl
@[simp] theorem setEffective_gal (k : Nat) (v : W32) : (setEffective s k v).gal = s.gal := rfl
@[simp] theorem setEffective_locks (k : Nat) (v : W32) : (setEffective s k v).locks = s.locks := rfl
@[simp] theorem setEffective_cores (k : Nat) (v : W32) : (setEffective s k v).cores = s.cores := rfl
@[simp] theorem setEffective_quo (k : Nat) (v : W32) : (setEffective s k v).quo = s.quo := rfl
@[simp] theorem setEffective_profiles (k : Nat) (v : W32) : (setEffective s k v).profiles = s.profiles := rfl
@[simp] theorem setEffective_grammars (k : Nat) (v : W32) : (setEffective s k v).grammars = s.grammars := rfl
@[simp] theorem setEffective_units (k : Nat) (v : W32) : (setEffective s k v).units = s.units := rfl
@[simp] theorem setEffective_unitWait (k : Nat) (v : W32) : (setEffective s k v).unitWait = s.unitWait := rfl
@[simp] theorem setEffective_rr (k : Nat) (v : W32) : (setEffective s k v).rr = s.rr := rfl
@[simp] theorem setEffective_stallRem (k : Nat) (v : W32) : (setEffective s k v).stallRem = s.stallRem := rfl
@[simp] theorem setEffective_freeCtr (k : Nat) (v : W32) : (setEffective s k v).freeCtr = s.freeCtr := rfl

/-! ### setStream -/

@[simp] theorem setStream_pending (i : Nat) (x : Stream) : (setStream s i x).pending = s.pending := rfl
@[simp] theorem setStream_ident (i : Nat) (x : Stream) : (setStream s i x).ident = s.ident := rfl
@[simp] theorem setStream_clk (i : Nat) (x : Stream) : (setStream s i x).clk = s.clk := rfl
@[simp] theorem setStream_evt (i : Nat) (x : Stream) : (setStream s i x).evt = s.evt := rfl
@[simp] theorem setStream_cfg (i : Nat) (x : Stream) : (setStream s i x).cfg = s.cfg := rfl
@[simp] theorem setStream_hif (i : Nat) (x : Stream) : (setStream s i x).hif = s.hif := rfl
@[simp] theorem setStream_mbx (i : Nat) (x : Stream) : (setStream s i x).mbx = s.mbx := rfl
@[simp] theorem setStream_ops (i : Nat) (x : Stream) : (setStream s i x).ops = s.ops := rfl
@[simp] theorem setStream_opNext (i : Nat) (x : Stream) : (setStream s i x).opNext = s.opNext := rfl
@[simp] theorem setStream_fw (i : Nat) (x : Stream) : (setStream s i x).fw = s.fw := rfl
@[simp] theorem setStream_mem (i : Nat) (x : Stream) : (setStream s i x).mem = s.mem := rfl
@[simp] theorem setStream_parts (i : Nat) (x : Stream) : (setStream s i x).parts = s.parts := rfl
@[simp] theorem setStream_pages (i : Nat) (x : Stream) : (setStream s i x).pages = s.pages := rfl
@[simp] theorem setStream_tables (i : Nat) (x : Stream) : (setStream s i x).tables = s.tables := rfl
@[simp] theorem setStream_adapters (i : Nat) (x : Stream) : (setStream s i x).adapters = s.adapters := rfl
@[simp] theorem setStream_bindings (i : Nat) (x : Stream) : (setStream s i x).bindings = s.bindings := rfl
@[simp] theorem setStream_pod (i : Nat) (x : Stream) : (setStream s i x).pod = s.pod := rfl
@[simp] theorem setStream_pwr (i : Nat) (x : Stream) : (setStream s i x).pwr = s.pwr := rfl
@[simp] theorem setStream_pins (i : Nat) (x : Stream) : (setStream s i x).pins = s.pins := rfl
@[simp] theorem setStream_bg (i : Nat) (x : Stream) : (setStream s i x).bg = s.bg := rfl
@[simp] theorem setStream_mgmt (i : Nat) (x : Stream) : (setStream s i x).mgmt = s.mgmt := rfl
@[simp] theorem setStream_jtag (i : Nat) (x : Stream) : (setStream s i x).jtag = s.jtag := rfl
@[simp] theorem setStream_gal (i : Nat) (x : Stream) : (setStream s i x).gal = s.gal := rfl
@[simp] theorem setStream_locks (i : Nat) (x : Stream) : (setStream s i x).locks = s.locks := rfl
@[simp] theorem setStream_cores (i : Nat) (x : Stream) : (setStream s i x).cores = s.cores := rfl
@[simp] theorem setStream_quo (i : Nat) (x : Stream) : (setStream s i x).quo = s.quo := rfl
@[simp] theorem setStream_profiles (i : Nat) (x : Stream) : (setStream s i x).profiles = s.profiles := rfl
@[simp] theorem setStream_grammars (i : Nat) (x : Stream) : (setStream s i x).grammars = s.grammars := rfl
@[simp] theorem setStream_units (i : Nat) (x : Stream) : (setStream s i x).units = s.units := rfl
@[simp] theorem setStream_unitWait (i : Nat) (x : Stream) : (setStream s i x).unitWait = s.unitWait := rfl
@[simp] theorem setStream_rr (i : Nat) (x : Stream) : (setStream s i x).rr = s.rr := rfl
@[simp] theorem setStream_stallRem (i : Nat) (x : Stream) : (setStream s i x).stallRem = s.stallRem := rfl
@[simp] theorem setStream_freeCtr (i : Nat) (x : Stream) : (setStream s i x).freeCtr = s.freeCtr := rfl

/-! ### setPart -/

@[simp] theorem setPart_pending (p : Nat) (x : Part) : (setPart s p x).pending = s.pending := rfl
@[simp] theorem setPart_ident (p : Nat) (x : Part) : (setPart s p x).ident = s.ident := rfl
@[simp] theorem setPart_clk (p : Nat) (x : Part) : (setPart s p x).clk = s.clk := rfl
@[simp] theorem setPart_evt (p : Nat) (x : Part) : (setPart s p x).evt = s.evt := rfl
@[simp] theorem setPart_cfg (p : Nat) (x : Part) : (setPart s p x).cfg = s.cfg := rfl
@[simp] theorem setPart_hif (p : Nat) (x : Part) : (setPart s p x).hif = s.hif := rfl
@[simp] theorem setPart_mbx (p : Nat) (x : Part) : (setPart s p x).mbx = s.mbx := rfl
@[simp] theorem setPart_ops (p : Nat) (x : Part) : (setPart s p x).ops = s.ops := rfl
@[simp] theorem setPart_opNext (p : Nat) (x : Part) : (setPart s p x).opNext = s.opNext := rfl
@[simp] theorem setPart_fw (p : Nat) (x : Part) : (setPart s p x).fw = s.fw := rfl
@[simp] theorem setPart_mem (p : Nat) (x : Part) : (setPart s p x).mem = s.mem := rfl
@[simp] theorem setPart_pages (p : Nat) (x : Part) : (setPart s p x).pages = s.pages := rfl
@[simp] theorem setPart_tables (p : Nat) (x : Part) : (setPart s p x).tables = s.tables := rfl
@[simp] theorem setPart_adapters (p : Nat) (x : Part) : (setPart s p x).adapters = s.adapters := rfl
@[simp] theorem setPart_bindings (p : Nat) (x : Part) : (setPart s p x).bindings = s.bindings := rfl
@[simp] theorem setPart_streams (p : Nat) (x : Part) : (setPart s p x).streams = s.streams := rfl
@[simp] theorem setPart_pod (p : Nat) (x : Part) : (setPart s p x).pod = s.pod := rfl
@[simp] theorem setPart_pwr (p : Nat) (x : Part) : (setPart s p x).pwr = s.pwr := rfl
@[simp] theorem setPart_pins (p : Nat) (x : Part) : (setPart s p x).pins = s.pins := rfl
@[simp] theorem setPart_bg (p : Nat) (x : Part) : (setPart s p x).bg = s.bg := rfl
@[simp] theorem setPart_mgmt (p : Nat) (x : Part) : (setPart s p x).mgmt = s.mgmt := rfl
@[simp] theorem setPart_jtag (p : Nat) (x : Part) : (setPart s p x).jtag = s.jtag := rfl
@[simp] theorem setPart_gal (p : Nat) (x : Part) : (setPart s p x).gal = s.gal := rfl
@[simp] theorem setPart_locks (p : Nat) (x : Part) : (setPart s p x).locks = s.locks := rfl
@[simp] theorem setPart_cores (p : Nat) (x : Part) : (setPart s p x).cores = s.cores := rfl
@[simp] theorem setPart_quo (p : Nat) (x : Part) : (setPart s p x).quo = s.quo := rfl
@[simp] theorem setPart_profiles (p : Nat) (x : Part) : (setPart s p x).profiles = s.profiles := rfl
@[simp] theorem setPart_grammars (p : Nat) (x : Part) : (setPart s p x).grammars = s.grammars := rfl
@[simp] theorem setPart_units (p : Nat) (x : Part) : (setPart s p x).units = s.units := rfl
@[simp] theorem setPart_unitWait (p : Nat) (x : Part) : (setPart s p x).unitWait = s.unitWait := rfl
@[simp] theorem setPart_rr (p : Nat) (x : Part) : (setPart s p x).rr = s.rr := rfl
@[simp] theorem setPart_stallRem (p : Nat) (x : Part) : (setPart s p x).stallRem = s.stallRem := rfl
@[simp] theorem setPart_freeCtr (p : Nat) (x : Part) : (setPart s p x).freeCtr = s.freeCtr := rfl

/-! ### setPage -/

@[simp] theorem setPage_pending (p : Nat) (u : PageUse) : (setPage s p u).pending = s.pending := rfl
@[simp] theorem setPage_ident (p : Nat) (u : PageUse) : (setPage s p u).ident = s.ident := rfl
@[simp] theorem setPage_clk (p : Nat) (u : PageUse) : (setPage s p u).clk = s.clk := rfl
@[simp] theorem setPage_evt (p : Nat) (u : PageUse) : (setPage s p u).evt = s.evt := rfl
@[simp] theorem setPage_cfg (p : Nat) (u : PageUse) : (setPage s p u).cfg = s.cfg := rfl
@[simp] theorem setPage_hif (p : Nat) (u : PageUse) : (setPage s p u).hif = s.hif := rfl
@[simp] theorem setPage_mbx (p : Nat) (u : PageUse) : (setPage s p u).mbx = s.mbx := rfl
@[simp] theorem setPage_ops (p : Nat) (u : PageUse) : (setPage s p u).ops = s.ops := rfl
@[simp] theorem setPage_opNext (p : Nat) (u : PageUse) : (setPage s p u).opNext = s.opNext := rfl
@[simp] theorem setPage_fw (p : Nat) (u : PageUse) : (setPage s p u).fw = s.fw := rfl
@[simp] theorem setPage_mem (p : Nat) (u : PageUse) : (setPage s p u).mem = s.mem := rfl
@[simp] theorem setPage_parts (p : Nat) (u : PageUse) : (setPage s p u).parts = s.parts := rfl
@[simp] theorem setPage_tables (p : Nat) (u : PageUse) : (setPage s p u).tables = s.tables := rfl
@[simp] theorem setPage_adapters (p : Nat) (u : PageUse) : (setPage s p u).adapters = s.adapters := rfl
@[simp] theorem setPage_bindings (p : Nat) (u : PageUse) : (setPage s p u).bindings = s.bindings := rfl
@[simp] theorem setPage_streams (p : Nat) (u : PageUse) : (setPage s p u).streams = s.streams := rfl
@[simp] theorem setPage_pod (p : Nat) (u : PageUse) : (setPage s p u).pod = s.pod := rfl
@[simp] theorem setPage_pwr (p : Nat) (u : PageUse) : (setPage s p u).pwr = s.pwr := rfl
@[simp] theorem setPage_pins (p : Nat) (u : PageUse) : (setPage s p u).pins = s.pins := rfl
@[simp] theorem setPage_bg (p : Nat) (u : PageUse) : (setPage s p u).bg = s.bg := rfl
@[simp] theorem setPage_mgmt (p : Nat) (u : PageUse) : (setPage s p u).mgmt = s.mgmt := rfl
@[simp] theorem setPage_jtag (p : Nat) (u : PageUse) : (setPage s p u).jtag = s.jtag := rfl
@[simp] theorem setPage_gal (p : Nat) (u : PageUse) : (setPage s p u).gal = s.gal := rfl
@[simp] theorem setPage_locks (p : Nat) (u : PageUse) : (setPage s p u).locks = s.locks := rfl
@[simp] theorem setPage_cores (p : Nat) (u : PageUse) : (setPage s p u).cores = s.cores := rfl
@[simp] theorem setPage_quo (p : Nat) (u : PageUse) : (setPage s p u).quo = s.quo := rfl
@[simp] theorem setPage_profiles (p : Nat) (u : PageUse) : (setPage s p u).profiles = s.profiles := rfl
@[simp] theorem setPage_grammars (p : Nat) (u : PageUse) : (setPage s p u).grammars = s.grammars := rfl
@[simp] theorem setPage_units (p : Nat) (u : PageUse) : (setPage s p u).units = s.units := rfl
@[simp] theorem setPage_unitWait (p : Nat) (u : PageUse) : (setPage s p u).unitWait = s.unitWait := rfl
@[simp] theorem setPage_rr (p : Nat) (u : PageUse) : (setPage s p u).rr = s.rr := rfl
@[simp] theorem setPage_stallRem (p : Nat) (u : PageUse) : (setPage s p u).stallRem = s.stallRem := rfl
@[simp] theorem setPage_freeCtr (p : Nat) (u : PageUse) : (setPage s p u).freeCtr = s.freeCtr := rfl

/-! ### hold -/

@[simp] theorem hold_pending (l : List Nat) : (hold s l).pending = s.pending := rfl
@[simp] theorem hold_ident (l : List Nat) : (hold s l).ident = s.ident := rfl
@[simp] theorem hold_clk (l : List Nat) : (hold s l).clk = s.clk := rfl
@[simp] theorem hold_evt (l : List Nat) : (hold s l).evt = s.evt := rfl
@[simp] theorem hold_cfg (l : List Nat) : (hold s l).cfg = s.cfg := rfl
@[simp] theorem hold_mbx (l : List Nat) : (hold s l).mbx = s.mbx := rfl
@[simp] theorem hold_ops (l : List Nat) : (hold s l).ops = s.ops := rfl
@[simp] theorem hold_opNext (l : List Nat) : (hold s l).opNext = s.opNext := rfl
@[simp] theorem hold_fw (l : List Nat) : (hold s l).fw = s.fw := rfl
@[simp] theorem hold_mem (l : List Nat) : (hold s l).mem = s.mem := rfl
@[simp] theorem hold_parts (l : List Nat) : (hold s l).parts = s.parts := rfl
@[simp] theorem hold_pages (l : List Nat) : (hold s l).pages = s.pages := rfl
@[simp] theorem hold_tables (l : List Nat) : (hold s l).tables = s.tables := rfl
@[simp] theorem hold_adapters (l : List Nat) : (hold s l).adapters = s.adapters := rfl
@[simp] theorem hold_bindings (l : List Nat) : (hold s l).bindings = s.bindings := rfl
@[simp] theorem hold_streams (l : List Nat) : (hold s l).streams = s.streams := rfl
@[simp] theorem hold_pod (l : List Nat) : (hold s l).pod = s.pod := rfl
@[simp] theorem hold_pwr (l : List Nat) : (hold s l).pwr = s.pwr := rfl
@[simp] theorem hold_pins (l : List Nat) : (hold s l).pins = s.pins := rfl
@[simp] theorem hold_bg (l : List Nat) : (hold s l).bg = s.bg := rfl
@[simp] theorem hold_mgmt (l : List Nat) : (hold s l).mgmt = s.mgmt := rfl
@[simp] theorem hold_jtag (l : List Nat) : (hold s l).jtag = s.jtag := rfl
@[simp] theorem hold_gal (l : List Nat) : (hold s l).gal = s.gal := rfl
@[simp] theorem hold_locks (l : List Nat) : (hold s l).locks = s.locks := rfl
@[simp] theorem hold_cores (l : List Nat) : (hold s l).cores = s.cores := rfl
@[simp] theorem hold_quo (l : List Nat) : (hold s l).quo = s.quo := rfl
@[simp] theorem hold_profiles (l : List Nat) : (hold s l).profiles = s.profiles := rfl
@[simp] theorem hold_grammars (l : List Nat) : (hold s l).grammars = s.grammars := rfl
@[simp] theorem hold_units (l : List Nat) : (hold s l).units = s.units := rfl
@[simp] theorem hold_unitWait (l : List Nat) : (hold s l).unitWait = s.unitWait := rfl
@[simp] theorem hold_rr (l : List Nat) : (hold s l).rr = s.rr := rfl
@[simp] theorem hold_stallRem (l : List Nat) : (hold s l).stallRem = s.stallRem := rfl
@[simp] theorem hold_freeCtr (l : List Nat) : (hold s l).freeCtr = s.freeCtr := rfl

/-! ### setCell -/

@[simp] theorem setCell_pending (k : Nat) (b : Byte) : (setCell s k b).pending = s.pending := rfl
@[simp] theorem setCell_ident (k : Nat) (b : Byte) : (setCell s k b).ident = s.ident := rfl
@[simp] theorem setCell_clk (k : Nat) (b : Byte) : (setCell s k b).clk = s.clk := rfl
@[simp] theorem setCell_evt (k : Nat) (b : Byte) : (setCell s k b).evt = s.evt := rfl
@[simp] theorem setCell_cfg (k : Nat) (b : Byte) : (setCell s k b).cfg = s.cfg := rfl
@[simp] theorem setCell_hif (k : Nat) (b : Byte) : (setCell s k b).hif = s.hif := rfl
@[simp] theorem setCell_mbx (k : Nat) (b : Byte) : (setCell s k b).mbx = s.mbx := rfl
@[simp] theorem setCell_ops (k : Nat) (b : Byte) : (setCell s k b).ops = s.ops := rfl
@[simp] theorem setCell_opNext (k : Nat) (b : Byte) : (setCell s k b).opNext = s.opNext := rfl
@[simp] theorem setCell_fw (k : Nat) (b : Byte) : (setCell s k b).fw = s.fw := rfl
@[simp] theorem setCell_parts (k : Nat) (b : Byte) : (setCell s k b).parts = s.parts := rfl
@[simp] theorem setCell_pages (k : Nat) (b : Byte) : (setCell s k b).pages = s.pages := rfl
@[simp] theorem setCell_tables (k : Nat) (b : Byte) : (setCell s k b).tables = s.tables := rfl
@[simp] theorem setCell_adapters (k : Nat) (b : Byte) : (setCell s k b).adapters = s.adapters := rfl
@[simp] theorem setCell_bindings (k : Nat) (b : Byte) : (setCell s k b).bindings = s.bindings := rfl
@[simp] theorem setCell_streams (k : Nat) (b : Byte) : (setCell s k b).streams = s.streams := rfl
@[simp] theorem setCell_pod (k : Nat) (b : Byte) : (setCell s k b).pod = s.pod := rfl
@[simp] theorem setCell_pwr (k : Nat) (b : Byte) : (setCell s k b).pwr = s.pwr := rfl
@[simp] theorem setCell_pins (k : Nat) (b : Byte) : (setCell s k b).pins = s.pins := rfl
@[simp] theorem setCell_bg (k : Nat) (b : Byte) : (setCell s k b).bg = s.bg := rfl
@[simp] theorem setCell_mgmt (k : Nat) (b : Byte) : (setCell s k b).mgmt = s.mgmt := rfl
@[simp] theorem setCell_jtag (k : Nat) (b : Byte) : (setCell s k b).jtag = s.jtag := rfl
@[simp] theorem setCell_gal (k : Nat) (b : Byte) : (setCell s k b).gal = s.gal := rfl
@[simp] theorem setCell_locks (k : Nat) (b : Byte) : (setCell s k b).locks = s.locks := rfl
@[simp] theorem setCell_cores (k : Nat) (b : Byte) : (setCell s k b).cores = s.cores := rfl
@[simp] theorem setCell_quo (k : Nat) (b : Byte) : (setCell s k b).quo = s.quo := rfl
@[simp] theorem setCell_profiles (k : Nat) (b : Byte) : (setCell s k b).profiles = s.profiles := rfl
@[simp] theorem setCell_grammars (k : Nat) (b : Byte) : (setCell s k b).grammars = s.grammars := rfl
@[simp] theorem setCell_units (k : Nat) (b : Byte) : (setCell s k b).units = s.units := rfl
@[simp] theorem setCell_unitWait (k : Nat) (b : Byte) : (setCell s k b).unitWait = s.unitWait := rfl
@[simp] theorem setCell_rr (k : Nat) (b : Byte) : (setCell s k b).rr = s.rr := rfl
@[simp] theorem setCell_stallRem (k : Nat) (b : Byte) : (setCell s k b).stallRem = s.stallRem := rfl
@[simp] theorem setCell_freeCtr (k : Nat) (b : Byte) : (setCell s k b).freeCtr = s.freeCtr := rfl

/-! ### setTable -/

@[simp] theorem setTable_pending (t : Table) : (setTable s t).pending = s.pending := rfl
@[simp] theorem setTable_ident (t : Table) : (setTable s t).ident = s.ident := rfl
@[simp] theorem setTable_clk (t : Table) : (setTable s t).clk = s.clk := rfl
@[simp] theorem setTable_evt (t : Table) : (setTable s t).evt = s.evt := rfl
@[simp] theorem setTable_cfg (t : Table) : (setTable s t).cfg = s.cfg := rfl
@[simp] theorem setTable_hif (t : Table) : (setTable s t).hif = s.hif := rfl
@[simp] theorem setTable_mbx (t : Table) : (setTable s t).mbx = s.mbx := rfl
@[simp] theorem setTable_ops (t : Table) : (setTable s t).ops = s.ops := rfl
@[simp] theorem setTable_opNext (t : Table) : (setTable s t).opNext = s.opNext := rfl
@[simp] theorem setTable_fw (t : Table) : (setTable s t).fw = s.fw := rfl
@[simp] theorem setTable_mem (t : Table) : (setTable s t).mem = s.mem := rfl
@[simp] theorem setTable_parts (t : Table) : (setTable s t).parts = s.parts := rfl
@[simp] theorem setTable_pages (t : Table) : (setTable s t).pages = s.pages := rfl
@[simp] theorem setTable_adapters (t : Table) : (setTable s t).adapters = s.adapters := rfl
@[simp] theorem setTable_bindings (t : Table) : (setTable s t).bindings = s.bindings := rfl
@[simp] theorem setTable_streams (t : Table) : (setTable s t).streams = s.streams := rfl
@[simp] theorem setTable_pod (t : Table) : (setTable s t).pod = s.pod := rfl
@[simp] theorem setTable_pwr (t : Table) : (setTable s t).pwr = s.pwr := rfl
@[simp] theorem setTable_pins (t : Table) : (setTable s t).pins = s.pins := rfl
@[simp] theorem setTable_bg (t : Table) : (setTable s t).bg = s.bg := rfl
@[simp] theorem setTable_mgmt (t : Table) : (setTable s t).mgmt = s.mgmt := rfl
@[simp] theorem setTable_jtag (t : Table) : (setTable s t).jtag = s.jtag := rfl
@[simp] theorem setTable_gal (t : Table) : (setTable s t).gal = s.gal := rfl
@[simp] theorem setTable_locks (t : Table) : (setTable s t).locks = s.locks := rfl
@[simp] theorem setTable_cores (t : Table) : (setTable s t).cores = s.cores := rfl
@[simp] theorem setTable_quo (t : Table) : (setTable s t).quo = s.quo := rfl
@[simp] theorem setTable_profiles (t : Table) : (setTable s t).profiles = s.profiles := rfl
@[simp] theorem setTable_grammars (t : Table) : (setTable s t).grammars = s.grammars := rfl
@[simp] theorem setTable_units (t : Table) : (setTable s t).units = s.units := rfl
@[simp] theorem setTable_unitWait (t : Table) : (setTable s t).unitWait = s.unitWait := rfl
@[simp] theorem setTable_rr (t : Table) : (setTable s t).rr = s.rr := rfl
@[simp] theorem setTable_stallRem (t : Table) : (setTable s t).stallRem = s.stallRem := rfl
@[simp] theorem setTable_freeCtr (t : Table) : (setTable s t).freeCtr = s.freeCtr := rfl

/-! ### setDom -/

@[simp] theorem setDom_pending (d v : Nat) : (setDom s d v).pending = s.pending := rfl
@[simp] theorem setDom_ident (d v : Nat) : (setDom s d v).ident = s.ident := rfl
@[simp] theorem setDom_clk (d v : Nat) : (setDom s d v).clk = s.clk := rfl
@[simp] theorem setDom_evt (d v : Nat) : (setDom s d v).evt = s.evt := rfl
@[simp] theorem setDom_cfg (d v : Nat) : (setDom s d v).cfg = s.cfg := rfl
@[simp] theorem setDom_hif (d v : Nat) : (setDom s d v).hif = s.hif := rfl
@[simp] theorem setDom_mbx (d v : Nat) : (setDom s d v).mbx = s.mbx := rfl
@[simp] theorem setDom_ops (d v : Nat) : (setDom s d v).ops = s.ops := rfl
@[simp] theorem setDom_opNext (d v : Nat) : (setDom s d v).opNext = s.opNext := rfl
@[simp] theorem setDom_fw (d v : Nat) : (setDom s d v).fw = s.fw := rfl
@[simp] theorem setDom_mem (d v : Nat) : (setDom s d v).mem = s.mem := rfl
@[simp] theorem setDom_parts (d v : Nat) : (setDom s d v).parts = s.parts := rfl
@[simp] theorem setDom_pages (d v : Nat) : (setDom s d v).pages = s.pages := rfl
@[simp] theorem setDom_tables (d v : Nat) : (setDom s d v).tables = s.tables := rfl
@[simp] theorem setDom_adapters (d v : Nat) : (setDom s d v).adapters = s.adapters := rfl
@[simp] theorem setDom_bindings (d v : Nat) : (setDom s d v).bindings = s.bindings := rfl
@[simp] theorem setDom_streams (d v : Nat) : (setDom s d v).streams = s.streams := rfl
@[simp] theorem setDom_pod (d v : Nat) : (setDom s d v).pod = s.pod := rfl
@[simp] theorem setDom_pins (d v : Nat) : (setDom s d v).pins = s.pins := rfl
@[simp] theorem setDom_bg (d v : Nat) : (setDom s d v).bg = s.bg := rfl
@[simp] theorem setDom_mgmt (d v : Nat) : (setDom s d v).mgmt = s.mgmt := rfl
@[simp] theorem setDom_jtag (d v : Nat) : (setDom s d v).jtag = s.jtag := rfl
@[simp] theorem setDom_gal (d v : Nat) : (setDom s d v).gal = s.gal := rfl
@[simp] theorem setDom_locks (d v : Nat) : (setDom s d v).locks = s.locks := rfl
@[simp] theorem setDom_cores (d v : Nat) : (setDom s d v).cores = s.cores := rfl
@[simp] theorem setDom_quo (d v : Nat) : (setDom s d v).quo = s.quo := rfl
@[simp] theorem setDom_profiles (d v : Nat) : (setDom s d v).profiles = s.profiles := rfl
@[simp] theorem setDom_grammars (d v : Nat) : (setDom s d v).grammars = s.grammars := rfl
@[simp] theorem setDom_units (d v : Nat) : (setDom s d v).units = s.units := rfl
@[simp] theorem setDom_unitWait (d v : Nat) : (setDom s d v).unitWait = s.unitWait := rfl
@[simp] theorem setDom_rr (d v : Nat) : (setDom s d v).rr = s.rr := rfl
@[simp] theorem setDom_stallRem (d v : Nat) : (setDom s d v).stallRem = s.stallRem := rfl
@[simp] theorem setDom_freeCtr (d v : Nat) : (setDom s d v).freeCtr = s.freeCtr := rfl

/-! ### demandOn -/

/-- What it leaves alone. -/
theorem demandOn_frame (d : Nat) : demandOn s d = { s with pwr := (demandOn s d).pwr } := by
  simp only [demandOn]
  repeat' split
  all_goals rfl

@[simp] theorem demandOn_pending (d : Nat) : (demandOn s d).pending = s.pending := (congrArg State.pending (demandOn_frame s d) :)
@[simp] theorem demandOn_ident (d : Nat) : (demandOn s d).ident = s.ident := (congrArg State.ident (demandOn_frame s d) :)
@[simp] theorem demandOn_clk (d : Nat) : (demandOn s d).clk = s.clk := (congrArg State.clk (demandOn_frame s d) :)
@[simp] theorem demandOn_evt (d : Nat) : (demandOn s d).evt = s.evt := (congrArg State.evt (demandOn_frame s d) :)
@[simp] theorem demandOn_cfg (d : Nat) : (demandOn s d).cfg = s.cfg := (congrArg State.cfg (demandOn_frame s d) :)
@[simp] theorem demandOn_hif (d : Nat) : (demandOn s d).hif = s.hif := (congrArg State.hif (demandOn_frame s d) :)
@[simp] theorem demandOn_mbx (d : Nat) : (demandOn s d).mbx = s.mbx := (congrArg State.mbx (demandOn_frame s d) :)
@[simp] theorem demandOn_ops (d : Nat) : (demandOn s d).ops = s.ops := (congrArg State.ops (demandOn_frame s d) :)
@[simp] theorem demandOn_opNext (d : Nat) : (demandOn s d).opNext = s.opNext := (congrArg State.opNext (demandOn_frame s d) :)
@[simp] theorem demandOn_fw (d : Nat) : (demandOn s d).fw = s.fw := (congrArg State.fw (demandOn_frame s d) :)
@[simp] theorem demandOn_mem (d : Nat) : (demandOn s d).mem = s.mem := (congrArg State.mem (demandOn_frame s d) :)
@[simp] theorem demandOn_parts (d : Nat) : (demandOn s d).parts = s.parts := (congrArg State.parts (demandOn_frame s d) :)
@[simp] theorem demandOn_pages (d : Nat) : (demandOn s d).pages = s.pages := (congrArg State.pages (demandOn_frame s d) :)
@[simp] theorem demandOn_tables (d : Nat) : (demandOn s d).tables = s.tables := (congrArg State.tables (demandOn_frame s d) :)
@[simp] theorem demandOn_adapters (d : Nat) : (demandOn s d).adapters = s.adapters := (congrArg State.adapters (demandOn_frame s d) :)
@[simp] theorem demandOn_bindings (d : Nat) : (demandOn s d).bindings = s.bindings := (congrArg State.bindings (demandOn_frame s d) :)
@[simp] theorem demandOn_streams (d : Nat) : (demandOn s d).streams = s.streams := (congrArg State.streams (demandOn_frame s d) :)
@[simp] theorem demandOn_pod (d : Nat) : (demandOn s d).pod = s.pod := (congrArg State.pod (demandOn_frame s d) :)
@[simp] theorem demandOn_pins (d : Nat) : (demandOn s d).pins = s.pins := (congrArg State.pins (demandOn_frame s d) :)
@[simp] theorem demandOn_bg (d : Nat) : (demandOn s d).bg = s.bg := (congrArg State.bg (demandOn_frame s d) :)
@[simp] theorem demandOn_mgmt (d : Nat) : (demandOn s d).mgmt = s.mgmt := (congrArg State.mgmt (demandOn_frame s d) :)
@[simp] theorem demandOn_jtag (d : Nat) : (demandOn s d).jtag = s.jtag := (congrArg State.jtag (demandOn_frame s d) :)
@[simp] theorem demandOn_gal (d : Nat) : (demandOn s d).gal = s.gal := (congrArg State.gal (demandOn_frame s d) :)
@[simp] theorem demandOn_locks (d : Nat) : (demandOn s d).locks = s.locks := (congrArg State.locks (demandOn_frame s d) :)
@[simp] theorem demandOn_cores (d : Nat) : (demandOn s d).cores = s.cores := (congrArg State.cores (demandOn_frame s d) :)
@[simp] theorem demandOn_quo (d : Nat) : (demandOn s d).quo = s.quo := (congrArg State.quo (demandOn_frame s d) :)
@[simp] theorem demandOn_profiles (d : Nat) : (demandOn s d).profiles = s.profiles := (congrArg State.profiles (demandOn_frame s d) :)
@[simp] theorem demandOn_grammars (d : Nat) : (demandOn s d).grammars = s.grammars := (congrArg State.grammars (demandOn_frame s d) :)
@[simp] theorem demandOn_units (d : Nat) : (demandOn s d).units = s.units := (congrArg State.units (demandOn_frame s d) :)
@[simp] theorem demandOn_unitWait (d : Nat) : (demandOn s d).unitWait = s.unitWait := (congrArg State.unitWait (demandOn_frame s d) :)
@[simp] theorem demandOn_rr (d : Nat) : (demandOn s d).rr = s.rr := (congrArg State.rr (demandOn_frame s d) :)
@[simp] theorem demandOn_stallRem (d : Nat) : (demandOn s d).stallRem = s.stallRem := (congrArg State.stallRem (demandOn_frame s d) :)
@[simp] theorem demandOn_freeCtr (d : Nat) : (demandOn s d).freeCtr = s.freeCtr := (congrArg State.freeCtr (demandOn_frame s d) :)

/-! ### setResult -/

@[simp] theorem setResult_pending (r v : Nat) : (setResult s r v).pending = s.pending := rfl
@[simp] theorem setResult_ident (r v : Nat) : (setResult s r v).ident = s.ident := rfl
@[simp] theorem setResult_clk (r v : Nat) : (setResult s r v).clk = s.clk := rfl
@[simp] theorem setResult_evt (r v : Nat) : (setResult s r v).evt = s.evt := rfl
@[simp] theorem setResult_hif (r v : Nat) : (setResult s r v).hif = s.hif := rfl
@[simp] theorem setResult_mbx (r v : Nat) : (setResult s r v).mbx = s.mbx := rfl
@[simp] theorem setResult_ops (r v : Nat) : (setResult s r v).ops = s.ops := rfl
@[simp] theorem setResult_opNext (r v : Nat) : (setResult s r v).opNext = s.opNext := rfl
@[simp] theorem setResult_fw (r v : Nat) : (setResult s r v).fw = s.fw := rfl
@[simp] theorem setResult_mem (r v : Nat) : (setResult s r v).mem = s.mem := rfl
@[simp] theorem setResult_parts (r v : Nat) : (setResult s r v).parts = s.parts := rfl
@[simp] theorem setResult_pages (r v : Nat) : (setResult s r v).pages = s.pages := rfl
@[simp] theorem setResult_tables (r v : Nat) : (setResult s r v).tables = s.tables := rfl
@[simp] theorem setResult_adapters (r v : Nat) : (setResult s r v).adapters = s.adapters := rfl
@[simp] theorem setResult_bindings (r v : Nat) : (setResult s r v).bindings = s.bindings := rfl
@[simp] theorem setResult_streams (r v : Nat) : (setResult s r v).streams = s.streams := rfl
@[simp] theorem setResult_pod (r v : Nat) : (setResult s r v).pod = s.pod := rfl
@[simp] theorem setResult_pwr (r v : Nat) : (setResult s r v).pwr = s.pwr := rfl
@[simp] theorem setResult_pins (r v : Nat) : (setResult s r v).pins = s.pins := rfl
@[simp] theorem setResult_bg (r v : Nat) : (setResult s r v).bg = s.bg := rfl
@[simp] theorem setResult_mgmt (r v : Nat) : (setResult s r v).mgmt = s.mgmt := rfl
@[simp] theorem setResult_jtag (r v : Nat) : (setResult s r v).jtag = s.jtag := rfl
@[simp] theorem setResult_gal (r v : Nat) : (setResult s r v).gal = s.gal := rfl
@[simp] theorem setResult_locks (r v : Nat) : (setResult s r v).locks = s.locks := rfl
@[simp] theorem setResult_cores (r v : Nat) : (setResult s r v).cores = s.cores := rfl
@[simp] theorem setResult_quo (r v : Nat) : (setResult s r v).quo = s.quo := rfl
@[simp] theorem setResult_profiles (r v : Nat) : (setResult s r v).profiles = s.profiles := rfl
@[simp] theorem setResult_grammars (r v : Nat) : (setResult s r v).grammars = s.grammars := rfl
@[simp] theorem setResult_units (r v : Nat) : (setResult s r v).units = s.units := rfl
@[simp] theorem setResult_unitWait (r v : Nat) : (setResult s r v).unitWait = s.unitWait := rfl
@[simp] theorem setResult_rr (r v : Nat) : (setResult s r v).rr = s.rr := rfl
@[simp] theorem setResult_stallRem (r v : Nat) : (setResult s r v).stallRem = s.stallRem := rfl
@[simp] theorem setResult_freeCtr (r v : Nat) : (setResult s r v).freeCtr = s.freeCtr := rfl

/-! ### setSnap -/

@[simp] theorem setSnap_pending (f : Nat) (x : Snap) : (setSnap s f x).pending = s.pending := rfl
@[simp] theorem setSnap_ident (f : Nat) (x : Snap) : (setSnap s f x).ident = s.ident := rfl
@[simp] theorem setSnap_clk (f : Nat) (x : Snap) : (setSnap s f x).clk = s.clk := rfl
@[simp] theorem setSnap_evt (f : Nat) (x : Snap) : (setSnap s f x).evt = s.evt := rfl
@[simp] theorem setSnap_cfg (f : Nat) (x : Snap) : (setSnap s f x).cfg = s.cfg := rfl
@[simp] theorem setSnap_mbx (f : Nat) (x : Snap) : (setSnap s f x).mbx = s.mbx := rfl
@[simp] theorem setSnap_ops (f : Nat) (x : Snap) : (setSnap s f x).ops = s.ops := rfl
@[simp] theorem setSnap_opNext (f : Nat) (x : Snap) : (setSnap s f x).opNext = s.opNext := rfl
@[simp] theorem setSnap_fw (f : Nat) (x : Snap) : (setSnap s f x).fw = s.fw := rfl
@[simp] theorem setSnap_mem (f : Nat) (x : Snap) : (setSnap s f x).mem = s.mem := rfl
@[simp] theorem setSnap_parts (f : Nat) (x : Snap) : (setSnap s f x).parts = s.parts := rfl
@[simp] theorem setSnap_pages (f : Nat) (x : Snap) : (setSnap s f x).pages = s.pages := rfl
@[simp] theorem setSnap_tables (f : Nat) (x : Snap) : (setSnap s f x).tables = s.tables := rfl
@[simp] theorem setSnap_adapters (f : Nat) (x : Snap) : (setSnap s f x).adapters = s.adapters := rfl
@[simp] theorem setSnap_bindings (f : Nat) (x : Snap) : (setSnap s f x).bindings = s.bindings := rfl
@[simp] theorem setSnap_streams (f : Nat) (x : Snap) : (setSnap s f x).streams = s.streams := rfl
@[simp] theorem setSnap_pod (f : Nat) (x : Snap) : (setSnap s f x).pod = s.pod := rfl
@[simp] theorem setSnap_pwr (f : Nat) (x : Snap) : (setSnap s f x).pwr = s.pwr := rfl
@[simp] theorem setSnap_pins (f : Nat) (x : Snap) : (setSnap s f x).pins = s.pins := rfl
@[simp] theorem setSnap_bg (f : Nat) (x : Snap) : (setSnap s f x).bg = s.bg := rfl
@[simp] theorem setSnap_mgmt (f : Nat) (x : Snap) : (setSnap s f x).mgmt = s.mgmt := rfl
@[simp] theorem setSnap_jtag (f : Nat) (x : Snap) : (setSnap s f x).jtag = s.jtag := rfl
@[simp] theorem setSnap_gal (f : Nat) (x : Snap) : (setSnap s f x).gal = s.gal := rfl
@[simp] theorem setSnap_locks (f : Nat) (x : Snap) : (setSnap s f x).locks = s.locks := rfl
@[simp] theorem setSnap_cores (f : Nat) (x : Snap) : (setSnap s f x).cores = s.cores := rfl
@[simp] theorem setSnap_quo (f : Nat) (x : Snap) : (setSnap s f x).quo = s.quo := rfl
@[simp] theorem setSnap_profiles (f : Nat) (x : Snap) : (setSnap s f x).profiles = s.profiles := rfl
@[simp] theorem setSnap_grammars (f : Nat) (x : Snap) : (setSnap s f x).grammars = s.grammars := rfl
@[simp] theorem setSnap_units (f : Nat) (x : Snap) : (setSnap s f x).units = s.units := rfl
@[simp] theorem setSnap_unitWait (f : Nat) (x : Snap) : (setSnap s f x).unitWait = s.unitWait := rfl
@[simp] theorem setSnap_rr (f : Nat) (x : Snap) : (setSnap s f x).rr = s.rr := rfl
@[simp] theorem setSnap_stallRem (f : Nat) (x : Snap) : (setSnap s f x).stallRem = s.stallRem := rfl
@[simp] theorem setSnap_freeCtr (f : Nat) (x : Snap) : (setSnap s f x).freeCtr = s.freeCtr := rfl

/-! ### busValue -/

@[simp] theorem busValue_pending (f : Nat) (b : Bool) (o : Nat) (v : W32) : (busValue s f b o v).pending = s.pending := rfl
@[simp] theorem busValue_ident (f : Nat) (b : Bool) (o : Nat) (v : W32) : (busValue s f b o v).ident = s.ident := rfl
@[simp] theorem busValue_clk (f : Nat) (b : Bool) (o : Nat) (v : W32) : (busValue s f b o v).clk = s.clk := rfl
@[simp] theorem busValue_evt (f : Nat) (b : Bool) (o : Nat) (v : W32) : (busValue s f b o v).evt = s.evt := rfl
@[simp] theorem busValue_cfg (f : Nat) (b : Bool) (o : Nat) (v : W32) : (busValue s f b o v).cfg = s.cfg := rfl
@[simp] theorem busValue_mbx (f : Nat) (b : Bool) (o : Nat) (v : W32) : (busValue s f b o v).mbx = s.mbx := rfl
@[simp] theorem busValue_ops (f : Nat) (b : Bool) (o : Nat) (v : W32) : (busValue s f b o v).ops = s.ops := rfl
@[simp] theorem busValue_opNext (f : Nat) (b : Bool) (o : Nat) (v : W32) : (busValue s f b o v).opNext = s.opNext := rfl
@[simp] theorem busValue_fw (f : Nat) (b : Bool) (o : Nat) (v : W32) : (busValue s f b o v).fw = s.fw := rfl
@[simp] theorem busValue_mem (f : Nat) (b : Bool) (o : Nat) (v : W32) : (busValue s f b o v).mem = s.mem := rfl
@[simp] theorem busValue_parts (f : Nat) (b : Bool) (o : Nat) (v : W32) : (busValue s f b o v).parts = s.parts := rfl
@[simp] theorem busValue_pages (f : Nat) (b : Bool) (o : Nat) (v : W32) : (busValue s f b o v).pages = s.pages := rfl
@[simp] theorem busValue_tables (f : Nat) (b : Bool) (o : Nat) (v : W32) : (busValue s f b o v).tables = s.tables := rfl
@[simp] theorem busValue_adapters (f : Nat) (b : Bool) (o : Nat) (v : W32) : (busValue s f b o v).adapters = s.adapters := rfl
@[simp] theorem busValue_bindings (f : Nat) (b : Bool) (o : Nat) (v : W32) : (busValue s f b o v).bindings = s.bindings := rfl
@[simp] theorem busValue_streams (f : Nat) (b : Bool) (o : Nat) (v : W32) : (busValue s f b o v).streams = s.streams := rfl
@[simp] theorem busValue_pod (f : Nat) (b : Bool) (o : Nat) (v : W32) : (busValue s f b o v).pod = s.pod := rfl
@[simp] theorem busValue_pwr (f : Nat) (b : Bool) (o : Nat) (v : W32) : (busValue s f b o v).pwr = s.pwr := rfl
@[simp] theorem busValue_pins (f : Nat) (b : Bool) (o : Nat) (v : W32) : (busValue s f b o v).pins = s.pins := rfl
@[simp] theorem busValue_bg (f : Nat) (b : Bool) (o : Nat) (v : W32) : (busValue s f b o v).bg = s.bg := rfl
@[simp] theorem busValue_mgmt (f : Nat) (b : Bool) (o : Nat) (v : W32) : (busValue s f b o v).mgmt = s.mgmt := rfl
@[simp] theorem busValue_jtag (f : Nat) (b : Bool) (o : Nat) (v : W32) : (busValue s f b o v).jtag = s.jtag := rfl
@[simp] theorem busValue_gal (f : Nat) (b : Bool) (o : Nat) (v : W32) : (busValue s f b o v).gal = s.gal := rfl
@[simp] theorem busValue_locks (f : Nat) (b : Bool) (o : Nat) (v : W32) : (busValue s f b o v).locks = s.locks := rfl
@[simp] theorem busValue_cores (f : Nat) (b : Bool) (o : Nat) (v : W32) : (busValue s f b o v).cores = s.cores := rfl
@[simp] theorem busValue_quo (f : Nat) (b : Bool) (o : Nat) (v : W32) : (busValue s f b o v).quo = s.quo := rfl
@[simp] theorem busValue_profiles (f : Nat) (b : Bool) (o : Nat) (v : W32) : (busValue s f b o v).profiles = s.profiles := rfl
@[simp] theorem busValue_grammars (f : Nat) (b : Bool) (o : Nat) (v : W32) : (busValue s f b o v).grammars = s.grammars := rfl
@[simp] theorem busValue_units (f : Nat) (b : Bool) (o : Nat) (v : W32) : (busValue s f b o v).units = s.units := rfl
@[simp] theorem busValue_unitWait (f : Nat) (b : Bool) (o : Nat) (v : W32) : (busValue s f b o v).unitWait = s.unitWait := rfl
@[simp] theorem busValue_rr (f : Nat) (b : Bool) (o : Nat) (v : W32) : (busValue s f b o v).rr = s.rr := rfl
@[simp] theorem busValue_stallRem (f : Nat) (b : Bool) (o : Nat) (v : W32) : (busValue s f b o v).stallRem = s.stallRem := rfl
@[simp] theorem busValue_freeCtr (f : Nat) (b : Bool) (o : Nat) (v : W32) : (busValue s f b o v).freeCtr = s.freeCtr := rfl

/-! ### setGq -/

@[simp] theorem setGq_pending (q : Nat) (x : GQueue) : (setGq s q x).pending = s.pending := rfl
@[simp] theorem setGq_ident (q : Nat) (x : GQueue) : (setGq s q x).ident = s.ident := rfl
@[simp] theorem setGq_clk (q : Nat) (x : GQueue) : (setGq s q x).clk = s.clk := rfl
@[simp] theorem setGq_evt (q : Nat) (x : GQueue) : (setGq s q x).evt = s.evt := rfl
@[simp] theorem setGq_cfg (q : Nat) (x : GQueue) : (setGq s q x).cfg = s.cfg := rfl
@[simp] theorem setGq_hif (q : Nat) (x : GQueue) : (setGq s q x).hif = s.hif := rfl
@[simp] theorem setGq_mbx (q : Nat) (x : GQueue) : (setGq s q x).mbx = s.mbx := rfl
@[simp] theorem setGq_ops (q : Nat) (x : GQueue) : (setGq s q x).ops = s.ops := rfl
@[simp] theorem setGq_opNext (q : Nat) (x : GQueue) : (setGq s q x).opNext = s.opNext := rfl
@[simp] theorem setGq_fw (q : Nat) (x : GQueue) : (setGq s q x).fw = s.fw := rfl
@[simp] theorem setGq_mem (q : Nat) (x : GQueue) : (setGq s q x).mem = s.mem := rfl
@[simp] theorem setGq_parts (q : Nat) (x : GQueue) : (setGq s q x).parts = s.parts := rfl
@[simp] theorem setGq_pages (q : Nat) (x : GQueue) : (setGq s q x).pages = s.pages := rfl
@[simp] theorem setGq_tables (q : Nat) (x : GQueue) : (setGq s q x).tables = s.tables := rfl
@[simp] theorem setGq_adapters (q : Nat) (x : GQueue) : (setGq s q x).adapters = s.adapters := rfl
@[simp] theorem setGq_bindings (q : Nat) (x : GQueue) : (setGq s q x).bindings = s.bindings := rfl
@[simp] theorem setGq_streams (q : Nat) (x : GQueue) : (setGq s q x).streams = s.streams := rfl
@[simp] theorem setGq_pod (q : Nat) (x : GQueue) : (setGq s q x).pod = s.pod := rfl
@[simp] theorem setGq_pwr (q : Nat) (x : GQueue) : (setGq s q x).pwr = s.pwr := rfl
@[simp] theorem setGq_pins (q : Nat) (x : GQueue) : (setGq s q x).pins = s.pins := rfl
@[simp] theorem setGq_bg (q : Nat) (x : GQueue) : (setGq s q x).bg = s.bg := rfl
@[simp] theorem setGq_mgmt (q : Nat) (x : GQueue) : (setGq s q x).mgmt = s.mgmt := rfl
@[simp] theorem setGq_jtag (q : Nat) (x : GQueue) : (setGq s q x).jtag = s.jtag := rfl
@[simp] theorem setGq_locks (q : Nat) (x : GQueue) : (setGq s q x).locks = s.locks := rfl
@[simp] theorem setGq_cores (q : Nat) (x : GQueue) : (setGq s q x).cores = s.cores := rfl
@[simp] theorem setGq_quo (q : Nat) (x : GQueue) : (setGq s q x).quo = s.quo := rfl
@[simp] theorem setGq_profiles (q : Nat) (x : GQueue) : (setGq s q x).profiles = s.profiles := rfl
@[simp] theorem setGq_grammars (q : Nat) (x : GQueue) : (setGq s q x).grammars = s.grammars := rfl
@[simp] theorem setGq_units (q : Nat) (x : GQueue) : (setGq s q x).units = s.units := rfl
@[simp] theorem setGq_unitWait (q : Nat) (x : GQueue) : (setGq s q x).unitWait = s.unitWait := rfl
@[simp] theorem setGq_rr (q : Nat) (x : GQueue) : (setGq s q x).rr = s.rr := rfl
@[simp] theorem setGq_stallRem (q : Nat) (x : GQueue) : (setGq s q x).stallRem = s.stallRem := rfl
@[simp] theorem setGq_freeCtr (q : Nat) (x : GQueue) : (setGq s q x).freeCtr = s.freeCtr := rfl

/-! ### setLink -/

@[simp] theorem setLink_pending (l : Nat) (x : Link) : (setLink s l x).pending = s.pending := rfl
@[simp] theorem setLink_ident (l : Nat) (x : Link) : (setLink s l x).ident = s.ident := rfl
@[simp] theorem setLink_clk (l : Nat) (x : Link) : (setLink s l x).clk = s.clk := rfl
@[simp] theorem setLink_evt (l : Nat) (x : Link) : (setLink s l x).evt = s.evt := rfl
@[simp] theorem setLink_cfg (l : Nat) (x : Link) : (setLink s l x).cfg = s.cfg := rfl
@[simp] theorem setLink_hif (l : Nat) (x : Link) : (setLink s l x).hif = s.hif := rfl
@[simp] theorem setLink_mbx (l : Nat) (x : Link) : (setLink s l x).mbx = s.mbx := rfl
@[simp] theorem setLink_ops (l : Nat) (x : Link) : (setLink s l x).ops = s.ops := rfl
@[simp] theorem setLink_opNext (l : Nat) (x : Link) : (setLink s l x).opNext = s.opNext := rfl
@[simp] theorem setLink_fw (l : Nat) (x : Link) : (setLink s l x).fw = s.fw := rfl
@[simp] theorem setLink_mem (l : Nat) (x : Link) : (setLink s l x).mem = s.mem := rfl
@[simp] theorem setLink_parts (l : Nat) (x : Link) : (setLink s l x).parts = s.parts := rfl
@[simp] theorem setLink_pages (l : Nat) (x : Link) : (setLink s l x).pages = s.pages := rfl
@[simp] theorem setLink_tables (l : Nat) (x : Link) : (setLink s l x).tables = s.tables := rfl
@[simp] theorem setLink_adapters (l : Nat) (x : Link) : (setLink s l x).adapters = s.adapters := rfl
@[simp] theorem setLink_bindings (l : Nat) (x : Link) : (setLink s l x).bindings = s.bindings := rfl
@[simp] theorem setLink_streams (l : Nat) (x : Link) : (setLink s l x).streams = s.streams := rfl
@[simp] theorem setLink_pwr (l : Nat) (x : Link) : (setLink s l x).pwr = s.pwr := rfl
@[simp] theorem setLink_pins (l : Nat) (x : Link) : (setLink s l x).pins = s.pins := rfl
@[simp] theorem setLink_bg (l : Nat) (x : Link) : (setLink s l x).bg = s.bg := rfl
@[simp] theorem setLink_mgmt (l : Nat) (x : Link) : (setLink s l x).mgmt = s.mgmt := rfl
@[simp] theorem setLink_jtag (l : Nat) (x : Link) : (setLink s l x).jtag = s.jtag := rfl
@[simp] theorem setLink_gal (l : Nat) (x : Link) : (setLink s l x).gal = s.gal := rfl
@[simp] theorem setLink_locks (l : Nat) (x : Link) : (setLink s l x).locks = s.locks := rfl
@[simp] theorem setLink_cores (l : Nat) (x : Link) : (setLink s l x).cores = s.cores := rfl
@[simp] theorem setLink_quo (l : Nat) (x : Link) : (setLink s l x).quo = s.quo := rfl
@[simp] theorem setLink_profiles (l : Nat) (x : Link) : (setLink s l x).profiles = s.profiles := rfl
@[simp] theorem setLink_grammars (l : Nat) (x : Link) : (setLink s l x).grammars = s.grammars := rfl
@[simp] theorem setLink_units (l : Nat) (x : Link) : (setLink s l x).units = s.units := rfl
@[simp] theorem setLink_unitWait (l : Nat) (x : Link) : (setLink s l x).unitWait = s.unitWait := rfl
@[simp] theorem setLink_rr (l : Nat) (x : Link) : (setLink s l x).rr = s.rr := rfl
@[simp] theorem setLink_stallRem (l : Nat) (x : Link) : (setLink s l x).stallRem = s.stallRem := rfl
@[simp] theorem setLink_freeCtr (l : Nat) (x : Link) : (setLink s l x).freeCtr = s.freeCtr := rfl

/-! ### setLock -/

@[simp] theorem setLock_pending (j : Nat) (x : LockSt) : (setLock s j x).pending = s.pending := rfl
@[simp] theorem setLock_ident (j : Nat) (x : LockSt) : (setLock s j x).ident = s.ident := rfl
@[simp] theorem setLock_clk (j : Nat) (x : LockSt) : (setLock s j x).clk = s.clk := rfl
@[simp] theorem setLock_evt (j : Nat) (x : LockSt) : (setLock s j x).evt = s.evt := rfl
@[simp] theorem setLock_cfg (j : Nat) (x : LockSt) : (setLock s j x).cfg = s.cfg := rfl
@[simp] theorem setLock_hif (j : Nat) (x : LockSt) : (setLock s j x).hif = s.hif := rfl
@[simp] theorem setLock_mbx (j : Nat) (x : LockSt) : (setLock s j x).mbx = s.mbx := rfl
@[simp] theorem setLock_ops (j : Nat) (x : LockSt) : (setLock s j x).ops = s.ops := rfl
@[simp] theorem setLock_opNext (j : Nat) (x : LockSt) : (setLock s j x).opNext = s.opNext := rfl
@[simp] theorem setLock_fw (j : Nat) (x : LockSt) : (setLock s j x).fw = s.fw := rfl
@[simp] theorem setLock_mem (j : Nat) (x : LockSt) : (setLock s j x).mem = s.mem := rfl
@[simp] theorem setLock_parts (j : Nat) (x : LockSt) : (setLock s j x).parts = s.parts := rfl
@[simp] theorem setLock_pages (j : Nat) (x : LockSt) : (setLock s j x).pages = s.pages := rfl
@[simp] theorem setLock_tables (j : Nat) (x : LockSt) : (setLock s j x).tables = s.tables := rfl
@[simp] theorem setLock_adapters (j : Nat) (x : LockSt) : (setLock s j x).adapters = s.adapters := rfl
@[simp] theorem setLock_bindings (j : Nat) (x : LockSt) : (setLock s j x).bindings = s.bindings := rfl
@[simp] theorem setLock_streams (j : Nat) (x : LockSt) : (setLock s j x).streams = s.streams := rfl
@[simp] theorem setLock_pod (j : Nat) (x : LockSt) : (setLock s j x).pod = s.pod := rfl
@[simp] theorem setLock_pwr (j : Nat) (x : LockSt) : (setLock s j x).pwr = s.pwr := rfl
@[simp] theorem setLock_pins (j : Nat) (x : LockSt) : (setLock s j x).pins = s.pins := rfl
@[simp] theorem setLock_bg (j : Nat) (x : LockSt) : (setLock s j x).bg = s.bg := rfl
@[simp] theorem setLock_mgmt (j : Nat) (x : LockSt) : (setLock s j x).mgmt = s.mgmt := rfl
@[simp] theorem setLock_jtag (j : Nat) (x : LockSt) : (setLock s j x).jtag = s.jtag := rfl
@[simp] theorem setLock_gal (j : Nat) (x : LockSt) : (setLock s j x).gal = s.gal := rfl
@[simp] theorem setLock_cores (j : Nat) (x : LockSt) : (setLock s j x).cores = s.cores := rfl
@[simp] theorem setLock_quo (j : Nat) (x : LockSt) : (setLock s j x).quo = s.quo := rfl
@[simp] theorem setLock_profiles (j : Nat) (x : LockSt) : (setLock s j x).profiles = s.profiles := rfl
@[simp] theorem setLock_grammars (j : Nat) (x : LockSt) : (setLock s j x).grammars = s.grammars := rfl
@[simp] theorem setLock_units (j : Nat) (x : LockSt) : (setLock s j x).units = s.units := rfl
@[simp] theorem setLock_unitWait (j : Nat) (x : LockSt) : (setLock s j x).unitWait = s.unitWait := rfl
@[simp] theorem setLock_rr (j : Nat) (x : LockSt) : (setLock s j x).rr = s.rr := rfl
@[simp] theorem setLock_stallRem (j : Nat) (x : LockSt) : (setLock s j x).stallRem = s.stallRem := rfl
@[simp] theorem setLock_freeCtr (j : Nat) (x : LockSt) : (setLock s j x).freeCtr = s.freeCtr := rfl

/-! ### lckResult -/

@[simp] theorem lckResult_pending (f j r : Nat) : (lckResult s f j r).pending = s.pending := rfl
@[simp] theorem lckResult_ident (f j r : Nat) : (lckResult s f j r).ident = s.ident := rfl
@[simp] theorem lckResult_clk (f j r : Nat) : (lckResult s f j r).clk = s.clk := rfl
@[simp] theorem lckResult_evt (f j r : Nat) : (lckResult s f j r).evt = s.evt := rfl
@[simp] theorem lckResult_cfg (f j r : Nat) : (lckResult s f j r).cfg = s.cfg := rfl
@[simp] theorem lckResult_mbx (f j r : Nat) : (lckResult s f j r).mbx = s.mbx := rfl
@[simp] theorem lckResult_ops (f j r : Nat) : (lckResult s f j r).ops = s.ops := rfl
@[simp] theorem lckResult_opNext (f j r : Nat) : (lckResult s f j r).opNext = s.opNext := rfl
@[simp] theorem lckResult_fw (f j r : Nat) : (lckResult s f j r).fw = s.fw := rfl
@[simp] theorem lckResult_mem (f j r : Nat) : (lckResult s f j r).mem = s.mem := rfl
@[simp] theorem lckResult_parts (f j r : Nat) : (lckResult s f j r).parts = s.parts := rfl
@[simp] theorem lckResult_pages (f j r : Nat) : (lckResult s f j r).pages = s.pages := rfl
@[simp] theorem lckResult_tables (f j r : Nat) : (lckResult s f j r).tables = s.tables := rfl
@[simp] theorem lckResult_adapters (f j r : Nat) : (lckResult s f j r).adapters = s.adapters := rfl
@[simp] theorem lckResult_bindings (f j r : Nat) : (lckResult s f j r).bindings = s.bindings := rfl
@[simp] theorem lckResult_streams (f j r : Nat) : (lckResult s f j r).streams = s.streams := rfl
@[simp] theorem lckResult_pod (f j r : Nat) : (lckResult s f j r).pod = s.pod := rfl
@[simp] theorem lckResult_pwr (f j r : Nat) : (lckResult s f j r).pwr = s.pwr := rfl
@[simp] theorem lckResult_pins (f j r : Nat) : (lckResult s f j r).pins = s.pins := rfl
@[simp] theorem lckResult_bg (f j r : Nat) : (lckResult s f j r).bg = s.bg := rfl
@[simp] theorem lckResult_mgmt (f j r : Nat) : (lckResult s f j r).mgmt = s.mgmt := rfl
@[simp] theorem lckResult_jtag (f j r : Nat) : (lckResult s f j r).jtag = s.jtag := rfl
@[simp] theorem lckResult_gal (f j r : Nat) : (lckResult s f j r).gal = s.gal := rfl
@[simp] theorem lckResult_locks (f j r : Nat) : (lckResult s f j r).locks = s.locks := rfl
@[simp] theorem lckResult_cores (f j r : Nat) : (lckResult s f j r).cores = s.cores := rfl
@[simp] theorem lckResult_quo (f j r : Nat) : (lckResult s f j r).quo = s.quo := rfl
@[simp] theorem lckResult_profiles (f j r : Nat) : (lckResult s f j r).profiles = s.profiles := rfl
@[simp] theorem lckResult_grammars (f j r : Nat) : (lckResult s f j r).grammars = s.grammars := rfl
@[simp] theorem lckResult_units (f j r : Nat) : (lckResult s f j r).units = s.units := rfl
@[simp] theorem lckResult_unitWait (f j r : Nat) : (lckResult s f j r).unitWait = s.unitWait := rfl
@[simp] theorem lckResult_rr (f j r : Nat) : (lckResult s f j r).rr = s.rr := rfl
@[simp] theorem lckResult_stallRem (f j r : Nat) : (lckResult s f j r).stallRem = s.stallRem := rfl
@[simp] theorem lckResult_freeCtr (f j r : Nat) : (lckResult s f j r).freeCtr = s.freeCtr := rfl

/-! ### setMbx -/

@[simp] theorem setMbx_pending (f : Nat) (x : Mbx) : (setMbx s f x).pending = s.pending := rfl
@[simp] theorem setMbx_ident (f : Nat) (x : Mbx) : (setMbx s f x).ident = s.ident := rfl
@[simp] theorem setMbx_clk (f : Nat) (x : Mbx) : (setMbx s f x).clk = s.clk := rfl
@[simp] theorem setMbx_evt (f : Nat) (x : Mbx) : (setMbx s f x).evt = s.evt := rfl
@[simp] theorem setMbx_cfg (f : Nat) (x : Mbx) : (setMbx s f x).cfg = s.cfg := rfl
@[simp] theorem setMbx_hif (f : Nat) (x : Mbx) : (setMbx s f x).hif = s.hif := rfl
@[simp] theorem setMbx_ops (f : Nat) (x : Mbx) : (setMbx s f x).ops = s.ops := rfl
@[simp] theorem setMbx_opNext (f : Nat) (x : Mbx) : (setMbx s f x).opNext = s.opNext := rfl
@[simp] theorem setMbx_fw (f : Nat) (x : Mbx) : (setMbx s f x).fw = s.fw := rfl
@[simp] theorem setMbx_mem (f : Nat) (x : Mbx) : (setMbx s f x).mem = s.mem := rfl
@[simp] theorem setMbx_parts (f : Nat) (x : Mbx) : (setMbx s f x).parts = s.parts := rfl
@[simp] theorem setMbx_pages (f : Nat) (x : Mbx) : (setMbx s f x).pages = s.pages := rfl
@[simp] theorem setMbx_tables (f : Nat) (x : Mbx) : (setMbx s f x).tables = s.tables := rfl
@[simp] theorem setMbx_adapters (f : Nat) (x : Mbx) : (setMbx s f x).adapters = s.adapters := rfl
@[simp] theorem setMbx_bindings (f : Nat) (x : Mbx) : (setMbx s f x).bindings = s.bindings := rfl
@[simp] theorem setMbx_streams (f : Nat) (x : Mbx) : (setMbx s f x).streams = s.streams := rfl
@[simp] theorem setMbx_pod (f : Nat) (x : Mbx) : (setMbx s f x).pod = s.pod := rfl
@[simp] theorem setMbx_pwr (f : Nat) (x : Mbx) : (setMbx s f x).pwr = s.pwr := rfl
@[simp] theorem setMbx_pins (f : Nat) (x : Mbx) : (setMbx s f x).pins = s.pins := rfl
@[simp] theorem setMbx_bg (f : Nat) (x : Mbx) : (setMbx s f x).bg = s.bg := rfl
@[simp] theorem setMbx_mgmt (f : Nat) (x : Mbx) : (setMbx s f x).mgmt = s.mgmt := rfl
@[simp] theorem setMbx_jtag (f : Nat) (x : Mbx) : (setMbx s f x).jtag = s.jtag := rfl
@[simp] theorem setMbx_gal (f : Nat) (x : Mbx) : (setMbx s f x).gal = s.gal := rfl
@[simp] theorem setMbx_locks (f : Nat) (x : Mbx) : (setMbx s f x).locks = s.locks := rfl
@[simp] theorem setMbx_cores (f : Nat) (x : Mbx) : (setMbx s f x).cores = s.cores := rfl
@[simp] theorem setMbx_quo (f : Nat) (x : Mbx) : (setMbx s f x).quo = s.quo := rfl
@[simp] theorem setMbx_profiles (f : Nat) (x : Mbx) : (setMbx s f x).profiles = s.profiles := rfl
@[simp] theorem setMbx_grammars (f : Nat) (x : Mbx) : (setMbx s f x).grammars = s.grammars := rfl
@[simp] theorem setMbx_units (f : Nat) (x : Mbx) : (setMbx s f x).units = s.units := rfl
@[simp] theorem setMbx_unitWait (f : Nat) (x : Mbx) : (setMbx s f x).unitWait = s.unitWait := rfl
@[simp] theorem setMbx_rr (f : Nat) (x : Mbx) : (setMbx s f x).rr = s.rr := rfl
@[simp] theorem setMbx_stallRem (f : Nat) (x : Mbx) : (setMbx s f x).stallRem = s.stallRem := rfl
@[simp] theorem setMbx_freeCtr (f : Nat) (x : Mbx) : (setMbx s f x).freeCtr = s.freeCtr := rfl

/-! ### answer -/

/-- What it leaves alone. -/
theorem answer_frame (f st d w : Nat) (l : List Byte) : answer s f st d w l = { s with mbx := (answer s f st d w l).mbx } := by
  simp only [answer]
  split <;> rfl

@[simp] theorem answer_pending (f st d w : Nat) (l : List Byte) : (answer s f st d w l).pending = s.pending := (congrArg State.pending (answer_frame s f st d w l) :)
@[simp] theorem answer_ident (f st d w : Nat) (l : List Byte) : (answer s f st d w l).ident = s.ident := (congrArg State.ident (answer_frame s f st d w l) :)
@[simp] theorem answer_clk (f st d w : Nat) (l : List Byte) : (answer s f st d w l).clk = s.clk := (congrArg State.clk (answer_frame s f st d w l) :)
@[simp] theorem answer_evt (f st d w : Nat) (l : List Byte) : (answer s f st d w l).evt = s.evt := (congrArg State.evt (answer_frame s f st d w l) :)
@[simp] theorem answer_cfg (f st d w : Nat) (l : List Byte) : (answer s f st d w l).cfg = s.cfg := (congrArg State.cfg (answer_frame s f st d w l) :)
@[simp] theorem answer_hif (f st d w : Nat) (l : List Byte) : (answer s f st d w l).hif = s.hif := (congrArg State.hif (answer_frame s f st d w l) :)
@[simp] theorem answer_ops (f st d w : Nat) (l : List Byte) : (answer s f st d w l).ops = s.ops := (congrArg State.ops (answer_frame s f st d w l) :)
@[simp] theorem answer_opNext (f st d w : Nat) (l : List Byte) : (answer s f st d w l).opNext = s.opNext := (congrArg State.opNext (answer_frame s f st d w l) :)
@[simp] theorem answer_fw (f st d w : Nat) (l : List Byte) : (answer s f st d w l).fw = s.fw := (congrArg State.fw (answer_frame s f st d w l) :)
@[simp] theorem answer_mem (f st d w : Nat) (l : List Byte) : (answer s f st d w l).mem = s.mem := (congrArg State.mem (answer_frame s f st d w l) :)
@[simp] theorem answer_parts (f st d w : Nat) (l : List Byte) : (answer s f st d w l).parts = s.parts := (congrArg State.parts (answer_frame s f st d w l) :)
@[simp] theorem answer_pages (f st d w : Nat) (l : List Byte) : (answer s f st d w l).pages = s.pages := (congrArg State.pages (answer_frame s f st d w l) :)
@[simp] theorem answer_tables (f st d w : Nat) (l : List Byte) : (answer s f st d w l).tables = s.tables := (congrArg State.tables (answer_frame s f st d w l) :)
@[simp] theorem answer_adapters (f st d w : Nat) (l : List Byte) : (answer s f st d w l).adapters = s.adapters := (congrArg State.adapters (answer_frame s f st d w l) :)
@[simp] theorem answer_bindings (f st d w : Nat) (l : List Byte) : (answer s f st d w l).bindings = s.bindings := (congrArg State.bindings (answer_frame s f st d w l) :)
@[simp] theorem answer_streams (f st d w : Nat) (l : List Byte) : (answer s f st d w l).streams = s.streams := (congrArg State.streams (answer_frame s f st d w l) :)
@[simp] theorem answer_pod (f st d w : Nat) (l : List Byte) : (answer s f st d w l).pod = s.pod := (congrArg State.pod (answer_frame s f st d w l) :)
@[simp] theorem answer_pwr (f st d w : Nat) (l : List Byte) : (answer s f st d w l).pwr = s.pwr := (congrArg State.pwr (answer_frame s f st d w l) :)
@[simp] theorem answer_pins (f st d w : Nat) (l : List Byte) : (answer s f st d w l).pins = s.pins := (congrArg State.pins (answer_frame s f st d w l) :)
@[simp] theorem answer_bg (f st d w : Nat) (l : List Byte) : (answer s f st d w l).bg = s.bg := (congrArg State.bg (answer_frame s f st d w l) :)
@[simp] theorem answer_mgmt (f st d w : Nat) (l : List Byte) : (answer s f st d w l).mgmt = s.mgmt := (congrArg State.mgmt (answer_frame s f st d w l) :)
@[simp] theorem answer_jtag (f st d w : Nat) (l : List Byte) : (answer s f st d w l).jtag = s.jtag := (congrArg State.jtag (answer_frame s f st d w l) :)
@[simp] theorem answer_gal (f st d w : Nat) (l : List Byte) : (answer s f st d w l).gal = s.gal := (congrArg State.gal (answer_frame s f st d w l) :)
@[simp] theorem answer_locks (f st d w : Nat) (l : List Byte) : (answer s f st d w l).locks = s.locks := (congrArg State.locks (answer_frame s f st d w l) :)
@[simp] theorem answer_cores (f st d w : Nat) (l : List Byte) : (answer s f st d w l).cores = s.cores := (congrArg State.cores (answer_frame s f st d w l) :)
@[simp] theorem answer_quo (f st d w : Nat) (l : List Byte) : (answer s f st d w l).quo = s.quo := (congrArg State.quo (answer_frame s f st d w l) :)
@[simp] theorem answer_profiles (f st d w : Nat) (l : List Byte) : (answer s f st d w l).profiles = s.profiles := (congrArg State.profiles (answer_frame s f st d w l) :)
@[simp] theorem answer_grammars (f st d w : Nat) (l : List Byte) : (answer s f st d w l).grammars = s.grammars := (congrArg State.grammars (answer_frame s f st d w l) :)
@[simp] theorem answer_units (f st d w : Nat) (l : List Byte) : (answer s f st d w l).units = s.units := (congrArg State.units (answer_frame s f st d w l) :)
@[simp] theorem answer_unitWait (f st d w : Nat) (l : List Byte) : (answer s f st d w l).unitWait = s.unitWait := (congrArg State.unitWait (answer_frame s f st d w l) :)
@[simp] theorem answer_rr (f st d w : Nat) (l : List Byte) : (answer s f st d w l).rr = s.rr := (congrArg State.rr (answer_frame s f st d w l) :)
@[simp] theorem answer_stallRem (f st d w : Nat) (l : List Byte) : (answer s f st d w l).stallRem = s.stallRem := (congrArg State.stallRem (answer_frame s f st d w l) :)
@[simp] theorem answer_freeCtr (f st d w : Nat) (l : List Byte) : (answer s f st d w l).freeCtr = s.freeCtr := (congrArg State.freeCtr (answer_frame s f st d w l) :)

/-! ### setOp -/

@[simp] theorem setOp_pending (o : Op) : (setOp s o).pending = s.pending := rfl
@[simp] theorem setOp_ident (o : Op) : (setOp s o).ident = s.ident := rfl
@[simp] theorem setOp_clk (o : Op) : (setOp s o).clk = s.clk := rfl
@[simp] theorem setOp_evt (o : Op) : (setOp s o).evt = s.evt := rfl
@[simp] theorem setOp_cfg (o : Op) : (setOp s o).cfg = s.cfg := rfl
@[simp] theorem setOp_hif (o : Op) : (setOp s o).hif = s.hif := rfl
@[simp] theorem setOp_mbx (o : Op) : (setOp s o).mbx = s.mbx := rfl
@[simp] theorem setOp_opNext (o : Op) : (setOp s o).opNext = s.opNext := rfl
@[simp] theorem setOp_fw (o : Op) : (setOp s o).fw = s.fw := rfl
@[simp] theorem setOp_mem (o : Op) : (setOp s o).mem = s.mem := rfl
@[simp] theorem setOp_parts (o : Op) : (setOp s o).parts = s.parts := rfl
@[simp] theorem setOp_pages (o : Op) : (setOp s o).pages = s.pages := rfl
@[simp] theorem setOp_tables (o : Op) : (setOp s o).tables = s.tables := rfl
@[simp] theorem setOp_adapters (o : Op) : (setOp s o).adapters = s.adapters := rfl
@[simp] theorem setOp_bindings (o : Op) : (setOp s o).bindings = s.bindings := rfl
@[simp] theorem setOp_streams (o : Op) : (setOp s o).streams = s.streams := rfl
@[simp] theorem setOp_pod (o : Op) : (setOp s o).pod = s.pod := rfl
@[simp] theorem setOp_pwr (o : Op) : (setOp s o).pwr = s.pwr := rfl
@[simp] theorem setOp_pins (o : Op) : (setOp s o).pins = s.pins := rfl
@[simp] theorem setOp_bg (o : Op) : (setOp s o).bg = s.bg := rfl
@[simp] theorem setOp_mgmt (o : Op) : (setOp s o).mgmt = s.mgmt := rfl
@[simp] theorem setOp_jtag (o : Op) : (setOp s o).jtag = s.jtag := rfl
@[simp] theorem setOp_gal (o : Op) : (setOp s o).gal = s.gal := rfl
@[simp] theorem setOp_locks (o : Op) : (setOp s o).locks = s.locks := rfl
@[simp] theorem setOp_cores (o : Op) : (setOp s o).cores = s.cores := rfl
@[simp] theorem setOp_quo (o : Op) : (setOp s o).quo = s.quo := rfl
@[simp] theorem setOp_profiles (o : Op) : (setOp s o).profiles = s.profiles := rfl
@[simp] theorem setOp_grammars (o : Op) : (setOp s o).grammars = s.grammars := rfl
@[simp] theorem setOp_units (o : Op) : (setOp s o).units = s.units := rfl
@[simp] theorem setOp_unitWait (o : Op) : (setOp s o).unitWait = s.unitWait := rfl
@[simp] theorem setOp_rr (o : Op) : (setOp s o).rr = s.rr := rfl
@[simp] theorem setOp_stallRem (o : Op) : (setOp s o).stallRem = s.stallRem := rfl
@[simp] theorem setOp_freeCtr (o : Op) : (setOp s o).freeCtr = s.freeCtr := rfl

/-! ### setPin -/

@[simp] theorem setPin_pending (c : Nat) (p : PinSt) : (setPin s c p).pending = s.pending := rfl
@[simp] theorem setPin_ident (c : Nat) (p : PinSt) : (setPin s c p).ident = s.ident := rfl
@[simp] theorem setPin_clk (c : Nat) (p : PinSt) : (setPin s c p).clk = s.clk := rfl
@[simp] theorem setPin_evt (c : Nat) (p : PinSt) : (setPin s c p).evt = s.evt := rfl
@[simp] theorem setPin_cfg (c : Nat) (p : PinSt) : (setPin s c p).cfg = s.cfg := rfl
@[simp] theorem setPin_hif (c : Nat) (p : PinSt) : (setPin s c p).hif = s.hif := rfl
@[simp] theorem setPin_mbx (c : Nat) (p : PinSt) : (setPin s c p).mbx = s.mbx := rfl
@[simp] theorem setPin_ops (c : Nat) (p : PinSt) : (setPin s c p).ops = s.ops := rfl
@[simp] theorem setPin_opNext (c : Nat) (p : PinSt) : (setPin s c p).opNext = s.opNext := rfl
@[simp] theorem setPin_fw (c : Nat) (p : PinSt) : (setPin s c p).fw = s.fw := rfl
@[simp] theorem setPin_mem (c : Nat) (p : PinSt) : (setPin s c p).mem = s.mem := rfl
@[simp] theorem setPin_parts (c : Nat) (p : PinSt) : (setPin s c p).parts = s.parts := rfl
@[simp] theorem setPin_pages (c : Nat) (p : PinSt) : (setPin s c p).pages = s.pages := rfl
@[simp] theorem setPin_tables (c : Nat) (p : PinSt) : (setPin s c p).tables = s.tables := rfl
@[simp] theorem setPin_adapters (c : Nat) (p : PinSt) : (setPin s c p).adapters = s.adapters := rfl
@[simp] theorem setPin_bindings (c : Nat) (p : PinSt) : (setPin s c p).bindings = s.bindings := rfl
@[simp] theorem setPin_streams (c : Nat) (p : PinSt) : (setPin s c p).streams = s.streams := rfl
@[simp] theorem setPin_pod (c : Nat) (p : PinSt) : (setPin s c p).pod = s.pod := rfl
@[simp] theorem setPin_pwr (c : Nat) (p : PinSt) : (setPin s c p).pwr = s.pwr := rfl
@[simp] theorem setPin_bg (c : Nat) (p : PinSt) : (setPin s c p).bg = s.bg := rfl
@[simp] theorem setPin_mgmt (c : Nat) (p : PinSt) : (setPin s c p).mgmt = s.mgmt := rfl
@[simp] theorem setPin_jtag (c : Nat) (p : PinSt) : (setPin s c p).jtag = s.jtag := rfl
@[simp] theorem setPin_gal (c : Nat) (p : PinSt) : (setPin s c p).gal = s.gal := rfl
@[simp] theorem setPin_locks (c : Nat) (p : PinSt) : (setPin s c p).locks = s.locks := rfl
@[simp] theorem setPin_cores (c : Nat) (p : PinSt) : (setPin s c p).cores = s.cores := rfl
@[simp] theorem setPin_quo (c : Nat) (p : PinSt) : (setPin s c p).quo = s.quo := rfl
@[simp] theorem setPin_profiles (c : Nat) (p : PinSt) : (setPin s c p).profiles = s.profiles := rfl
@[simp] theorem setPin_grammars (c : Nat) (p : PinSt) : (setPin s c p).grammars = s.grammars := rfl
@[simp] theorem setPin_units (c : Nat) (p : PinSt) : (setPin s c p).units = s.units := rfl
@[simp] theorem setPin_unitWait (c : Nat) (p : PinSt) : (setPin s c p).unitWait = s.unitWait := rfl
@[simp] theorem setPin_rr (c : Nat) (p : PinSt) : (setPin s c p).rr = s.rr := rfl
@[simp] theorem setPin_stallRem (c : Nat) (p : PinSt) : (setPin s c p).stallRem = s.stallRem := rfl
@[simp] theorem setPin_freeCtr (c : Nat) (p : PinSt) : (setPin s c p).freeCtr = s.freeCtr := rfl

/-! ### amcAnswer -/

@[simp] theorem amcAnswer_pending (b : Bool) (c : Nat) (l : List Byte) : (amcAnswer s b c l).pending = s.pending := rfl
@[simp] theorem amcAnswer_ident (b : Bool) (c : Nat) (l : List Byte) : (amcAnswer s b c l).ident = s.ident := rfl
@[simp] theorem amcAnswer_clk (b : Bool) (c : Nat) (l : List Byte) : (amcAnswer s b c l).clk = s.clk := rfl
@[simp] theorem amcAnswer_evt (b : Bool) (c : Nat) (l : List Byte) : (amcAnswer s b c l).evt = s.evt := rfl
@[simp] theorem amcAnswer_cfg (b : Bool) (c : Nat) (l : List Byte) : (amcAnswer s b c l).cfg = s.cfg := rfl
@[simp] theorem amcAnswer_hif (b : Bool) (c : Nat) (l : List Byte) : (amcAnswer s b c l).hif = s.hif := rfl
@[simp] theorem amcAnswer_mbx (b : Bool) (c : Nat) (l : List Byte) : (amcAnswer s b c l).mbx = s.mbx := rfl
@[simp] theorem amcAnswer_ops (b : Bool) (c : Nat) (l : List Byte) : (amcAnswer s b c l).ops = s.ops := rfl
@[simp] theorem amcAnswer_opNext (b : Bool) (c : Nat) (l : List Byte) : (amcAnswer s b c l).opNext = s.opNext := rfl
@[simp] theorem amcAnswer_fw (b : Bool) (c : Nat) (l : List Byte) : (amcAnswer s b c l).fw = s.fw := rfl
@[simp] theorem amcAnswer_mem (b : Bool) (c : Nat) (l : List Byte) : (amcAnswer s b c l).mem = s.mem := rfl
@[simp] theorem amcAnswer_parts (b : Bool) (c : Nat) (l : List Byte) : (amcAnswer s b c l).parts = s.parts := rfl
@[simp] theorem amcAnswer_pages (b : Bool) (c : Nat) (l : List Byte) : (amcAnswer s b c l).pages = s.pages := rfl
@[simp] theorem amcAnswer_tables (b : Bool) (c : Nat) (l : List Byte) : (amcAnswer s b c l).tables = s.tables := rfl
@[simp] theorem amcAnswer_adapters (b : Bool) (c : Nat) (l : List Byte) : (amcAnswer s b c l).adapters = s.adapters := rfl
@[simp] theorem amcAnswer_bindings (b : Bool) (c : Nat) (l : List Byte) : (amcAnswer s b c l).bindings = s.bindings := rfl
@[simp] theorem amcAnswer_streams (b : Bool) (c : Nat) (l : List Byte) : (amcAnswer s b c l).streams = s.streams := rfl
@[simp] theorem amcAnswer_pod (b : Bool) (c : Nat) (l : List Byte) : (amcAnswer s b c l).pod = s.pod := rfl
@[simp] theorem amcAnswer_pwr (b : Bool) (c : Nat) (l : List Byte) : (amcAnswer s b c l).pwr = s.pwr := rfl
@[simp] theorem amcAnswer_pins (b : Bool) (c : Nat) (l : List Byte) : (amcAnswer s b c l).pins = s.pins := rfl
@[simp] theorem amcAnswer_bg (b : Bool) (c : Nat) (l : List Byte) : (amcAnswer s b c l).bg = s.bg := rfl
@[simp] theorem amcAnswer_jtag (b : Bool) (c : Nat) (l : List Byte) : (amcAnswer s b c l).jtag = s.jtag := rfl
@[simp] theorem amcAnswer_gal (b : Bool) (c : Nat) (l : List Byte) : (amcAnswer s b c l).gal = s.gal := rfl
@[simp] theorem amcAnswer_locks (b : Bool) (c : Nat) (l : List Byte) : (amcAnswer s b c l).locks = s.locks := rfl
@[simp] theorem amcAnswer_cores (b : Bool) (c : Nat) (l : List Byte) : (amcAnswer s b c l).cores = s.cores := rfl
@[simp] theorem amcAnswer_quo (b : Bool) (c : Nat) (l : List Byte) : (amcAnswer s b c l).quo = s.quo := rfl
@[simp] theorem amcAnswer_profiles (b : Bool) (c : Nat) (l : List Byte) : (amcAnswer s b c l).profiles = s.profiles := rfl
@[simp] theorem amcAnswer_grammars (b : Bool) (c : Nat) (l : List Byte) : (amcAnswer s b c l).grammars = s.grammars := rfl
@[simp] theorem amcAnswer_units (b : Bool) (c : Nat) (l : List Byte) : (amcAnswer s b c l).units = s.units := rfl
@[simp] theorem amcAnswer_unitWait (b : Bool) (c : Nat) (l : List Byte) : (amcAnswer s b c l).unitWait = s.unitWait := rfl
@[simp] theorem amcAnswer_rr (b : Bool) (c : Nat) (l : List Byte) : (amcAnswer s b c l).rr = s.rr := rfl
@[simp] theorem amcAnswer_stallRem (b : Bool) (c : Nat) (l : List Byte) : (amcAnswer s b c l).stallRem = s.stallRem := rfl
@[simp] theorem amcAnswer_freeCtr (b : Bool) (c : Nat) (l : List Byte) : (amcAnswer s b c l).freeCtr = s.freeCtr := rfl

/-! ### Views after an update -/

@[simp] theorem stream_setStream_self (i : Nat) (x : Stream) : stream (setStream s i x) i = x := by
  simp [stream, setStream]

theorem stream_setStream_ne {i j : Nat} (x : Stream) (h : j ≠ i) : stream (setStream s i x) j = stream s j := by
  simp [stream, setStream, lkD_put_ne _ _ _ h]

@[simp] theorem mbxOf_setMbx_self (f : Nat) (x : Mbx) : mbxOf (setMbx s f x) f = x := by simp [mbxOf, setMbx]

theorem mbxOf_setMbx_ne {f g : Nat} (x : Mbx) (h : g ≠ f) : mbxOf (setMbx s f x) g = mbxOf s g := by
  simp [mbxOf, setMbx, lkD_put_ne _ _ _ h]

@[simp] theorem part_setPart_self (p : Nat) (x : Part) : part (setPart s p x) p = x := by simp [part, setPart]

theorem part_setPart_ne {p q : Nat} (x : Part) (h : q ≠ p) : part (setPart s p x) q = part s q := by
  simp [part, setPart, lkD_put_ne _ _ _ h]

@[simp] theorem pageUse_setPage_self (p : Nat) (u : PageUse) : pageUse (setPage s p u) p = u := by
  simp [pageUse, setPage]

theorem pageUse_setPage_ne {p q : Nat} (u : PageUse) (h : q ≠ p) : pageUse (setPage s p u) q = pageUse s q := by
  simp only [pageUse, setPage]
  exact lkD_put_ne _ _ _ h

@[simp] theorem snapOf_setSnap_self (f : Nat) (x : Snap) : snapOf (setSnap s f x) f = x := by simp [snapOf, setSnap]

@[simp] theorem lockOf_setLock_self (j : Nat) (x : LockSt) : lockOf (setLock s j x) j = x := by simp [lockOf, setLock]

theorem lockOf_setLock_ne {j k : Nat} (x : LockSt) (h : k ≠ j) : lockOf (setLock s j x) k = lockOf s k := by
  simp [lockOf, setLock, lkD_setD_ne _ _ _ _ h]

@[simp] theorem staged_setStaged_self (k : Nat) (v : W32) : staged (setStaged s k v) k = v := by
  simp [staged, setStaged]

theorem staged_setStaged_ne {k j : Nat} (v : W32) (h : j ≠ k) : staged (setStaged s k v) j = staged s j := by
  simp [staged, setStaged, lkD_setD_ne _ _ _ _ h]

@[simp] theorem committed_setCommitted_self (k : Nat) (v : W32) : committed (setCommitted s k v) k = v := by
  simp [committed, setCommitted]

theorem committed_setCommitted_ne {k j : Nat} (v : W32) (h : j ≠ k) :
    committed (setCommitted s k v) j = committed s j := by simp [committed, setCommitted, lkD_setD_ne _ _ _ _ h]

@[simp] theorem effective_setEffective_self (k : Nat) (v : W32) : effective (setEffective s k v) k = v := by
  simp [effective, setEffective]

theorem effective_setEffective_ne {k j : Nat} (v : W32) (h : j ≠ k) :
    effective (setEffective s k v) j = effective s j := by simp [effective, setEffective, lkD_setD_ne _ _ _ _ h]

@[simp] theorem cnt_cntAdd_self (k n : Nat) : cnt (cntAdd s k n) k = cnt s k + n := by simp [cnt, cntAdd]

theorem cnt_cntAdd_ne {k j : Nat} (n : Nat) (h : j ≠ k) : cnt (cntAdd s k n) j = cnt s j := by
  simp [cnt, cntAdd, lkD_updD_ne _ _ _ h]

@[simp] theorem dom_setDom_self (d v : Nat) : dom (setDom s d v) d = v := by simp [dom, setDom]

theorem dom_setDom_ne {d e : Nat} (v : Nat) (h : e ≠ d) : dom (setDom s d v) e = dom s e := by
  simp [dom, setDom, lkD_setD_ne _ _ _ _ h]


end Sys2Proof.Machine
end

