-- ==== Sys2Proof/Laws/Mailbox.lean ====
section
/-! SUPPORT. What a mailbox row comes to: an answer, a failed check, a started operation, or one operation carried on. -/

set_option Elab.async false
set_option linter.unusedSimpArgs false
set_option linter.unusedTactic false
set_option linter.unreachableTactic false
set_option linter.unusedVariables false

namespace Sys2Proof.Machine

theorem replied_answer {s : State} {f : Nat} {r : MbxReq} (st d id : Nat) (res : List Byte) (h : (mbxOf s f).latched = some r) :
    Replied s (answer s f st d id res) f st d id res := by
  refine ⟨r, _, h, rfl, ?_, ?_, ?_⟩
  · simp only [answer, h, mbxOf_setMbx_self, response]
  · intro g hg; simp only [answer, h, mbxOf_setMbx_ne _ _ hg]
  · simp only [answer, h, setMbx]

theorem curReq_latched {s : State} {f : Nat} {r : MbxReq} (h : (mbxOf s f).latched = some r) : curReq s f = some r := by
  simp [curReq, h]

theorem run_asks {s : State} {f op : Nat} {r : MbxReq} (h : Asks s f op r) (sel other body go) (hs : sel (reqBytes r) = true) :
    runCmd s f op sel other body go = runReq s f r body go := by
  obtain ⟨h1, h2, h3, h4, h5⟩ := h
  simp [runCmd, h1, curReq_latched h2, h3, hs, h4, h5]

theorem run_refused {s : State} {f op st d : Nat} {r : MbxReq} (h : Asks s f op r) (sel other body go) (hs : sel (reqBytes r) = true)
    (hc : sharedCheck s f r = some (st, d)) : runCmd s f op sel other body go = answer s f st d 0 [] := by
  rw [run_asks h _ _ _ _ hs]; simp [runReq, hc]

theorem run_ok {s : State} {f op : Nat} {b : List Byte} (h : Ready s f op b) {sel other body go} (hs : sel b = true)
    {res : List Byte} {u : State} {fw : Bool} (hb : body s f b = .ok res u fw) :
    runCmd s f op sel other body go = answer (if fw then fwCommit u else u) f 0 0 0 res := by
  obtain ⟨r, h1, h2, rfl, h9⟩ := h
  rw [run_asks h1 _ _ _ _ hs]; simp [runReq, h2, hb]

theorem run_fail {s : State} {f op : Nat} {b : List Byte} (h : Ready s f op b) {sel other body go} (hs : sel b = true)
    {st d : Nat} (hb : body s f b = .fail st d) :
    runCmd s f op sel other body go = answer s f st d 0 [] := by
  obtain ⟨r, h1, h2, rfl, h9⟩ := h
  rw [run_asks h1 _ _ _ _ hs]; simp [runReq, h2, hb]

theorem run_held {s : State} {f op : Nat} {b : List Byte} (h : Ready s f op b) {sel other body go} (hs : sel b = true)
    {o : Op} (hb : body s f b = .held o) :
    runCmd s f op sel other body go = answer s f 0x19 1 (holderWord f o) [] := by
  obtain ⟨r, h1, h2, rfl, h9⟩ := h
  rw [run_asks h1 _ _ _ _ hs]; simp [runReq, h2, hb]

theorem ready_latched {s : State} {f op : Nat} {b : List Byte} (h : Ready s f op b) : ∃ r, (mbxOf s f).latched = some r := by
  obtain ⟨r, h1, _⟩ := h; exact ⟨r, h1.2.1⟩

/-- An ok answer where the effect leaves the function's mailbox latched. -/
theorem ok_replied {s : State} {f op : Nat} {b : List Byte} (h : Ready s f op b) {sel other body go} (hs : sel b = true)
    {res : List Byte} {u : State} {fw : Bool} (hb : body s f b = .ok res u fw)
    (hm : (mbxOf u f).latched = (mbxOf s f).latched) {o : Host.Outcome State Fault Refusal}
    (ho : o = .next (runCmd s f op sel other body go)) :
    ∃ t, o = .next t ∧ Replied (if fw then fwCommit u else u) t f 0 0 0 res := by
  obtain ⟨r, hr⟩ := ready_latched h
  refine ⟨_, ho, ?_⟩
  rw [run_ok h hs hb]
  refine replied_answer (r := r) _ _ _ _ ?_
  cases fw
  · exact hm.trans hr
  · exact hm.trans hr

theorem fail_replied {s : State} {f op : Nat} {b : List Byte} (h : Ready s f op b) {sel other body go} (hs : sel b = true)
    {st d : Nat} (hb : body s f b = .fail st d) {o : Host.Outcome State Fault Refusal}
    (ho : o = .next (runCmd s f op sel other body go)) :
    ∃ t, o = .next t ∧ Replied s t f st d 0 [] := by
  obtain ⟨r, hr⟩ := ready_latched h
  refine ⟨_, ho, ?_⟩
  rw [run_fail h hs hb]
  exact replied_answer _ _ _ _ hr

theorem not_mem_freeId (held : List Nat) (H : (held.filter (· ≠ 0)).length ≤ 16) (i : Nat) (hi : 1 ≤ i ∧ i ≤ 65535) :
    freeId held 17 i ∉ held ∧ freeId held 17 i ≠ 0 := by
  let c : Nat → Nat := fun k => (i - 1 + k) % 65535 + 1
  have key : ∀ n j, (∀ m, m ≤ n → c (j + m) ∈ held) ∨ (∃ m, m ≤ n ∧ freeId held n (c j) = c (j + m) ∧ (m < n → c (j+m) ∉ held)) := by
    intro n
    induction n with
    | zero => intro j; exact .inr ⟨0, Nat.le_refl _, rfl, by simp⟩
    | succ n ih =>
      intro j
      by_cases hc : c j ∈ held
      · have hn : c j % 65535 + 1 = c (j + 1) := by
          simp only [c]; omega
        rcases ih (j + 1) with h | ⟨m, h1, h2, h3⟩
        · refine .inl fun m hm => ?_
          rcases m with _ | m
          · exact hc
          · have := h m (by omega); rwa [show j + (m + 1) = j + 1 + m by omega]
        · refine .inr ⟨m + 1, by omega, ?_, ?_⟩
          · rw [freeId, if_pos (by simpa using hc), hn, h2, show j + (m + 1) = j + 1 + m by omega]
          · intro hm; rw [show j + (m + 1) = j + 1 + m by omega]; exact h3 (by omega)
      · refine .inr ⟨0, by omega, ?_, fun _ => hc⟩
        rw [freeId, if_neg (by simpa using hc)]; rfl
  have c0 : c 0 = i := by simp only [c]; omega
  have big : ¬ ∀ m, m ≤ 16 → c (0 + m) ∈ held := by
    intro h
    have hn : ((List.range 17).map c).Nodup := by
      refine List.Nodup.map_on ?_ (List.nodup_range)
      intro a ha b hb hab
      simp only [List.mem_range] at ha hb
      simp only [c] at hab; omega
    have hsub : (List.range 17).map c ⊆ held.filter (· ≠ 0) := by
      intro x hx
      obtain ⟨k, hk, rfl⟩ := List.mem_map.1 hx
      simp only [List.mem_range] at hk
      refine List.mem_filter.2 ⟨?_, by simp [c]⟩
      have := h k (by omega); simpa using this
    have := (List.subperm_of_subset hn hsub).length_le
    simp at this H; omega
  rcases key 17 0 with h | ⟨m, h1, h2, h3⟩
  · exact absurd (fun m hm => h m (by omega)) big
  · rw [c0] at h2; rw [h2]
    refine ⟨?_, by simp [c]⟩
    by_cases hm : m < 17
    · exact h3 hm
    · -- m = 17: all earlier ones are held, a contradiction
      exfalso
      have : ∀ n j, freeId held n (c j) = c (j + n) → (∀ k, k < n → c (j + k) ∈ held) ∨ ∃ k, k < n ∧ c (j + k) = c (j + n) := by
        intro n
        induction n with
        | zero => intro j _; exact .inl (by simp)
        | succ n ih =>
          intro j hj
          by_cases hc : c j ∈ held
          · have hn : c j % 65535 + 1 = c (j + 1) := by simp only [c]; omega
            rw [freeId, if_pos (by simpa using hc), hn, show j + (n + 1) = j + 1 + n by omega] at hj
            rcases ih (j + 1) hj with h | ⟨k, hk, he⟩
            · refine .inl fun k hk => ?_
              rcases k with _ | k
              · exact hc
              · have := h k (by omega); rwa [show j + (k + 1) = j + 1 + k by omega]
            · exact .inr ⟨k + 1, by omega, by rw [show j + (k+1) = j + 1 + k by omega, he, show j + (n+1) = j + 1 + n by omega]⟩
          · rw [freeId, if_neg (by simpa using hc)] at hj
            exact .inr ⟨0, by omega, hj⟩
      have hm' : m = 17 := by omega
      subst hm'
      rw [← c0] at h2
      rcases this 17 0 h2 with h | ⟨k, hk, he⟩
      · exact big fun m hm => h m (by omega)
      · simp only [c] at he; omega

theorem started_mk {s : State} {f op total : Nat} {b : List Byte} {acc : List Nat} {res : List Byte} {r : MbxReq}
    (hr : (mbxOf s f).latched = some r) (ho : opsHeld s f < 16) :
    Started s (answer (beginOp s f op total b acc false).2 f 1 0 (beginOp s f op total b acc false).1.id res) f op total b acc res
      (beginOp s f op total b acc false).1 := by
  have H : (((s.ops.filter (fun o => o.fn == f)).map (·.id)).filter (· ≠ 0)).length ≤ 16 := by
    rw [List.filter_map, List.length_map, List.filter_filter]
    have : (s.ops.filter (fun a => (decide ¬ a.id = 0) && (a.fn == f))).length = opsHeld s f := by
      unfold opsHeld; congr 2; funext a; by_cases h1 : a.id = 0 <;> simp [h1]
    simp only [Function.comp_def, ne_eq]
    omega
  have F := not_mem_freeId _ H ((Config.freeW32 s.freeCtr).toNat % 65535 + 1) (by omega)
  refine ⟨rfl, rfl, rfl, rfl, rfl, rfl, rfl, rfl, rfl, ?_, ?_, (beginOp s f op total b acc false).2, rfl, rfl, ?_⟩
  · exact F.2
  · intro x hx hf he
    refine F.1 ?_
    show _ ∈ _
    have : (beginOp s f op total b acc false).1.id = freeId ((s.ops.filter (fun o => o.fn == f)).map (·.id)) 17 ((Config.freeW32 s.freeCtr).toNat % 65535 + 1) := rfl
    rw [← this, ← he]
    exact List.mem_map.2 ⟨x, List.mem_filter.2 ⟨hx, by simpa using hf⟩, rfl⟩
  · exact replied_answer (r := r) _ _ _ _ hr

theorem run_startRes {s : State} {f op : Nat} {b : List Byte} (h : Ready s f op b) {sel other body go} (hs : sel b = true)
    {total : Nat} {acc : List Nat} {res : List Byte} {s' : State}
    (hb : body s f b = .startRes total acc res s' ∨ res = [] ∧ body s f b = .start total acc s')
    (hm : (mbxOf s' f).latched = (mbxOf s f).latched) (h16 : opsHeld s f < 16) (h16' : opsHeld s' f < 16) :
    ∃ o u, Started s' u f (reqOp b) total b acc res o ∧ runCmd s f op sel other body go = go u o := by
  obtain ⟨r, hr⟩ := ready_latched h
  have hr' := hm.trans hr
  refine ⟨_, _, started_mk hr' h16', ?_⟩
  obtain ⟨r', h1, h2, rfl, h9⟩ := h
  rw [run_asks h1 _ _ _ _ hs]
  rcases hb with hb | ⟨rfl, hb⟩ <;>
  · simp only [runReq, h2, hb, startOp]
    rw [if_neg (by omega)]
    have : (mbxOf s' f).latched.isNone = false := by rw [hr']; rfl
    rw [this]

theorem ready_op {s : State} {f op : Nat} {b : List Byte} (h : Ready s f op b) : reqOp b = op := by
  obtain ⟨r, _, _, _, h⟩ := h; exact h

theorem works_run {s : State} {f op : Nat} {o : Op} (h : Works s f op o) {sel other body go} (hs : sel o.req = true) :
    runCmd s f op sel other body go = go s o := by
  obtain ⟨h1, h2, h3, h4, h5, h6, h7, h8⟩ := h
  have hc : curReq s f = none := by simp [curReq, h2, h3]
  have hf : s.ops.filter (fun x => x.fn == f && x.opcode == op && x.st == .running && sel x.req) = [o] := by
    have : s.ops.filter (fun x => x.fn == f && x.opcode == op && x.st == .running && sel x.req) =
      (s.ops.filter (fun x => x.fn == f && x.opcode == op && x.st == .running)).filter (fun x => sel x.req) := by
      rw [List.filter_filter]; congr 1; funext x; simp [Bool.and_comm]
    rw [this, h8]; simp [hs]
  simp [runCmd, h1, hc, goOps, hf, h4, h7]

/-- The checks of a command, one by one. -/
theorem checked_nil (k : MOut) : checked [] k = k := rfl

theorem checked_cons (a : Bool) (st d : Nat) (l : List (Bool × Nat × Nat)) (k : MOut) :
    checked ((a, st, d) :: l) k = if a = true then .fail st d else checked l k := by
  cases a <;> simp [checked, firstBad]

theorem checked_ok {x : Bool × Nat × Nat} (h : x.1 = false) (l : List (Bool × Nat × Nat)) (k : MOut) :
    checked (x :: l) k = checked l k := by simp [checked, firstBad, h]

theorem checked_bad {x : Bool × Nat × Nat} (h : x.1 = true) (l : List (Bool × Nat × Nat)) (k : MOut) :
    checked (x :: l) k = .fail x.2.1 x.2.2 := by simp [checked, firstBad, h]

theorem rangeBad_ok {l : List (Nat × Bool)} (h : firstFail l = none) : (rangeBad l).1 = false := by simp [rangeBad, h]

theorem releasePages_frame (s : State) (p : Nat) (l : List Nat) : releasePages s p l = { s with pages := (releasePages s p l).pages } := by
  unfold releasePages
  induction l generalizing s with
  | nil => rfl
  | cons a l ih => rw [List.foldl_cons, ih]; rfl

theorem opLeft_mbx (s : State) (o : Op) : (opLeft s o).mbx = s.mbx := by
  unfold opLeft
  split
  · unfold loadLeft; split <;> rfl
  · split
    · rw [releasePages_frame]
    · split
      · unfold imgDrop
        split
        · rfl
        · dsimp only
          rw [releasePages_frame]
          split <;> simp [setImgs] <;> split <;> rfl
      · rfl

theorem takePages_frame {s v : State} {u : Nat → PageUse} {n : Nat} {l : List Nat} (h : takePages s u n = some (l, v)) :
    v = { s with pages := v.pages } := by
  induction n generalizing l v with
  | zero => simp only [takePages, Option.some.injEq, Prod.mk.injEq] at h; rw [← h.2]
  | succ n ih =>
    simp only [takePages] at h
    split at h
    · exact absurd h (by simp)
    · rename_i l' w hw
      split at h
      · exact absurd h (by simp)
      · simp only [Option.some.injEq, Prod.mk.injEq] at h
        rw [← h.2, ih hw]; rfl

theorem growWindow_frame {s v : State} {p n k : Nat} (h : growWindow s p n k = some v) : v = { s with pages := v.pages } := by
  simp only [growWindow, Option.map_eq_some_iff] at h
  obtain ⟨⟨l, w⟩, h1, rfl⟩ := h
  exact takePages_frame h1

theorem opOf_setOp {s : State} {o x : Op} (h : opOf s o.key = some x) : opOf (setOp s o) o.key = some o := by
  simp only [opOf, setOp] at h ⊢
  revert h
  generalize s.ops = l
  induction l with
  | nil => intro h; simp at h
  | cons a l ih =>
    intro h
    rw [List.find?_cons] at h
    rw [List.map_cons, List.find?_cons]
    by_cases e : (a.key == o.key) = true
    · simp [e]
    · simp only [Bool.not_eq_true] at e
      simp only [e] at h ⊢
      simpa [e] using ih h

/-- The end of an operation with a record: its final state stands there. -/
theorem opOf_finishOp {s : State} {o x : Op} (h : opOf s o.key = some x) (hid : o.id ≠ 0) (st : OpSt) (ms d : Nat) :
    opOf (finishOp s o st ms d) o.key = some { o with
      st := st, finalMs := ms, finalDetail := d, land := [], asked := [], ex := [] } := by
  simp only [finishOp, if_neg hid]
  exact opOf_setOp (o := { o with st := st, finalMs := ms, finalDetail := d, land := [], asked := [], ex := [] }) h

/-- The end of an operation changes operation records alone. -/
theorem finishOp_frame (s : State) (o : Op) (st : OpSt) (ms d : Nat) :
    finishOp s o st ms d = { s with ops := (finishOp s o st ms d).ops } := by
  unfold finishOp; dsimp only; split <;> rfl

/-- A command that starts an operation and lets it work. -/
theorem start_run {s : State} {f op : Nat} {b : List Byte} (h : Ready s f op b) {sel other body go} (hs : sel b = true)
    {total : Nat} {acc : List Nat} {s' : State} (hb : body s f b = .start total acc s')
    (hm : (mbxOf s' f).latched = (mbxOf s f).latched) (h16 : opsHeld s f < 16) (h16' : opsHeld s' f < 16)
    {o : Host.Outcome State Fault Refusal} (ho : o = .next (runCmd s f op sel other body go)) :
    ∃ t x u, o = .next t ∧ t = go u x ∧ Started s' u f op total b acc [] x := by
  obtain ⟨x, u, h1, h2⟩ := run_startRes h hs (.inr ⟨rfl, hb⟩) hm h16 h16' (other := other) (go := go)
  rw [ready_op h] at h1
  exact ⟨_, x, u, ho, h2, h1⟩

end Sys2Proof.Machine
end

