-- ==== Sys2Proof/Laws/MemFrame.lean ====
section
/-! SUPPORT. What the reads and writes of device memory leave alone: tables, page uses, streams, images, bindings, power
and the firmware. -/

set_option Elab.async false
set_option linter.unusedSimpArgs false
set_option linter.unusedTactic false
set_option linter.unreachableTactic false
set_option linter.unusedVariables false

namespace Sys2Proof.Machine

structure Tabd where
  tables : Tab Table
  pages : Tab PageUse
  streams : Tab Stream
  fw : Fw
  adapters : Tab Adapter
  bindings : Tab Nat
  profiles : Tab TextImg
  grammars : Tab TextImg
  pwr : Pwr
  clk : Clk
  hif : Hif

def tabd (s : State) : Tabd := ⟨s.tables, s.pages, s.streams, s.fw, s.adapters, s.bindings, s.profiles, s.grammars, s.pwr, s.clk, s.hif⟩

theorem tabd_mk pending ident clk evt cfg hif mbx ops opNext fw mem parts pages tables adapters bindings streams pod pwr pins bg mgmt jtag gal locks cores quo profiles grammars units unitWait rr stallRem freeCtr : tabd (State.mk pending ident clk evt cfg hif mbx ops opNext fw mem parts pages tables adapters bindings streams pod pwr pins bg mgmt jtag gal locks cores quo profiles grammars units unitWait rr stallRem freeCtr) = ⟨tables, pages, streams, fw, adapters, bindings, profiles, grammars, pwr, clk, hif⟩ := rfl

theorem tabd_eta (s : State) : (⟨s.tables, s.pages, s.streams, s.fw, s.adapters, s.bindings, s.profiles, s.grammars, s.pwr, s.clk, s.hif⟩ : Tabd) = tabd s := rfl

theorem tabd_ite {c : Prop} [Decidable c] (a b : State) : tabd (if c then a else b) = if c then tabd a else tabd b := by split <;> rfl

theorem tabd_foldl {α : Type} (f : State → α → State) (hf : ∀ s x, tabd (f s x) = tabd s) (l : List α) (s : State) : tabd (l.foldl f s) = tabd s := by
  induction l generalizing s with
  | nil => rfl
  | cons x l ih => rw [List.foldl_cons, ih, hf]

theorem tabd_foldl2 {α β : Type} (f : β × State → α → β × State) (hf : ∀ p x, tabd (f p x).2 = tabd p.2) (l : List α) (p : β × State) : tabd (l.foldl f p).2 = tabd p.2 := by
  induction l generalizing p with
  | nil => rfl
  | cons x l ih => rw [List.foldl_cons, ih, hf]

theorem tabd_cntAdd (s : State) (k n : Nat) : tabd (cntAdd s k n) = tabd s := by
  unfold cntAdd
  repeat' first
    | rfl
    | (simp only [↓tabd_mk, tabd_eta, tabd_ite, ite_self]; done)
    | simp only [↓tabd_mk, tabd_eta, tabd_ite, ite_self]
    | (refine (tabd_foldl _ (fun _ _ => ?_) _ _).trans ?_)
    | (refine (tabd_foldl2 _ (fun _ _ => ?_) _ _).trans ?_)
    | split

theorem tabd_postOne (s : State) (log : Nat) (r : EvRec) : tabd (postOne s log r) = tabd s := by
  unfold postOne
  repeat' first
    | rfl
    | (simp only [↓tabd_mk, tabd_eta, tabd_ite, ite_self]; done)
    | simp only [↓tabd_mk, tabd_eta, tabd_ite, ite_self]
    | (refine (tabd_foldl _ (fun _ _ => ?_) _ _).trans ?_)
    | (refine (tabd_foldl2 _ (fun _ _ => ?_) _ _).trans ?_)
    | split

theorem tabd_postG (s : State) (type sev p0 p1 p2 p3 : Nat) : tabd (postG s type sev p0 p1 p2 p3) = tabd s := by
  unfold postG
  repeat' first
    | rfl
    | (simp only [↓tabd_mk, tabd_eta, tabd_ite, ite_self, tabd_postOne]; done)
    | simp only [↓tabd_mk, tabd_eta, tabd_ite, ite_self, tabd_postOne]
    | (refine (tabd_foldl _ (fun _ _ => ?_) _ _).trans ?_)
    | (refine (tabd_foldl2 _ (fun _ _ => ?_) _ _).trans ?_)
    | split

theorem tabd_postP (s : State) (part type sev p0 p1 p2 p3 : Nat) : tabd (postP s part type sev p0 p1 p2 p3) = tabd s := by
  unfold postP
  repeat' first
    | rfl
    | (simp only [↓tabd_mk, tabd_eta, tabd_ite, ite_self, tabd_postOne]; done)
    | simp only [↓tabd_mk, tabd_eta, tabd_ite, ite_self, tabd_postOne]
    | (refine (tabd_foldl _ (fun _ _ => ?_) _ _).trans ?_)
    | (refine (tabd_foldl2 _ (fun _ _ => ?_) _ _).trans ?_)
    | split

theorem tabd_setCell (s : State) (k : Nat) (b : Byte) : tabd (setCell s k b) = tabd s := by
  unfold setCell
  repeat' first
    | rfl
    | (simp only [↓tabd_mk, tabd_eta, tabd_ite, ite_self]; done)
    | simp only [↓tabd_mk, tabd_eta, tabd_ite, ite_self]
    | (refine (tabd_foldl _ (fun _ _ => ?_) _ _).trans ?_)
    | (refine (tabd_foldl2 _ (fun _ _ => ?_) _ _).trans ?_)
    | split

theorem tabd_setCells : ∀ (l : List Byte) (s : State) (k : Nat), tabd (setCells s k l) = tabd s := by
  intro l; induction l with
  | nil => intro s k; rfl
  | cons b l ih => intro s k; rw [setCells, ih]; rfl

theorem tabd_setPoison (s : State) (b : BRef) (v : Bool) : tabd (setPoison s b v) = tabd s := by
  unfold setPoison
  repeat' first
    | rfl
    | (simp only [↓tabd_mk, tabd_eta, tabd_ite, ite_self, tabd_setCell]; done)
    | simp only [↓tabd_mk, tabd_eta, tabd_ite, ite_self, tabd_setCell]
    | (refine (tabd_foldl _ (fun _ _ => ?_) _ _).trans ?_)
    | (refine (tabd_foldl2 _ (fun _ _ => ?_) _ _).trans ?_)
    | split

theorem tabd_burstStore (s : State) (b : BRef) (data : List Byte) (poison : Bool) : tabd (burstStore s b data poison) = tabd s := by
  unfold burstStore
  repeat' first
    | rfl
    | (simp only [↓tabd_mk, tabd_eta, tabd_ite, ite_self, tabd_setPoison, tabd_setCells]; done)
    | simp only [↓tabd_mk, tabd_eta, tabd_ite, ite_self, tabd_setPoison, tabd_setCells]
    | (refine (tabd_foldl _ (fun _ _ => ?_) _ _).trans ?_)
    | (refine (tabd_foldl2 _ (fun _ _ => ?_) _ _).trans ?_)
    | split

theorem tabd_noteCorrected (s : State) (b : BRef) (pa : Nat) : tabd (noteCorrected s b pa) = tabd s := by
  unfold noteCorrected
  repeat' first
    | rfl
    | (simp only [↓tabd_mk, tabd_eta, tabd_ite, ite_self, tabd_cntAdd]; done)
    | simp only [↓tabd_mk, tabd_eta, tabd_ite, ite_self, tabd_cntAdd]
    | (refine (tabd_foldl _ (fun _ _ => ?_) _ _).trans ?_)
    | (refine (tabd_foldl2 _ (fun _ _ => ?_) _ _).trans ?_)
    | split

theorem tabd_noteUncorrectable (s : State) (c j pa : Nat) (src : RdSrc) : tabd (noteUncorrectable s c j pa src) = tabd s := by
  unfold noteUncorrectable
  repeat' first
    | rfl
    | (simp only [↓tabd_mk, tabd_eta, tabd_ite, ite_self, tabd_postG, tabd_cntAdd]; done)
    | simp only [↓tabd_mk, tabd_eta, tabd_ite, ite_self, tabd_postG, tabd_cntAdd]
    | (refine (tabd_foldl _ (fun _ _ => ?_) _ _).trans ?_)
    | (refine (tabd_foldl2 _ (fun _ _ => ?_) _ _).trans ?_)
    | split

theorem tabd_noteBurst (s : State) (p i j : Nat) (src : RdSrc) : tabd (noteBurst s p i j src) = tabd s := by
  unfold noteBurst
  repeat' first
    | rfl
    | (simp only [↓tabd_mk, tabd_eta, tabd_ite, ite_self, tabd_noteCorrected, tabd_noteUncorrectable, tabd_cntAdd]; done)
    | simp only [↓tabd_mk, tabd_eta, tabd_ite, ite_self, tabd_noteCorrected, tabd_noteUncorrectable, tabd_cntAdd]
    | (refine (tabd_foldl _ (fun _ _ => ?_) _ _).trans ?_)
    | (refine (tabd_foldl2 _ (fun _ _ => ?_) _ _).trans ?_)
    | split

theorem tabd_setWcb (s : State) (c : Nat) (l : List Wcb) : tabd (setWcb s c l) = tabd s := by
  unfold setWcb
  repeat' first
    | rfl
    | (simp only [↓tabd_mk, tabd_eta, tabd_ite, ite_self]; done)
    | simp only [↓tabd_mk, tabd_eta, tabd_ite, ite_self]
    | (refine (tabd_foldl _ (fun _ _ => ?_) _ _).trans ?_)
    | (refine (tabd_foldl2 _ (fun _ _ => ?_) _ _).trans ?_)
    | split

theorem tabd_wcbMerge (s : State) (c : Nat) (w : Wcb) : tabd (wcbMerge s c w) = tabd s := by
  unfold wcbMerge
  repeat' first
    | (simp only [↓tabd_mk, tabd_eta, tabd_ite, ite_self, tabd_burstStore, tabd_noteCorrected, tabd_noteUncorrectable, tabd_cntAdd, tabd_setWcb]; done)
    | simp only [↓tabd_mk, tabd_eta, tabd_ite, ite_self, tabd_burstStore, tabd_noteCorrected, tabd_noteUncorrectable, tabd_cntAdd, tabd_setWcb]
    | (refine (tabd_foldl _ (fun _ _ => ?_) _ _).trans ?_)
    | (refine (tabd_foldl2 _ (fun _ _ => ?_) _ _).trans ?_)
    | split
    | rfl

theorem tabd_burstWrite (s : State) (b : BRef) (pa : Nat) (v : Tab Byte) (poison : Bool) : tabd (burstWrite s b pa v poison) = tabd s := by
  unfold burstWrite
  repeat' first
    | rfl
    | (simp only [↓tabd_mk, tabd_eta, tabd_ite, ite_self, tabd_burstStore, tabd_wcbMerge, tabd_setWcb]; done)
    | simp only [↓tabd_mk, tabd_eta, tabd_ite, ite_self, tabd_burstStore, tabd_wcbMerge, tabd_setWcb]
    | (refine (tabd_foldl _ (fun _ _ => ?_) _ _).trans ?_)
    | (refine (tabd_foldl2 _ (fun _ _ => ?_) _ _).trans ?_)
    | split

theorem tabd_pageBurstWrite (s : State) (p i j : Nat) (v : Tab Byte) (poison : Bool) : tabd (pageBurstWrite s p i j v poison) = tabd s := by
  unfold pageBurstWrite
  repeat' first
    | rfl
    | (simp only [↓tabd_mk, tabd_eta, tabd_ite, ite_self, tabd_burstWrite, tabd_cntAdd]; done)
    | simp only [↓tabd_mk, tabd_eta, tabd_ite, ite_self, tabd_burstWrite, tabd_cntAdd]
    | (refine (tabd_foldl _ (fun _ _ => ?_) _ _).trans ?_)
    | (refine (tabd_foldl2 _ (fun _ _ => ?_) _ _).trans ?_)
    | split

theorem tabd_noteRead (s : State) (pa n : Nat) (src : RdSrc) : tabd (noteRead s pa n src) = tabd s := by
  unfold noteRead
  repeat' first
    | rfl
    | (simp only [↓tabd_mk, tabd_eta, tabd_ite, ite_self, tabd_noteBurst]; done)
    | simp only [↓tabd_mk, tabd_eta, tabd_ite, ite_self, tabd_noteBurst]
    | (refine (tabd_foldl _ (fun _ _ => ?_) _ _).trans ?_)
    | (refine (tabd_foldl2 _ (fun _ _ => ?_) _ _).trans ?_)
    | split

theorem tabd_memWrite (s : State) (pa : Nat) (bytes : List Byte) (poison : Bool) : tabd (memWrite s pa bytes poison) = tabd s := by
  unfold memWrite
  repeat' first
    | rfl
    | (simp only [↓tabd_mk, tabd_eta, tabd_ite, ite_self, tabd_pageBurstWrite]; done)
    | simp only [↓tabd_mk, tabd_eta, tabd_ite, ite_self, tabd_pageBurstWrite]
    | (refine (tabd_foldl _ (fun _ _ => ?_) _ _).trans ?_)
    | (refine (tabd_foldl2 _ (fun _ _ => ?_) _ _).trans ?_)
    | split

theorem tabd_wcbFlush (s : State) : tabd (wcbFlush s) = tabd s := by
  unfold wcbFlush
  repeat' first
    | (simp only [↓tabd_mk, tabd_eta, tabd_ite, ite_self, tabd_wcbMerge]; done)
    | simp only [↓tabd_mk, tabd_eta, tabd_ite, ite_self, tabd_wcbMerge]
    | (refine (tabd_foldl _ (fun _ _ => ?_) _ _).trans ?_)
    | (refine (tabd_foldl2 _ (fun _ _ => ?_) _ _).trans ?_)
    | split
    | rfl

theorem tabd_zeroPage (s : State) (p : Nat) : tabd (zeroPage s p) = tabd s := by
  unfold zeroPage
  repeat' first
    | (simp only [↓tabd_mk, tabd_eta, tabd_ite, ite_self, tabd_pageBurstWrite]; done)
    | simp only [↓tabd_mk, tabd_eta, tabd_ite, ite_self, tabd_pageBurstWrite]
    | (refine (tabd_foldl _ (fun _ _ => ?_) _ _).trans ?_)
    | (refine (tabd_foldl2 _ (fun _ _ => ?_) _ _).trans ?_)
    | split
    | rfl

theorem tabd_copyPage (s : State) (p q : Nat) : tabd (copyPage s p q) = tabd s := by
  unfold copyPage
  repeat' first
    | (simp only [↓tabd_mk, tabd_eta, tabd_ite, ite_self, tabd_pageBurstWrite, tabd_noteBurst]; done)
    | simp only [↓tabd_mk, tabd_eta, tabd_ite, ite_self, tabd_pageBurstWrite, tabd_noteBurst]
    | (refine (tabd_foldl _ (fun _ _ => ?_) _ _).trans ?_)
    | (refine (tabd_foldl2 _ (fun _ _ => ?_) _ _).trans ?_)
    | split
    | rfl

theorem tabd_noteTrace (s : State) (src : RdSrc) (done : List Nat) (tr : List Acc) : tabd (noteTrace s src done tr) = tabd s := by
  unfold noteTrace
  repeat' first
    | rfl
    | (simp only [↓tabd_mk, tabd_eta, tabd_ite, ite_self, tabd_noteRead]; done)
    | simp only [↓tabd_mk, tabd_eta, tabd_ite, ite_self, tabd_noteRead]
    | (refine (tabd_foldl _ (fun _ _ => ?_) _ _).trans ?_)
    | (refine (tabd_foldl2 _ (fun _ _ => ?_) _ _).trans ?_)
    | split

theorem tabd_pagesWrite (s : State) (pages : List Nat) (b : List Byte) : tabd (pagesWrite s pages b) = tabd s := by
  unfold pagesWrite
  repeat' first
    | rfl
    | (simp only [↓tabd_mk, tabd_eta, tabd_ite, ite_self, tabd_memWrite]; done)
    | simp only [↓tabd_mk, tabd_eta, tabd_ite, ite_self, tabd_memWrite]
    | (refine (tabd_foldl _ (fun _ _ => ?_) _ _).trans ?_)
    | (refine (tabd_foldl2 _ (fun _ _ => ?_) _ _).trans ?_)
    | split

end Sys2Proof.Machine
end

