-- ==== Sys2Proof/Laws/Memory.lean ====
section
/-! SUPPORT. Memory keeps its canonical form: State.reset's memory has it, and every operation that stores bytes keeps it.
A byte reads as it was last stored, and a store leaves every other byte alone. -/

set_option Elab.async false
set_option linter.unusedSimpArgs false
set_option linter.unusedTactic false
set_option linter.unreachableTactic false
set_option linter.unusedVariables false

namespace Sys2Proof.Machine

/-- The memory of a state is in canonical form. -/
def MemOk (s : State) : Prop := Memory.wf s.mem.cells = true

theorem reset_memOk : MemOk State.reset := rfl

theorem cell_setCell_self (s : State) (k : Nat) (b : Byte) : cell (setCell s k b) k = b := lkD_setD_self _ _ _ _

theorem cell_setCell_ne (s : State) {k j : Nat} (b : Byte) (h : j ≠ k) : cell (setCell s k b) j = cell s j :=
  lkD_setD_ne _ _ _ _ h

theorem setCell_memOk {s : State} (k : Nat) (b : Byte) (h : MemOk s) : MemOk (setCell s k b) := wf_setD _ _ _ _ h

theorem memOk_of_cells {s t : State} (h : MemOk s) (e : t.mem.cells = s.mem.cells) : MemOk t := by
  unfold MemOk; rw [e]; exact h

theorem setCells_memOk {s : State} (k : Nat) (l : List Byte) (h : MemOk s) : MemOk (setCells s k l) := by
  induction l generalizing s k with
  | nil => exact h
  | cons b l ih => exact ih _ (setCell_memOk k b h)

theorem setPoison_memOk {s : State} (b : BRef) (v : Bool) (h : MemOk s) : MemOk (setPoison s b v) :=
  setCell_memOk _ _ (setCell_memOk _ _ h)

theorem burstStore_memOk {s : State} (b : BRef) (data : List Byte) (v : Bool) (h : MemOk s) :
    MemOk (burstStore s b data v) :=
  memOk_of_cells (setPoison_memOk b v (setCells_memOk _ _ (setCells_memOk _ _ h))) rfl

theorem noteUncorrectable_memOk {s : State} (c j pa : Nat) (src : RdSrc) (h : MemOk s) :
    MemOk (noteUncorrectable s c j pa src) :=
  memOk_of_cells h (by simp [noteUncorrectable])

theorem setWcb_memOk {s : State} (c : Nat) (l : List Wcb) (h : MemOk s) : MemOk (setWcb s c l) := h

theorem wcbMerge_memOk {s : State} (c : Nat) (w : Wcb) (h : MemOk s) : MemOk (wcbMerge s c w) := by
  unfold wcbMerge
  refine burstStore_memOk _ _ _ ?_
  split
  · exact h
  · exact h
  · exact noteUncorrectable_memOk _ _ _ _ h
  · exact h

theorem burstWrite_memOk {s : State} (b : BRef) (pa : Nat) (v : Tab Byte) (p : Bool) (h : MemOk s) :
    MemOk (burstWrite s b pa v p) := by
  unfold burstWrite
  generalize lkD s.mem.wcb b.ch [] = l
  generalize wcbFind s b = old
  cases old with
  | none =>
    dsimp only
    split
    · exact burstStore_memOk _ _ _ (setWcb_memOk _ _ h)
    · refine setWcb_memOk _ _ ?_
      split
      · split
        · exact wcbMerge_memOk _ _ h
        · exact h
      · exact h
  | some w =>
    dsimp only
    split
    · exact burstStore_memOk _ _ _ (setWcb_memOk _ _ h)
    · exact setWcb_memOk _ _ h

theorem pageBurstWrite_memOk {s : State} (p i j : Nat) (v : Tab Byte) (q : Bool) (h : MemOk s) :
    MemOk (pageBurstWrite s p i j v q) := by
  unfold pageBurstWrite
  split
  · exact burstWrite_memOk _ _ _ _ h
  · exact h
  · exact h

theorem noteBurst_memOk {s : State} (p i j : Nat) (src : RdSrc) (h : MemOk s) : MemOk (noteBurst s p i j src) := by
  unfold noteBurst
  split
  · exact h
  · exact noteUncorrectable_memOk _ _ _ _ h
  · split
    · exact h
    · exact h
    · exact noteUncorrectable_memOk _ _ _ _ h
    · exact h

theorem foldl_memOk {α : Type} (f : State → α → State) (hf : ∀ s a, MemOk s → MemOk (f s a)) :
    ∀ (l : List α) (s : State), MemOk s → MemOk (l.foldl f s) := by
  intro l
  induction l with
  | nil => exact fun _ h => h
  | cons a l ih => exact fun s h => ih _ (hf s a h)

theorem memWrite_memOk {s : State} (pa : Nat) (b : List Byte) (p : Bool) (h : MemOk s) : MemOk (memWrite s pa b p) :=
  foldl_memOk _ (fun _ _ => pageBurstWrite_memOk _ _ _ _ _) _ _ h

theorem noteRead_memOk {s : State} (pa n : Nat) (src : RdSrc) (h : MemOk s) : MemOk (noteRead s pa n src) :=
  foldl_memOk _ (fun _ _ => noteBurst_memOk _ _ _ _) _ _ h

theorem wcbFlush_memOk {s : State} (h : MemOk s) : MemOk (wcbFlush s) :=
  foldl_memOk _ (fun _ _ => foldl_memOk _ (fun _ _ => wcbMerge_memOk _ _) _ _) _ _ h

theorem zeroPage_memOk {s : State} (p : Nat) (h : MemOk s) : MemOk (zeroPage s p) :=
  foldl_memOk _ (fun _ _ => pageBurstWrite_memOk _ _ _ _ _) _ _ h

theorem copyPage_memOk {s : State} (p q : Nat) (h : MemOk s) : MemOk (copyPage s p q) :=
  foldl_memOk _ (fun _ _ hs => pageBurstWrite_memOk _ _ _ _ _ (noteBurst_memOk _ _ _ _ hs)) _ _ h

/-! ### What data in memory leaves alone -/

/-- The parts of the memory tier that no read or write of data changes, and the identity. -/
structure MemRest where
  ident : Ident
  chState : Tab Nat
  mr4Temp : Tab Nat
  mr4Mult : Tab Nat
  pmax : Nat
  spread : BitVec 256
  mapped : W64
  recorded : W64
  sweep : Option Sweep
  burstCap : Nat
  issued : Tab Nat
  hellbox : List HbEntry
  marginRes : Tab Margin
  marginOp : Option Nat
  marginAt : Tab Nat
  refreshAt : Tab Nat

def memRest (s : State) : MemRest := ⟨s.ident, s.mem.chState, s.mem.mr4Temp, s.mem.mr4Mult, s.mem.pmax, s.mem.spread, s.mem.mapped, s.mem.recorded, s.mem.sweep, s.mem.burstCap, s.mem.issued, s.mem.hellbox, s.mem.marginRes, s.mem.marginOp, s.mem.marginAt, s.mem.refreshAt⟩

theorem rest_of_mem {s t : State} (h : t.mem = s.mem) (hi : t.ident = s.ident) : memRest t = memRest s := by
  unfold memRest; rw [h, hi]

theorem rest_setCell (s : State) (k : Nat) (b : Byte) : memRest (setCell s k b) = memRest s := rfl

theorem rest_setCells (s : State) (k : Nat) (l : List Byte) : memRest (setCells s k l) = memRest s := by
  induction l generalizing s k with
  | nil => rfl
  | cons b l ih => rw [setCells, ih, rest_setCell]

theorem rest_setPoison (s : State) (b : BRef) (v : Bool) : memRest (setPoison s b v) = memRest s := rfl

theorem rest_burstStore (s : State) (b : BRef) (data : List Byte) (v : Bool) : memRest (burstStore s b data v) = memRest s := by
  unfold burstStore
  have h : memRest (setCells (setCells s b.base (slice data 0 64)) b.check (rsCheck (slice data 0 64))) = memRest s := by
    rw [rest_setCells, rest_setCells]
  dsimp only
  generalize setCells (setCells s b.base (slice data 0 64)) b.check (rsCheck (slice data 0 64)) = c at h ⊢
  exact h

theorem rest_noteUncorrectable (s : State) (c j pa : Nat) (src : RdSrc) : memRest (noteUncorrectable s c j pa src) = memRest s :=
  rest_of_mem (by simp [noteUncorrectable]) (by simp [noteUncorrectable])

theorem rest_setWcb (s : State) (c : Nat) (l : List Wcb) : memRest (setWcb s c l) = memRest s := rfl

theorem rest_wcbMerge (s : State) (c : Nat) (w : Wcb) : memRest (wcbMerge s c w) = memRest s := by
  unfold wcbMerge
  refine (rest_burstStore _ _ _ _).trans ?_
  split
  · exact rest_setWcb _ _ _
  · rfl
  · exact (rest_noteUncorrectable _ _ _ _ _).trans (rest_setWcb _ _ _)
  · rfl

theorem rest_burstWrite (s : State) (b : BRef) (pa : Nat) (v : Tab Byte) (p : Bool) : memRest (burstWrite s b pa v p) = memRest s := by
  unfold burstWrite
  generalize lkD s.mem.wcb b.ch [] = l
  generalize wcbFind s b = old
  cases old with
  | none =>
    dsimp only
    split
    · exact (rest_burstStore _ _ _ _).trans (rest_setWcb _ _ _)
    · refine (rest_setWcb _ _ _).trans ?_
      split
      · split
        · exact rest_wcbMerge _ _ _
        · rfl
      · rfl
  | some w =>
    dsimp only
    split
    · exact (rest_burstStore _ _ _ _).trans (rest_setWcb _ _ _)
    · exact rest_setWcb _ _ _

theorem rest_pageBurstWrite (s : State) (p i j : Nat) (v : Tab Byte) (q : Bool) : memRest (pageBurstWrite s p i j v q) = memRest s := by
  unfold pageBurstWrite
  split
  · exact rest_burstWrite _ _ _ _ _
  · rfl
  · rfl

theorem rest_noteBurst (s : State) (p i j : Nat) (src : RdSrc) : memRest (noteBurst s p i j src) = memRest s := by
  unfold noteBurst
  split
  · rfl
  · exact rest_noteUncorrectable _ _ _ _ _
  · split
    · rfl
    · rfl
    · exact rest_noteUncorrectable _ _ _ _ _
    · rfl

theorem rest_foldl {α : Type} (f : State → α → State) (hf : ∀ s a, memRest (f s a) = memRest s) :
    ∀ (l : List α) (s : State), memRest (l.foldl f s) = memRest s := by
  intro l
  induction l with
  | nil => exact fun _ => rfl
  | cons a l ih => exact fun s => (ih _).trans (hf s a)

theorem rest_memWrite (s : State) (pa : Nat) (b : List Byte) (p : Bool) : memRest (memWrite s pa b p) = memRest s :=
  rest_foldl _ (fun _ _ => rest_pageBurstWrite _ _ _ _ _ _) _ _

theorem rest_wcbFlush (s : State) : memRest (wcbFlush s) = memRest s :=
  rest_foldl _ (fun _ _ => rest_foldl _ (fun _ _ => rest_wcbMerge _ _ _) _ _) _ _

theorem rest_copyPage (s : State) (p q : Nat) : memRest (copyPage s p q) = memRest s :=
  rest_foldl _ (fun _ _ => (rest_pageBurstWrite _ _ _ _ _ _).trans (rest_noteBurst _ _ _ _ _)) _ _

end Sys2Proof.Machine
end

