-- ==== Sys2Proof/Laws/Ops.lean ====
section
/-! SUPPORT. What the shared operations can do, said once for each. -/

set_option Elab.async false
set_option linter.unusedSimpArgs false
set_option linter.unusedTactic false
set_option linter.unreachableTactic false
set_option linter.unusedVariables false

namespace Sys2Proof.Machine

variable (s : State)

/-! ### The event sequencer -/

/-- What a record does to the event log depends on the log, the time and the device alone. -/
theorem postOne_evt {u : State} (l : Nat) (r : EvRec) (h1 : u.evt = s.evt) (h2 : u.clk = s.clk)
    (h3 : u.ident = s.ident) : (postOne u l r).evt = (postOne s l r).evt := by
  simp only [postOne, h1, h2, h3]
  split <;> rfl

/-! ### Registers at their boundaries -/

/-- Bringing registers into effect changes effective values alone. -/
theorem bringKeys_frame (p : Nat → Bool) :
    bringKeys s p = { s with cfg := { s.cfg with effective := (bringKeys s p).cfg.effective } } := by
  simp only [bringKeys]
  generalize ((s.cfg.committed.map (·.1)) ++ (s.cfg.effective.map (·.1))).filter p = l
  induction l generalizing s with
  | nil => rfl
  | cons k l ih =>
    rw [List.foldl_cons, ih]
    rfl

theorem foldl_setEffective (l : List Nat) (k : Nat) :
    effective (l.foldl (fun s k => setEffective s k (committed s k)) s) k =
      if k ∈ l then committed s k else effective s k := by
  induction l generalizing s with
  | nil => simp
  | cons j l ih =>
    rw [List.foldl_cons, ih]
    have hc : committed (setEffective s j (committed s j)) k = committed s k := rfl
    by_cases hk : k = j
    · subst hk; simp [hc]
    · simp [hc, hk, effective_setEffective_ne _ _ hk]

/-- A register brought into effect takes its committed value; no other register changes. -/
theorem effective_bringKeys (p : Nat → Bool) (k : Nat) :
    effective (bringKeys s p) k = if p k then committed s k else effective s k := by
  rw [bringKeys, foldl_setEffective]
  by_cases hp : p k
  · by_cases hk : k ∈ ((s.cfg.committed.map (·.1)) ++ (s.cfg.effective.map (·.1)))
    · simp only [List.mem_filter, hk, hp, and_self, if_true]
    · simp only [List.mem_filter, hk, false_and, if_false, hp, if_true]
      simp only [List.mem_append, not_or] at hk
      simp [effective, committed, lkD, lk_of_not_mem _ _ hk.1, lk_of_not_mem _ _ hk.2]
  · simp [List.mem_filter, hp]

/-! ### Refused accesses and reads that stall -/

/-- The first refused access of a second is recorded (R563). -/
theorem barRefuse_first (f : Nat) (p0 : W64)
    (h : ∀ a, (lkD s.hif.barErr f ⟨none, 0, 0⟩).lastAt = some a → a + secT ≤ s.clk.aon) :
    barRefuse s f p0 = { postG s 0x0101 2 p0.toNat 1 0 0 with
      hif := { s.hif with barErr := put s.hif.barErr f ⟨some s.clk.aon, 0, p0⟩ } } := by
  simp only [barRefuse]
  cases ha : (lkD s.hif.barErr f ⟨none, 0, 0⟩).lastAt with
  | none => simp
  | some a => simp [Nat.not_lt.2 (h a ha)]

/-- Those that follow within the second are counted. -/
theorem barRefuse_again (f : Nat) (p0 : W64) (a : Nat)
    (ha : (lkD s.hif.barErr f ⟨none, 0, 0⟩).lastAt = some a) (h : s.clk.aon < a + secT) :
    barRefuse s f p0 = { s with hif := { s.hif with
      barErr := put s.hif.barErr f ⟨some a, (lkD s.hif.barErr f ⟨none, 0, 0⟩).count + 1, p0⟩ } } := by
  simp only [barRefuse, ha, h, decide_true, if_true]

/-- A read of a register may use up free values; it changes nothing else. -/
theorem readReg_frame (f : Nat) (bar2 : Bool) (o : Nat) :
    (readReg s f bar2 o).2 = { s with freeCtr := (readReg s f bar2 o).2.freeCtr } := by
  simp only [readReg]
  repeat' split
  all_goals rfl

/-- Serving the reads of a function adds completions, ends reads, and demands domains. -/
theorem serveFn_frame (f : Nat) (l : List (Nat × Bool × Nat × Nat)) :
    (∃ m, (serveFn s f l).hif.bus = s.hif.bus ++ m) ∧
    serveFn s f l = { s with
      freeCtr := (serveFn s f l).freeCtr, pwr := (serveFn s f l).pwr
      hif := { s.hif with bus := (serveFn s f l).hif.bus, stalled := (serveFn s f l).hif.stalled } } := by
  induction l generalizing s with
  | nil => exact ⟨⟨[], by simp [serveFn]⟩, rfl⟩
  | cons r t ih =>
    simp only [serveFn]
    split
    · exact ih s
    · split
      · have hr := readReg_frame s f r.2.1 r.2.2.1
        generalize readReg s f r.2.1 r.2.2.1 = q at hr
        obtain ⟨v, s1⟩ := q
        simp only at hr ⊢
        rw [hr]
        obtain ⟨⟨m, hm⟩, h2⟩ := ih (busValue { { s with freeCtr := s1.freeCtr } with
          hif := { s.hif with stalled := s.hif.stalled.erase r } } f r.2.1 r.2.2.1 v)
        constructor
        · refine ⟨[.value f r.2.1 r.2.2.1 v] ++ m, ?_⟩
          rw [hm]; simp [busValue]
        · rw [h2]; rfl
      · split
        · rw [demandOn_frame]; exact ⟨⟨[], by simp⟩, rfl⟩
        · exact ⟨⟨[], by simp⟩, rfl⟩

end Sys2Proof.Machine
end

