-- ==== Sys2Proof/Laws/OpsFrame.lean ====
section
/-! SUPPORT. What the operations below leave alone: operation records, mailboxes and partitions. One lemma for each, from
those of the operations it calls. -/

set_option Elab.async false
set_option linter.unusedSimpArgs false
set_option linter.unusedTactic false
set_option linter.unreachableTactic false
set_option linter.unusedVariables false

namespace Sys2Proof.Machine

structure Opsd where
  ops : List Op
  mbx : Tab Mbx
  parts : Tab Part

def opsd (s : State) : Opsd := ⟨s.ops, s.mbx, s.parts⟩

theorem opsd_mk pending ident clk evt cfg hif mbx ops opNext fw mem parts pages tables adapters bindings streams pod pwr pins bg mgmt jtag gal locks cores quo profiles grammars units unitWait rr stallRem freeCtr : opsd (State.mk pending ident clk evt cfg hif mbx ops opNext fw mem parts pages tables adapters bindings streams pod pwr pins bg mgmt jtag gal locks cores quo profiles grammars units unitWait rr stallRem freeCtr) = ⟨ops, mbx, parts⟩ := rfl

theorem opsd_eta (s : State) : (⟨s.ops, s.mbx, s.parts⟩ : Opsd) = opsd s := rfl

theorem opsd_ite {c : Prop} [Decidable c] (a b : State) : opsd (if c then a else b) = if c then opsd a else opsd b := by split <;> rfl

theorem opsd_foldl {α : Type} (f : State → α → State) (hf : ∀ s x, opsd (f s x) = opsd s) (l : List α) (s : State) : opsd (l.foldl f s) = opsd s := by
  induction l generalizing s with
  | nil => rfl
  | cons x l ih => rw [List.foldl_cons, ih, hf]

theorem opsd_foldl2 {α β : Type} (f : β × State → α → β × State) (hf : ∀ p x, opsd (f p x).2 = opsd p.2) (l : List α) (p : β × State) : opsd (l.foldl f p).2 = opsd p.2 := by
  induction l generalizing p with
  | nil => rfl
  | cons x l ih => rw [List.foldl_cons, ih, hf]

theorem opsd_cntAdd (s : State) (k n : Nat) : opsd (cntAdd s k n) = opsd s := by
  unfold cntAdd
  repeat' first
    | rfl
    | (simp only [↓opsd_mk, opsd_eta, opsd_ite, ite_self]; done)
    | simp only [↓opsd_mk, opsd_eta, opsd_ite, ite_self]
    | (refine (opsd_foldl _ (fun _ _ => ?_) _ _).trans ?_)
    | (refine (opsd_foldl2 _ (fun _ _ => ?_) _ _).trans ?_)
    | split

theorem opsd_freshByte (s : State) : opsd (freshByte s).2 = opsd s := by
  unfold freshByte
  repeat' first
    | rfl
    | (simp only [↓opsd_mk, opsd_eta, opsd_ite, ite_self]; done)
    | simp only [↓opsd_mk, opsd_eta, opsd_ite, ite_self]
    | (refine (opsd_foldl _ (fun _ _ => ?_) _ _).trans ?_)
    | (refine (opsd_foldl2 _ (fun _ _ => ?_) _ _).trans ?_)
    | split

theorem opsd_freshBytes (n : Nat) (s : State) : opsd (freshBytes n s).2 = opsd s := by
  induction n generalizing s with
  | zero => rfl
  | succ n ih => simp only [freshBytes, ih]; rfl

theorem opsd_postOne (s : State) (log : Nat) (r : EvRec) : opsd (postOne s log r) = opsd s := by
  unfold postOne
  repeat' first
    | rfl
    | (simp only [↓opsd_mk, opsd_eta, opsd_ite, ite_self]; done)
    | simp only [↓opsd_mk, opsd_eta, opsd_ite, ite_self]
    | (refine (opsd_foldl _ (fun _ _ => ?_) _ _).trans ?_)
    | (refine (opsd_foldl2 _ (fun _ _ => ?_) _ _).trans ?_)
    | split

theorem opsd_postG (s : State) (type sev p0 p1 p2 p3 : Nat) : opsd (postG s type sev p0 p1 p2 p3) = opsd s := by
  unfold postG
  repeat' first
    | rfl
    | (simp only [↓opsd_mk, opsd_eta, opsd_ite, ite_self, opsd_postOne]; done)
    | simp only [↓opsd_mk, opsd_eta, opsd_ite, ite_self, opsd_postOne]
    | (refine (opsd_foldl _ (fun _ _ => ?_) _ _).trans ?_)
    | (refine (opsd_foldl2 _ (fun _ _ => ?_) _ _).trans ?_)
    | split

theorem opsd_postP (s : State) (part type sev p0 p1 p2 p3 : Nat) : opsd (postP s part type sev p0 p1 p2 p3) = opsd s := by
  unfold postP
  repeat' first
    | rfl
    | (simp only [↓opsd_mk, opsd_eta, opsd_ite, ite_self, opsd_postOne]; done)
    | simp only [↓opsd_mk, opsd_eta, opsd_ite, ite_self, opsd_postOne]
    | (refine (opsd_foldl _ (fun _ _ => ?_) _ _).trans ?_)
    | (refine (opsd_foldl2 _ (fun _ _ => ?_) _ _).trans ?_)
    | split

theorem opsd_setPage (s : State) (p : Nat) (u : PageUse) : opsd (setPage s p u) = opsd s := by
  unfold setPage
  repeat' first
    | rfl
    | (simp only [↓opsd_mk, opsd_eta, opsd_ite, ite_self]; done)
    | simp only [↓opsd_mk, opsd_eta, opsd_ite, ite_self]
    | (refine (opsd_foldl _ (fun _ _ => ?_) _ _).trans ?_)
    | (refine (opsd_foldl2 _ (fun _ _ => ?_) _ _).trans ?_)
    | split

theorem opsd_setCell (s : State) (k : Nat) (b : Byte) : opsd (setCell s k b) = opsd s := by
  unfold setCell
  repeat' first
    | rfl
    | (simp only [↓opsd_mk, opsd_eta, opsd_ite, ite_self]; done)
    | simp only [↓opsd_mk, opsd_eta, opsd_ite, ite_self]
    | (refine (opsd_foldl _ (fun _ _ => ?_) _ _).trans ?_)
    | (refine (opsd_foldl2 _ (fun _ _ => ?_) _ _).trans ?_)
    | split

theorem opsd_setCells : ∀ (l : List Byte) (s : State) (k : Nat), opsd (setCells s k l) = opsd s := by
  intro l; induction l with
  | nil => intro s k; rfl
  | cons b l ih => intro s k; rw [setCells, ih]; rfl

theorem opsd_setPoison (s : State) (b : BRef) (v : Bool) : opsd (setPoison s b v) = opsd s := by
  unfold setPoison
  repeat' first
    | rfl
    | (simp only [↓opsd_mk, opsd_eta, opsd_ite, ite_self, opsd_setCell]; done)
    | simp only [↓opsd_mk, opsd_eta, opsd_ite, ite_self, opsd_setCell]
    | (refine (opsd_foldl _ (fun _ _ => ?_) _ _).trans ?_)
    | (refine (opsd_foldl2 _ (fun _ _ => ?_) _ _).trans ?_)
    | split

theorem opsd_burstStore (s : State) (b : BRef) (data : List Byte) (poison : Bool) : opsd (burstStore s b data poison) = opsd s := by
  unfold burstStore
  repeat' first
    | rfl
    | (simp only [↓opsd_mk, opsd_eta, opsd_ite, ite_self, opsd_setPoison, opsd_setCells]; done)
    | simp only [↓opsd_mk, opsd_eta, opsd_ite, ite_self, opsd_setPoison, opsd_setCells]
    | (refine (opsd_foldl _ (fun _ _ => ?_) _ _).trans ?_)
    | (refine (opsd_foldl2 _ (fun _ _ => ?_) _ _).trans ?_)
    | split

theorem opsd_noteCorrected (s : State) (b : BRef) (pa : Nat) : opsd (noteCorrected s b pa) = opsd s := by
  unfold noteCorrected
  repeat' first
    | rfl
    | (simp only [↓opsd_mk, opsd_eta, opsd_ite, ite_self, opsd_cntAdd]; done)
    | simp only [↓opsd_mk, opsd_eta, opsd_ite, ite_self, opsd_cntAdd]
    | (refine (opsd_foldl _ (fun _ _ => ?_) _ _).trans ?_)
    | (refine (opsd_foldl2 _ (fun _ _ => ?_) _ _).trans ?_)
    | split

theorem opsd_noteUncorrectable (s : State) (c j pa : Nat) (src : RdSrc) : opsd (noteUncorrectable s c j pa src) = opsd s := by
  unfold noteUncorrectable
  repeat' first
    | rfl
    | (simp only [↓opsd_mk, opsd_eta, opsd_ite, ite_self, opsd_postG, opsd_cntAdd]; done)
    | simp only [↓opsd_mk, opsd_eta, opsd_ite, ite_self, opsd_postG, opsd_cntAdd]
    | (refine (opsd_foldl _ (fun _ _ => ?_) _ _).trans ?_)
    | (refine (opsd_foldl2 _ (fun _ _ => ?_) _ _).trans ?_)
    | split

theorem opsd_noteBurst (s : State) (p i j : Nat) (src : RdSrc) : opsd (noteBurst s p i j src) = opsd s := by
  unfold noteBurst
  repeat' first
    | rfl
    | (simp only [↓opsd_mk, opsd_eta, opsd_ite, ite_self, opsd_noteCorrected, opsd_noteUncorrectable, opsd_cntAdd]; done)
    | simp only [↓opsd_mk, opsd_eta, opsd_ite, ite_self, opsd_noteCorrected, opsd_noteUncorrectable, opsd_cntAdd]
    | (refine (opsd_foldl _ (fun _ _ => ?_) _ _).trans ?_)
    | (refine (opsd_foldl2 _ (fun _ _ => ?_) _ _).trans ?_)
    | split

theorem opsd_setWcb (s : State) (c : Nat) (l : List Wcb) : opsd (setWcb s c l) = opsd s := by
  unfold setWcb
  repeat' first
    | rfl
    | (simp only [↓opsd_mk, opsd_eta, opsd_ite, ite_self]; done)
    | simp only [↓opsd_mk, opsd_eta, opsd_ite, ite_self]
    | (refine (opsd_foldl _ (fun _ _ => ?_) _ _).trans ?_)
    | (refine (opsd_foldl2 _ (fun _ _ => ?_) _ _).trans ?_)
    | split

theorem opsd_wcbMerge (s : State) (c : Nat) (w : Wcb) : opsd (wcbMerge s c w) = opsd s := by
  unfold wcbMerge
  repeat' first
    | (simp only [↓opsd_mk, opsd_eta, opsd_ite, ite_self, opsd_burstStore, opsd_noteCorrected, opsd_noteUncorrectable, opsd_cntAdd, opsd_setWcb]; done)
    | simp only [↓opsd_mk, opsd_eta, opsd_ite, ite_self, opsd_burstStore, opsd_noteCorrected, opsd_noteUncorrectable, opsd_cntAdd, opsd_setWcb]
    | (refine (opsd_foldl _ (fun _ _ => ?_) _ _).trans ?_)
    | (refine (opsd_foldl2 _ (fun _ _ => ?_) _ _).trans ?_)
    | split
    | rfl

theorem opsd_burstWrite (s : State) (b : BRef) (pa : Nat) (v : Tab Byte) (poison : Bool) : opsd (burstWrite s b pa v poison) = opsd s := by
  unfold burstWrite
  repeat' first
    | rfl
    | (simp only [↓opsd_mk, opsd_eta, opsd_ite, ite_self, opsd_burstStore, opsd_wcbMerge, opsd_setWcb]; done)
    | simp only [↓opsd_mk, opsd_eta, opsd_ite, ite_self, opsd_burstStore, opsd_wcbMerge, opsd_setWcb]
    | (refine (opsd_foldl _ (fun _ _ => ?_) _ _).trans ?_)
    | (refine (opsd_foldl2 _ (fun _ _ => ?_) _ _).trans ?_)
    | split

theorem opsd_pageBurstWrite (s : State) (p i j : Nat) (v : Tab Byte) (poison : Bool) : opsd (pageBurstWrite s p i j v poison) = opsd s := by
  unfold pageBurstWrite
  repeat' first
    | rfl
    | (simp only [↓opsd_mk, opsd_eta, opsd_ite, ite_self, opsd_burstWrite, opsd_cntAdd]; done)
    | simp only [↓opsd_mk, opsd_eta, opsd_ite, ite_self, opsd_burstWrite, opsd_cntAdd]
    | (refine (opsd_foldl _ (fun _ _ => ?_) _ _).trans ?_)
    | (refine (opsd_foldl2 _ (fun _ _ => ?_) _ _).trans ?_)
    | split

theorem opsd_noteRead (s : State) (pa n : Nat) (src : RdSrc) : opsd (noteRead s pa n src) = opsd s := by
  unfold noteRead
  repeat' first
    | rfl
    | (simp only [↓opsd_mk, opsd_eta, opsd_ite, ite_self, opsd_noteBurst]; done)
    | simp only [↓opsd_mk, opsd_eta, opsd_ite, ite_self, opsd_noteBurst]
    | (refine (opsd_foldl _ (fun _ _ => ?_) _ _).trans ?_)
    | (refine (opsd_foldl2 _ (fun _ _ => ?_) _ _).trans ?_)
    | split

theorem opsd_memWrite (s : State) (pa : Nat) (bytes : List Byte) (poison : Bool) : opsd (memWrite s pa bytes poison) = opsd s := by
  unfold memWrite
  repeat' first
    | rfl
    | (simp only [↓opsd_mk, opsd_eta, opsd_ite, ite_self, opsd_pageBurstWrite]; done)
    | simp only [↓opsd_mk, opsd_eta, opsd_ite, ite_self, opsd_pageBurstWrite]
    | (refine (opsd_foldl _ (fun _ _ => ?_) _ _).trans ?_)
    | (refine (opsd_foldl2 _ (fun _ _ => ?_) _ _).trans ?_)
    | split

theorem opsd_wcbFlush (s : State) : opsd (wcbFlush s) = opsd s := by
  unfold wcbFlush
  repeat' first
    | (simp only [↓opsd_mk, opsd_eta, opsd_ite, ite_self, opsd_wcbMerge]; done)
    | simp only [↓opsd_mk, opsd_eta, opsd_ite, ite_self, opsd_wcbMerge]
    | (refine (opsd_foldl _ (fun _ _ => ?_) _ _).trans ?_)
    | (refine (opsd_foldl2 _ (fun _ _ => ?_) _ _).trans ?_)
    | split
    | rfl

theorem opsd_zeroPage (s : State) (p : Nat) : opsd (zeroPage s p) = opsd s := by
  unfold zeroPage
  repeat' first
    | (simp only [↓opsd_mk, opsd_eta, opsd_ite, ite_self, opsd_pageBurstWrite]; done)
    | simp only [↓opsd_mk, opsd_eta, opsd_ite, ite_self, opsd_pageBurstWrite]
    | (refine (opsd_foldl _ (fun _ _ => ?_) _ _).trans ?_)
    | (refine (opsd_foldl2 _ (fun _ _ => ?_) _ _).trans ?_)
    | split
    | rfl

theorem opsd_copyPage (s : State) (p q : Nat) : opsd (copyPage s p q) = opsd s := by
  unfold copyPage
  repeat' first
    | (simp only [↓opsd_mk, opsd_eta, opsd_ite, ite_self, opsd_pageBurstWrite, opsd_noteBurst]; done)
    | simp only [↓opsd_mk, opsd_eta, opsd_ite, ite_self, opsd_pageBurstWrite, opsd_noteBurst]
    | (refine (opsd_foldl _ (fun _ _ => ?_) _ _).trans ?_)
    | (refine (opsd_foldl2 _ (fun _ _ => ?_) _ _).trans ?_)
    | split
    | rfl

theorem opsd_releasePages (s : State) (owner : Nat) (l : List Nat) : opsd (releasePages s owner l) = opsd s := by
  unfold releasePages
  repeat' first
    | rfl
    | (simp only [↓opsd_mk, opsd_eta, opsd_ite, ite_self, opsd_setPage]; done)
    | simp only [↓opsd_mk, opsd_eta, opsd_ite, ite_self, opsd_setPage]
    | (refine (opsd_foldl _ (fun _ _ => ?_) _ _).trans ?_)
    | (refine (opsd_foldl2 _ (fun _ _ => ?_) _ _).trans ?_)
    | split

theorem opsd_setTable (s : State) (t : Table) : opsd (setTable s t) = opsd s := by
  unfold setTable
  repeat' first
    | rfl
    | (simp only [↓opsd_mk, opsd_eta, opsd_ite, ite_self]; done)
    | simp only [↓opsd_mk, opsd_eta, opsd_ite, ite_self]
    | (refine (opsd_foldl _ (fun _ _ => ?_) _ _).trans ?_)
    | (refine (opsd_foldl2 _ (fun _ _ => ?_) _ _).trans ?_)
    | split

theorem opsd_sendMsg (s : State) (dst part : Nat) (b : MsgBody) : opsd (sendMsg s dst part b) = opsd s := by
  unfold sendMsg
  repeat' first
    | rfl
    | (simp only [↓opsd_mk, opsd_eta, opsd_ite, ite_self]; done)
    | simp only [↓opsd_mk, opsd_eta, opsd_ite, ite_self]
    | (refine (opsd_foldl _ (fun _ _ => ?_) _ _).trans ?_)
    | (refine (opsd_foldl2 _ (fun _ _ => ?_) _ _).trans ?_)
    | split

theorem opsd_replyMsg (s : State) (h : MsgHdr) (b : MsgBody) : opsd (replyMsg s h b) = opsd s := by
  unfold replyMsg
  repeat' first
    | rfl
    | (simp only [↓opsd_mk, opsd_eta, opsd_ite, ite_self, opsd_sendMsg]; done)
    | simp only [↓opsd_mk, opsd_eta, opsd_ite, ite_self, opsd_sendMsg]
    | (refine (opsd_foldl _ (fun _ _ => ?_) _ _).trans ?_)
    | (refine (opsd_foldl2 _ (fun _ _ => ?_) _ _).trans ?_)
    | split

theorem opsd_newReq (s : State) : opsd (newReq s).2 = opsd s := by
  unfold newReq
  repeat' first
    | rfl
    | (simp only [↓opsd_mk, opsd_eta, opsd_ite, ite_self]; done)
    | simp only [↓opsd_mk, opsd_eta, opsd_ite, ite_self]
    | (refine (opsd_foldl _ (fun _ _ => ?_) _ _).trans ?_)
    | (refine (opsd_foldl2 _ (fun _ _ => ?_) _ _).trans ?_)
    | split

theorem opsd_openExch (s : State) (dst part : Nat) (b : MsgBody) : opsd (openExch s dst part b).2 = opsd s := by
  unfold openExch
  repeat' first
    | rfl
    | (simp only [↓opsd_mk, opsd_eta, opsd_ite, ite_self, opsd_sendMsg, opsd_newReq]; done)
    | simp only [↓opsd_mk, opsd_eta, opsd_ite, ite_self, opsd_sendMsg, opsd_newReq]
    | (refine (opsd_foldl _ (fun _ _ => ?_) _ _).trans ?_)
    | (refine (opsd_foldl2 _ (fun _ _ => ?_) _ _).trans ?_)
    | split

theorem opsd_doWrites (s : State) (f : Nat) (l : List OutW) : opsd (doWrites s f l) = opsd s := by
  induction l generalizing s with
  | nil => rfl
  | cons w l ih =>
    cases w with
    | host a b => simp only [doWrites, ih]; rfl
    | dev pa b p => simp only [doWrites, ih, opsd_memWrite]

theorem opsd_noteTrace (s : State) (src : RdSrc) (done : List Nat) (tr : List Acc) : opsd (noteTrace s src done tr) = opsd s := by
  unfold noteTrace
  repeat' first
    | rfl
    | (simp only [↓opsd_mk, opsd_eta, opsd_ite, ite_self, opsd_noteRead]; done)
    | simp only [↓opsd_mk, opsd_eta, opsd_ite, ite_self, opsd_noteRead]
    | (refine (opsd_foldl _ (fun _ _ => ?_) _ _).trans ?_)
    | (refine (opsd_foldl2 _ (fun _ _ => ?_) _ _).trans ?_)
    | split

theorem opsd_freeAdapter (s : State) (i : Nat) (a : Adapter) : opsd (freeAdapter s i a) = opsd s := by
  unfold freeAdapter
  repeat' first
    | rfl
    | (simp only [↓opsd_mk, opsd_eta, opsd_ite, ite_self, opsd_setPage]; done)
    | simp only [↓opsd_mk, opsd_eta, opsd_ite, ite_self, opsd_setPage]
    | (refine (opsd_foldl _ (fun _ _ => ?_) _ _).trans ?_)
    | (refine (opsd_foldl2 _ (fun _ _ => ?_) _ _).trans ?_)
    | split

theorem opsd_pagesWrite (s : State) (pages : List Nat) (b : List Byte) : opsd (pagesWrite s pages b) = opsd s := by
  unfold pagesWrite
  repeat' first
    | rfl
    | (simp only [↓opsd_mk, opsd_eta, opsd_ite, ite_self, opsd_memWrite]; done)
    | simp only [↓opsd_mk, opsd_eta, opsd_ite, ite_self, opsd_memWrite]
    | (refine (opsd_foldl _ (fun _ _ => ?_) _ _).trans ?_)
    | (refine (opsd_foldl2 _ (fun _ _ => ?_) _ _).trans ?_)
    | split

theorem opsd_setEntry (s : State) (c : Nat) (m : Entry) : opsd (setEntry s c m) = opsd s := by
  unfold setEntry
  repeat' first
    | rfl
    | (simp only [↓opsd_mk, opsd_eta, opsd_ite, ite_self]; done)
    | simp only [↓opsd_mk, opsd_eta, opsd_ite, ite_self]
    | (refine (opsd_foldl _ (fun _ _ => ?_) _ _).trans ?_)
    | (refine (opsd_foldl2 _ (fun _ _ => ?_) _ _).trans ?_)
    | split

theorem opsd_setGq (s : State) (q : Nat) (x : GQueue) : opsd (setGq s q x) = opsd s := by
  unfold setGq
  repeat' first
    | rfl
    | (simp only [↓opsd_mk, opsd_eta, opsd_ite, ite_self]; done)
    | simp only [↓opsd_mk, opsd_eta, opsd_ite, ite_self]
    | (refine (opsd_foldl _ (fun _ _ => ?_) _ _).trans ?_)
    | (refine (opsd_foldl2 _ (fun _ _ => ?_) _ _).trans ?_)
    | split

theorem opsd_charge (s : State) (o k acct : Nat) : opsd (charge s o k acct) = opsd s := by
  unfold charge
  repeat' first
    | rfl
    | (simp only [↓opsd_mk, opsd_eta, opsd_ite, ite_self]; done)
    | simp only [↓opsd_mk, opsd_eta, opsd_ite, ite_self]
    | (refine (opsd_foldl _ (fun _ _ => ?_) _ _).trans ?_)
    | (refine (opsd_foldl2 _ (fun _ _ => ?_) _ _).trans ?_)
    | split

theorem opsd_uncharge (s : State) (o k acct : Nat) : opsd (uncharge s o k acct) = opsd s := by
  unfold uncharge
  repeat' first
    | rfl
    | (simp only [↓opsd_mk, opsd_eta, opsd_ite, ite_self]; done)
    | simp only [↓opsd_mk, opsd_eta, opsd_ite, ite_self]
    | (refine (opsd_foldl _ (fun _ _ => ?_) _ _).trans ?_)
    | (refine (opsd_foldl2 _ (fun _ _ => ?_) _ _).trans ?_)
    | split

theorem opsd_setFree (s : State) (h t n : Nat) : opsd (setFree s h t n) = opsd s := by
  unfold setFree
  repeat' first
    | rfl
    | (simp only [↓opsd_mk, opsd_eta, opsd_ite, ite_self]; done)
    | simp only [↓opsd_mk, opsd_eta, opsd_ite, ite_self]
    | (refine (opsd_foldl _ (fun _ _ => ?_) _ _).trans ?_)
    | (refine (opsd_foldl2 _ (fun _ _ => ?_) _ _).trans ?_)
    | split

theorem opsd_freeCell (s : State) (c : Nat) : opsd (freeCell s c) = opsd s := by
  unfold freeCell
  repeat' first
    | rfl
    | (simp only [↓opsd_mk, opsd_eta, opsd_ite, ite_self, opsd_setEntry, opsd_setFree]; done)
    | simp only [↓opsd_mk, opsd_eta, opsd_ite, ite_self, opsd_setEntry, opsd_setFree]
    | (refine (opsd_foldl _ (fun _ _ => ?_) _ _).trans ?_)
    | (refine (opsd_foldl2 _ (fun _ _ => ?_) _ _).trans ?_)
    | split

theorem opsd_recharge (s : State) : opsd (recharge s) = opsd s := by
  unfold recharge
  repeat' first
    | rfl
    | (simp only [↓opsd_mk, opsd_eta, opsd_ite, ite_self, opsd_charge]; done)
    | simp only [↓opsd_mk, opsd_eta, opsd_ite, ite_self, opsd_charge]
    | (refine (opsd_foldl _ (fun _ _ => ?_) _ _).trans ?_)
    | (refine (opsd_foldl2 _ (fun _ _ => ?_) _ _).trans ?_)
    | split

theorem opsd_withdraw (s : State) (l : List Nat) : opsd (withdraw s l) = opsd s := by
  unfold withdraw
  repeat' first
    | rfl
    | (simp only [↓opsd_mk, opsd_eta, opsd_ite, ite_self, opsd_recharge, opsd_cntAdd]; done)
    | simp only [↓opsd_mk, opsd_eta, opsd_ite, ite_self, opsd_recharge, opsd_cntAdd]
    | (refine (opsd_foldl _ (fun _ _ => ?_) _ _).trans ?_)
    | (refine (opsd_foldl2 _ (fun _ _ => ?_) _ _).trans ?_)
    | split

theorem opsd_sweepQueue (s : State) (q : Nat) : opsd (sweepQueue s q).2 = opsd s := by
  unfold sweepQueue
  repeat' first
    | rfl
    | (simp only [↓opsd_mk, opsd_eta, opsd_ite, ite_self, opsd_freeCell, opsd_withdraw, opsd_uncharge, opsd_setGq]; done)
    | simp only [↓opsd_mk, opsd_eta, opsd_ite, ite_self, opsd_freeCell, opsd_withdraw, opsd_uncharge, opsd_setGq]
    | (refine (opsd_foldl _ (fun _ _ => ?_) _ _).trans ?_)
    | (refine (opsd_foldl2 _ (fun _ _ => ?_) _ _).trans ?_)
    | split

theorem opsd_setLink (s : State) (l : Nat) (k : Link) : opsd (setLink s l k) = opsd s := by
  unfold setLink
  repeat' first
    | rfl
    | (simp only [↓opsd_mk, opsd_eta, opsd_ite, ite_self]; done)
    | simp only [↓opsd_mk, opsd_eta, opsd_ite, ite_self]
    | (refine (opsd_foldl _ (fun _ _ => ?_) _ _).trans ?_)
    | (refine (opsd_foldl2 _ (fun _ _ => ?_) _ _).trans ?_)
    | split

theorem opsd_failover (s : State) (l : Nat) : opsd (failover s l) = opsd s := by
  unfold failover
  repeat' first
    | rfl
    | (simp only [↓opsd_mk, opsd_eta, opsd_ite, ite_self, opsd_setLink]; done)
    | simp only [↓opsd_mk, opsd_eta, opsd_ite, ite_self, opsd_setLink]
    | (refine (opsd_foldl _ (fun _ _ => ?_) _ _).trans ?_)
    | (refine (opsd_foldl2 _ (fun _ _ => ?_) _ _).trans ?_)
    | split

theorem opsd_toTraining (s : State) (l : Nat) : opsd (toTraining s l) = opsd s := by
  unfold toTraining
  repeat' first
    | rfl
    | (simp only [↓opsd_mk, opsd_eta, opsd_ite, ite_self, opsd_setLink]; done)
    | simp only [↓opsd_mk, opsd_eta, opsd_ite, ite_self, opsd_setLink]
    | (refine (opsd_foldl _ (fun _ _ => ?_) _ _).trans ?_)
    | (refine (opsd_foldl2 _ (fun _ _ => ?_) _ _).trans ?_)
    | split

theorem opsd_helloOn (s : State) (l : Nat) : opsd (helloOn s l) = opsd s := by
  unfold helloOn
  repeat' first
    | rfl
    | (simp only [↓opsd_mk, opsd_eta, opsd_ite, ite_self, opsd_sendMsg]; done)
    | simp only [↓opsd_mk, opsd_eta, opsd_ite, ite_self, opsd_sendMsg]
    | (refine (opsd_foldl _ (fun _ _ => ?_) _ _).trans ?_)
    | (refine (opsd_foldl2 _ (fun _ _ => ?_) _ _).trans ?_)
    | split

theorem opsd_setLock (s : State) (j : Nat) (x : LockSt) : opsd (setLock s j x) = opsd s := by
  unfold setLock
  repeat' first
    | rfl
    | (simp only [↓opsd_mk, opsd_eta, opsd_ite, ite_self]; done)
    | simp only [↓opsd_mk, opsd_eta, opsd_ite, ite_self]
    | (refine (opsd_foldl _ (fun _ _ => ?_) _ _).trans ?_)
    | (refine (opsd_foldl2 _ (fun _ _ => ?_) _ _).trans ?_)
    | split

theorem opsd_unqueueLock (s : State) (j : Nat) (p : Holder → Bool) : opsd (unqueueLock s j p) = opsd s := by
  unfold unqueueLock
  repeat' first
    | rfl
    | (simp only [↓opsd_mk, opsd_eta, opsd_ite, ite_self, opsd_setLock]; done)
    | simp only [↓opsd_mk, opsd_eta, opsd_ite, ite_self, opsd_setLock]
    | (refine (opsd_foldl _ (fun _ _ => ?_) _ _).trans ?_)
    | (refine (opsd_foldl2 _ (fun _ _ => ?_) _ _).trans ?_)
    | split

theorem opsd_abandonLock (s : State) (j : Nat) : opsd (abandonLock s j) = opsd s := by
  unfold abandonLock
  repeat' first
    | rfl
    | (simp only [↓opsd_mk, opsd_eta, opsd_ite, ite_self, opsd_cntAdd, opsd_setLock, opsd_postP]; done)
    | simp only [↓opsd_mk, opsd_eta, opsd_ite, ite_self, opsd_cntAdd, opsd_setLock, opsd_postP]
    | (refine (opsd_foldl _ (fun _ _ => ?_) _ _).trans ?_)
    | (refine (opsd_foldl2 _ (fun _ _ => ?_) _ _).trans ?_)
    | split

theorem opsd_dropHolders (s : State) (p : Holder → Bool) : opsd (dropHolders s p).2 = opsd s := by
  unfold dropHolders
  repeat' first
    | rfl
    | (simp only [↓opsd_mk, opsd_eta, opsd_ite, ite_self, opsd_unqueueLock, opsd_abandonLock]; done)
    | simp only [↓opsd_mk, opsd_eta, opsd_ite, ite_self, opsd_unqueueLock, opsd_abandonLock]
    | (refine (opsd_foldl _ (fun _ _ => ?_) _ _).trans ?_)
    | (refine (opsd_foldl2 _ (fun _ _ => ?_) _ _).trans ?_)
    | split

theorem opsd_dropLeases (s : State) (p : Nat → Bool) : opsd (dropLeases s p) = opsd s := by
  unfold dropLeases
  repeat' first
    | rfl
    | (simp only [↓opsd_mk, opsd_eta, opsd_ite, ite_self, opsd_sendMsg]; done)
    | simp only [↓opsd_mk, opsd_eta, opsd_ite, ite_self, opsd_sendMsg]
    | (refine (opsd_foldl _ (fun _ _ => ?_) _ _).trans ?_)
    | (refine (opsd_foldl2 _ (fun _ _ => ?_) _ _).trans ?_)
    | split

theorem opsd_settleHello (s : State) (l : Nat) : opsd (settleHello s l) = opsd s := by
  unfold settleHello
  repeat' first
    | rfl
    | (simp only [↓opsd_mk, opsd_eta, opsd_ite, ite_self, opsd_setLink, opsd_sendMsg]; done)
    | simp only [↓opsd_mk, opsd_eta, opsd_ite, ite_self, opsd_setLink, opsd_sendMsg]
    | (refine (opsd_foldl _ (fun _ _ => ?_) _ _).trans ?_)
    | (refine (opsd_foldl2 _ (fun _ _ => ?_) _ _).trans ?_)
    | split

theorem opsd_abandonFn (s : State) (f : Nat) : opsd (abandonFn s f).2 = opsd s := by
  unfold abandonFn
  repeat' first
    | rfl
    | (simp only [↓opsd_mk, opsd_eta, opsd_ite, ite_self, opsd_dropLeases, opsd_dropHolders]; done)
    | simp only [↓opsd_mk, opsd_eta, opsd_ite, ite_self, opsd_dropLeases, opsd_dropHolders]
    | (refine (opsd_foldl _ (fun _ _ => ?_) _ _).trans ?_)
    | (refine (opsd_foldl2 _ (fun _ _ => ?_) _ _).trans ?_)
    | split

theorem opsd_resetQueues (s : State) (owner : Nat) : opsd (resetQueues s owner) = opsd s := by
  unfold resetQueues
  repeat' first
    | rfl
    | (simp only [↓opsd_mk, opsd_eta, opsd_ite, ite_self, opsd_sweepQueue]; done)
    | simp only [↓opsd_mk, opsd_eta, opsd_ite, ite_self, opsd_sweepQueue]
    | (refine (opsd_foldl _ (fun _ _ => ?_) _ _).trans ?_)
    | (refine (opsd_foldl2 _ (fun _ _ => ?_) _ _).trans ?_)
    | split

theorem opsd_resetRegion (s : State) (f : Nat) : opsd (resetRegion s f) = opsd s := by
  unfold resetRegion
  repeat' first
    | rfl
    | (simp only [↓opsd_mk, opsd_eta, opsd_ite, ite_self]; done)
    | simp only [↓opsd_mk, opsd_eta, opsd_ite, ite_self]
    | (refine (opsd_foldl _ (fun _ _ => ?_) _ _).trans ?_)
    | (refine (opsd_foldl2 _ (fun _ _ => ?_) _ _).trans ?_)
    | split

theorem opsd_unbind (s : State) (h : Nat) (p : Option Nat) : opsd (unbind s h p) = opsd s := by
  unfold unbind
  repeat' first
    | rfl
    | (simp only [↓opsd_mk, opsd_eta, opsd_ite, ite_self]; done)
    | simp only [↓opsd_mk, opsd_eta, opsd_ite, ite_self]
    | (refine (opsd_foldl _ (fun _ _ => ?_) _ _).trans ?_)
    | (refine (opsd_foldl2 _ (fun _ _ => ?_) _ _).trans ?_)
    | split

theorem opsd_dropTable (s : State) (t : Table) : opsd (dropTable s t) = opsd s := by
  unfold dropTable
  repeat' first
    | rfl
    | (simp only [↓opsd_mk, opsd_eta, opsd_ite, ite_self, opsd_releasePages, opsd_unbind]; done)
    | simp only [↓opsd_mk, opsd_eta, opsd_ite, ite_self, opsd_releasePages, opsd_unbind]
    | (refine (opsd_foldl _ (fun _ _ => ?_) _ _).trans ?_)
    | (refine (opsd_foldl2 _ (fun _ _ => ?_) _ _).trans ?_)
    | split

theorem opsd_unmapFrom (s : State) (h p : Nat) : opsd (unmapFrom s h p) = opsd s := by
  unfold unmapFrom
  repeat' first
    | rfl
    | (simp only [↓opsd_mk, opsd_eta, opsd_ite, ite_self, opsd_unbind, opsd_setTable]; done)
    | simp only [↓opsd_mk, opsd_eta, opsd_ite, ite_self, opsd_unbind, opsd_setTable]
    | (refine (opsd_foldl _ (fun _ _ => ?_) _ _).trans ?_)
    | (refine (opsd_foldl2 _ (fun _ _ => ?_) _ _).trans ?_)
    | split

theorem opsd_requantRow (code : Nat) (t : Table) (x y : Store) (l : Nat) (s : State) : opsd (requantRow code t x y l s) = opsd s := by
  unfold requantRow
  repeat' first
    | rfl
    | (simp only [↓opsd_mk, opsd_eta, opsd_ite, ite_self, opsd_noteTrace, opsd_memWrite]; done)
    | simp only [↓opsd_mk, opsd_eta, opsd_ite, ite_self, opsd_noteTrace, opsd_memWrite]
    | (refine (opsd_foldl _ (fun _ _ => ?_) _ _).trans ?_)
    | (refine (opsd_foldl2 _ (fun _ _ => ?_) _ _).trans ?_)
    | split

theorem opsd_placeResult (ts : List Table) (ms : List Measure) (done : Bool) (s : State) : opsd (placeResult ts ms done s).2 = opsd s := by
  unfold placeResult
  repeat' first
    | rfl
    | (simp only [↓opsd_mk, opsd_eta, opsd_ite, ite_self, opsd_freshBytes]; done)
    | simp only [↓opsd_mk, opsd_eta, opsd_ite, ite_self, opsd_freshBytes]
    | (refine (opsd_foldl _ (fun _ _ => ?_) _ _).trans ?_)
    | (refine (opsd_foldl2 _ (fun _ _ => ?_) _ _).trans ?_)
    | split

theorem opsd_setImgs (s : State) (g : Bool) (l : Tab TextImg) : opsd (setImgs s g l) = opsd s := by
  unfold setImgs
  repeat' first
    | rfl
    | (simp only [↓opsd_mk, opsd_eta, opsd_ite, ite_self]; done)
    | simp only [↓opsd_mk, opsd_eta, opsd_ite, ite_self]
    | (refine (opsd_foldl _ (fun _ _ => ?_) _ _).trans ?_)
    | (refine (opsd_foldl2 _ (fun _ _ => ?_) _ _).trans ?_)
    | split

theorem opsd_imgDrop (s : State) (g : Bool) (slot : Nat) : opsd (imgDrop s g slot) = opsd s := by
  unfold imgDrop
  repeat' first
    | rfl
    | (simp only [↓opsd_mk, opsd_eta, opsd_ite, ite_self, opsd_setImgs, opsd_releasePages]; done)
    | simp only [↓opsd_mk, opsd_eta, opsd_ite, ite_self, opsd_setImgs, opsd_releasePages]
    | (refine (opsd_foldl _ (fun _ _ => ?_) _ _).trans ?_)
    | (refine (opsd_foldl2 _ (fun _ _ => ?_) _ _).trans ?_)
    | split

theorem opsd_hbAppend (s : State) (kind reason channel mode page : Nat) : opsd (hbAppend s kind reason channel mode page) = opsd s := by
  unfold hbAppend
  repeat' first
    | rfl
    | (simp only [↓opsd_mk, opsd_eta, opsd_ite, ite_self, opsd_postG]; done)
    | simp only [↓opsd_mk, opsd_eta, opsd_ite, ite_self, opsd_postG]
    | (refine (opsd_foldl _ (fun _ _ => ?_) _ _).trans ?_)
    | (refine (opsd_foldl2 _ (fun _ _ => ?_) _ _).trans ?_)
    | split

theorem opsd_refillRepair (s : State) : opsd (refillRepair s) = opsd s := by
  unfold refillRepair
  repeat' first
    | rfl
    | (simp only [↓opsd_mk, opsd_eta, opsd_ite, ite_self, opsd_setPage]; done)
    | simp only [↓opsd_mk, opsd_eta, opsd_ite, ite_self, opsd_setPage]
    | (refine (opsd_foldl _ (fun _ _ => ?_) _ _).trans ?_)
    | (refine (opsd_foldl2 _ (fun _ _ => ?_) _ _).trans ?_)
    | split

theorem opsd_sweepPage (s : State) (w : Sweep) (p : Nat) : opsd (sweepPage s w p) = opsd s := by
  unfold sweepPage
  repeat' first
    | rfl
    | (simp only [↓opsd_mk, opsd_eta, opsd_ite, ite_self, opsd_burstStore, opsd_noteBurst]; done)
    | simp only [↓opsd_mk, opsd_eta, opsd_ite, ite_self, opsd_burstStore, opsd_noteBurst]
    | (refine (opsd_foldl _ (fun _ _ => ?_) _ _).trans ?_)
    | (refine (opsd_foldl2 _ (fun _ _ => ?_) _ _).trans ?_)
    | split

theorem opsd_lowerWindow (s : State) (p n : Nat) : opsd (lowerWindow s p n) = opsd s := by
  unfold lowerWindow
  repeat' first
    | rfl
    | (simp only [↓opsd_mk, opsd_eta, opsd_ite, ite_self]; done)
    | simp only [↓opsd_mk, opsd_eta, opsd_ite, ite_self]
    | (refine (opsd_foldl _ (fun _ _ => ?_) _ _).trans ?_)
    | (refine (opsd_foldl2 _ (fun _ _ => ?_) _ _).trans ?_)
    | split

theorem opsd_resetSlot (s : State) (f k : Nat) : opsd (resetSlot s f k) = opsd s := by
  unfold resetSlot
  repeat' first
    | rfl
    | (simp only [↓opsd_mk, opsd_eta, opsd_ite, ite_self]; done)
    | simp only [↓opsd_mk, opsd_eta, opsd_ite, ite_self]
    | (refine (opsd_foldl _ (fun _ _ => ?_) _ _).trans ?_)
    | (refine (opsd_foldl2 _ (fun _ _ => ?_) _ _).trans ?_)
    | split

theorem opsd_dropQueues (s : State) (i : Nat) : opsd (dropQueues s i) = opsd s := by
  unfold dropQueues
  repeat' first
    | rfl
    | (simp only [↓opsd_mk, opsd_eta, opsd_ite, ite_self, opsd_sweepQueue]; done)
    | simp only [↓opsd_mk, opsd_eta, opsd_ite, ite_self, opsd_sweepQueue]
    | (refine (opsd_foldl _ (fun _ _ => ?_) _ _).trans ?_)
    | (refine (opsd_foldl2 _ (fun _ _ => ?_) _ _).trans ?_)
    | split

theorem opsd_unassign (s : State) (i f k : Nat) : opsd (unassign s i f k) = opsd s := by
  unfold unassign
  repeat' first
    | rfl
    | (simp only [↓opsd_mk, opsd_eta, opsd_ite, ite_self, opsd_resetSlot, opsd_dropQueues]; done)
    | simp only [↓opsd_mk, opsd_eta, opsd_ite, ite_self, opsd_resetSlot, opsd_dropQueues]
    | (refine (opsd_foldl _ (fun _ _ => ?_) _ _).trans ?_)
    | (refine (opsd_foldl2 _ (fun _ _ => ?_) _ _).trans ?_)
    | split

theorem opsd_unassignIn (s : State) (i : Nat) : opsd (unassignIn s i) = opsd s := by
  unfold unassignIn
  repeat' first
    | rfl
    | (simp only [↓opsd_mk, opsd_eta, opsd_ite, ite_self, opsd_unassign]; done)
    | simp only [↓opsd_mk, opsd_eta, opsd_ite, ite_self, opsd_unassign]
    | (refine (opsd_foldl _ (fun _ _ => ?_) _ _).trans ?_)
    | (refine (opsd_foldl2 _ (fun _ _ => ?_) _ _).trans ?_)
    | split

theorem opsd_destroyObjects (s : State) (p : Nat) : opsd (destroyObjects s p) = opsd s := by
  unfold destroyObjects
  repeat' first
    | (simp only [↓opsd_mk, opsd_eta, opsd_ite, ite_self, opsd_imgDrop, opsd_unmapFrom, opsd_releasePages, opsd_dropTable]; done)
    | simp only [↓opsd_mk, opsd_eta, opsd_ite, ite_self, opsd_imgDrop, opsd_unmapFrom, opsd_releasePages, opsd_dropTable]
    | (refine (opsd_foldl _ (fun _ _ => ?_) _ _).trans ?_)
    | (refine (opsd_foldl2 _ (fun _ _ => ?_) _ _).trans ?_)
    | split
    | rfl

theorem opsd_zeroPages (s : State) (p : Nat) : opsd (zeroPages s p) = opsd s := by
  unfold zeroPages
  repeat' first
    | rfl
    | (simp only [↓opsd_mk, opsd_eta, opsd_ite, ite_self, opsd_setPage, opsd_zeroPage]; done)
    | simp only [↓opsd_mk, opsd_eta, opsd_ite, ite_self, opsd_setPage, opsd_zeroPage]
    | (refine (opsd_foldl _ (fun _ _ => ?_) _ _).trans ?_)
    | (refine (opsd_foldl2 _ (fun _ _ => ?_) _ _).trans ?_)
    | split

theorem opsd_setRoles (s : State) (b : List Byte) : opsd (setRoles s b) = opsd s := by
  unfold setRoles
  repeat' first
    | (simp only [↓opsd_mk, opsd_eta, opsd_ite, ite_self, opsd_setLink]; done)
    | simp only [↓opsd_mk, opsd_eta, opsd_ite, ite_self, opsd_setLink]
    | (refine (opsd_foldl _ (fun _ _ => ?_) _ _).trans ?_)
    | (refine (opsd_foldl2 _ (fun _ _ => ?_) _ _).trans ?_)
    | split
    | rfl

theorem opsd_lowerLink (s : State) (l : Nat) : opsd (lowerLink s l) = opsd s := by
  unfold lowerLink
  repeat' first
    | rfl
    | (simp only [↓opsd_mk, opsd_eta, opsd_ite, ite_self, opsd_toTraining, opsd_failover]; done)
    | simp only [↓opsd_mk, opsd_eta, opsd_ite, ite_self, opsd_toTraining, opsd_failover]
    | (refine (opsd_foldl _ (fun _ _ => ?_) _ _).trans ?_)
    | (refine (opsd_foldl2 _ (fun _ _ => ?_) _ _).trans ?_)
    | split

end Sys2Proof.Machine
end

