-- ==== Sys2Proof/Laws/TaskEnd.lean ====
section
/-! SUPPORT. What giving back a task's holdings leaves alone: the host writes issued, every stream's STR_CPL_IDX, slot and text state, and
the registers in effect and committed. One lemma for each operation that a task's end and its reads and records call. -/

set_option Elab.async false
set_option linter.unusedSimpArgs false
set_option linter.unusedTactic false
set_option linter.unreachableTactic false
set_option linter.unusedVariables false

namespace Sys2Proof.Machine

/-- The parts of the state that the end of a task leaves alone. -/
structure AtEnd where
  writes : List HostWrite
  cpls : Nat → W32 × Option (Nat × Nat) × TextSt × Nat
  eff : Tab W32
  com : Tab W32

/-- Those parts of a state. -/
def atEnd (s : State) : AtEnd := ⟨s.hif.writes, fun j => ((lkD s.streams j Stream.idle).cpl, (lkD s.streams j Stream.idle).slot, (lkD s.streams j Stream.idle).text, (lkD s.streams j Stream.idle).holdUntil), s.cfg.effective, s.cfg.committed⟩

theorem atEnd_mk pending ident clk evt cfg hif mbx ops opNext fw mem parts pages tables adapters bindings streams pod pwr pins bg mgmt jtag gal locks cores quo profiles grammars units unitWait rr stallRem freeCtr : atEnd (State.mk pending ident clk evt cfg hif mbx ops opNext fw mem parts pages tables adapters bindings streams pod pwr pins bg mgmt jtag gal locks cores quo profiles grammars units unitWait rr stallRem freeCtr) = ⟨hif.writes, fun j => ((lkD streams j Stream.idle).cpl, (lkD streams j Stream.idle).slot, (lkD streams j Stream.idle).text, (lkD streams j Stream.idle).holdUntil), cfg.effective, cfg.committed⟩ := rfl

theorem atEnd_eta (s : State) : (⟨s.hif.writes, fun j => ((lkD s.streams j Stream.idle).cpl, (lkD s.streams j Stream.idle).slot, (lkD s.streams j Stream.idle).text, (lkD s.streams j Stream.idle).holdUntil), s.cfg.effective, s.cfg.committed⟩ : AtEnd) = atEnd s := rfl

theorem atEnd_ite {c : Prop} [Decidable c] (a b : State) : atEnd (if c then a else b) = if c then atEnd a else atEnd b := by split <;> rfl

theorem atEnd_foldl {α : Type} (f : State → α → State) (hf : ∀ s x, atEnd (f s x) = atEnd s) (l : List α) (s : State) : atEnd (l.foldl f s) = atEnd s := by
  induction l generalizing s with
  | nil => rfl
  | cons x l ih => rw [List.foldl_cons, ih, hf]

theorem atEnd_foldl2 {α β : Type} (f : β × State → α → β × State) (hf : ∀ p x, atEnd (f p x).2 = atEnd p.2) (l : List α) (p : β × State) : atEnd (l.foldl f p).2 = atEnd p.2 := by
  induction l generalizing p with
  | nil => rfl
  | cons x l ih => rw [List.foldl_cons, ih, hf]

theorem atEnd_cntAdd (s : State) (k n : Nat) : atEnd (cntAdd s k n) = atEnd s := by
  unfold cntAdd
  repeat' first
    | rfl
    | (simp only [↓atEnd_mk, atEnd_eta, atEnd_ite, ite_self]; done)
    | simp only [↓atEnd_mk, atEnd_eta, atEnd_ite, ite_self]
    | (refine (atEnd_foldl _ (fun _ _ => ?_) _ _).trans ?_)
    | (refine (atEnd_foldl2 _ (fun _ _ => ?_) _ _).trans ?_)
    | split

theorem atEnd_postOne (s : State) (log : Nat) (r : EvRec) : atEnd (postOne s log r) = atEnd s := by
  unfold postOne
  repeat' first
    | rfl
    | (simp only [↓atEnd_mk, atEnd_eta, atEnd_ite, ite_self]; done)
    | simp only [↓atEnd_mk, atEnd_eta, atEnd_ite, ite_self]
    | (refine (atEnd_foldl _ (fun _ _ => ?_) _ _).trans ?_)
    | (refine (atEnd_foldl2 _ (fun _ _ => ?_) _ _).trans ?_)
    | split

theorem atEnd_postG (s : State) (type sev p0 p1 p2 p3 : Nat) : atEnd (postG s type sev p0 p1 p2 p3) = atEnd s := by
  unfold postG
  repeat' first
    | rfl
    | (simp only [↓atEnd_mk, atEnd_eta, atEnd_ite, ite_self, atEnd_postOne]; done)
    | simp only [↓atEnd_mk, atEnd_eta, atEnd_ite, ite_self, atEnd_postOne]
    | (refine (atEnd_foldl _ (fun _ _ => ?_) _ _).trans ?_)
    | (refine (atEnd_foldl2 _ (fun _ _ => ?_) _ _).trans ?_)
    | split

theorem atEnd_postP (s : State) (part type sev p0 p1 p2 p3 : Nat) : atEnd (postP s part type sev p0 p1 p2 p3) = atEnd s := by
  unfold postP
  repeat' first
    | rfl
    | (simp only [↓atEnd_mk, atEnd_eta, atEnd_ite, ite_self, atEnd_postOne]; done)
    | simp only [↓atEnd_mk, atEnd_eta, atEnd_ite, ite_self, atEnd_postOne]
    | (refine (atEnd_foldl _ (fun _ _ => ?_) _ _).trans ?_)
    | (refine (atEnd_foldl2 _ (fun _ _ => ?_) _ _).trans ?_)
    | split

theorem atEnd_setPage (s : State) (p : Nat) (u : PageUse) : atEnd (setPage s p u) = atEnd s := by
  unfold setPage
  repeat' first
    | rfl
    | (simp only [↓atEnd_mk, atEnd_eta, atEnd_ite, ite_self]; done)
    | simp only [↓atEnd_mk, atEnd_eta, atEnd_ite, ite_self]
    | (refine (atEnd_foldl _ (fun _ _ => ?_) _ _).trans ?_)
    | (refine (atEnd_foldl2 _ (fun _ _ => ?_) _ _).trans ?_)
    | split

theorem atEnd_rrServe (s : State) (arb own : Nat) : atEnd (rrServe s arb own) = atEnd s := by
  unfold rrServe
  repeat' first
    | rfl
    | (simp only [↓atEnd_mk, atEnd_eta, atEnd_ite, ite_self]; done)
    | simp only [↓atEnd_mk, atEnd_eta, atEnd_ite, ite_self]
    | (refine (atEnd_foldl _ (fun _ _ => ?_) _ _).trans ?_)
    | (refine (atEnd_foldl2 _ (fun _ _ => ?_) _ _).trans ?_)
    | split

theorem atEnd_setCell (s : State) (k : Nat) (b : Byte) : atEnd (setCell s k b) = atEnd s := by
  unfold setCell
  repeat' first
    | rfl
    | (simp only [↓atEnd_mk, atEnd_eta, atEnd_ite, ite_self]; done)
    | simp only [↓atEnd_mk, atEnd_eta, atEnd_ite, ite_self]
    | (refine (atEnd_foldl _ (fun _ _ => ?_) _ _).trans ?_)
    | (refine (atEnd_foldl2 _ (fun _ _ => ?_) _ _).trans ?_)
    | split

theorem atEnd_setCells (s : State) (k : Nat) (l : List Byte) : atEnd (setCells s k l) = atEnd s := by
  induction l generalizing s k with
  | nil => rfl
  | cons b l ih => rw [setCells, ih, atEnd_setCell]

theorem atEnd_setPoison (s : State) (b : BRef) (v : Bool) : atEnd (setPoison s b v) = atEnd s := by
  unfold setPoison
  repeat' first
    | rfl
    | (simp only [↓atEnd_mk, atEnd_eta, atEnd_ite, ite_self, atEnd_setCell]; done)
    | simp only [↓atEnd_mk, atEnd_eta, atEnd_ite, ite_self, atEnd_setCell]
    | (refine (atEnd_foldl _ (fun _ _ => ?_) _ _).trans ?_)
    | (refine (atEnd_foldl2 _ (fun _ _ => ?_) _ _).trans ?_)
    | split

theorem atEnd_burstStore (s : State) (b : BRef) (data : List Byte) (poison : Bool) : atEnd (burstStore s b data poison) = atEnd s := by
  unfold burstStore
  repeat' first
    | rfl
    | (simp only [↓atEnd_mk, atEnd_eta, atEnd_ite, ite_self, atEnd_setCells, atEnd_setPoison]; done)
    | simp only [↓atEnd_mk, atEnd_eta, atEnd_ite, ite_self, atEnd_setCells, atEnd_setPoison]
    | (refine (atEnd_foldl _ (fun _ _ => ?_) _ _).trans ?_)
    | (refine (atEnd_foldl2 _ (fun _ _ => ?_) _ _).trans ?_)
    | split

theorem atEnd_noteCorrected (s : State) (b : BRef) (pa : Nat) : atEnd (noteCorrected s b pa) = atEnd s := by
  unfold noteCorrected
  repeat' first
    | rfl
    | (simp only [↓atEnd_mk, atEnd_eta, atEnd_ite, ite_self, atEnd_cntAdd]; done)
    | simp only [↓atEnd_mk, atEnd_eta, atEnd_ite, ite_self, atEnd_cntAdd]
    | (refine (atEnd_foldl _ (fun _ _ => ?_) _ _).trans ?_)
    | (refine (atEnd_foldl2 _ (fun _ _ => ?_) _ _).trans ?_)
    | split

theorem atEnd_noteUncorrectable (s : State) (c j pa : Nat) (src : RdSrc) : atEnd (noteUncorrectable s c j pa src) = atEnd s := by
  unfold noteUncorrectable
  repeat' first
    | rfl
    | (simp only [↓atEnd_mk, atEnd_eta, atEnd_ite, ite_self, atEnd_cntAdd, atEnd_postG]; done)
    | simp only [↓atEnd_mk, atEnd_eta, atEnd_ite, ite_self, atEnd_cntAdd, atEnd_postG]
    | (refine (atEnd_foldl _ (fun _ _ => ?_) _ _).trans ?_)
    | (refine (atEnd_foldl2 _ (fun _ _ => ?_) _ _).trans ?_)
    | split

theorem atEnd_noteBurst (s : State) (p i j : Nat) (src : RdSrc) : atEnd (noteBurst s p i j src) = atEnd s := by
  unfold noteBurst
  repeat' first
    | rfl
    | (simp only [↓atEnd_mk, atEnd_eta, atEnd_ite, ite_self, atEnd_noteUncorrectable, atEnd_cntAdd, atEnd_noteCorrected]; done)
    | simp only [↓atEnd_mk, atEnd_eta, atEnd_ite, ite_self, atEnd_noteUncorrectable, atEnd_cntAdd, atEnd_noteCorrected]
    | (refine (atEnd_foldl _ (fun _ _ => ?_) _ _).trans ?_)
    | (refine (atEnd_foldl2 _ (fun _ _ => ?_) _ _).trans ?_)
    | split

theorem atEnd_setWcb (s : State) (c : Nat) (l : List Wcb) : atEnd (setWcb s c l) = atEnd s := by
  unfold setWcb
  repeat' first
    | rfl
    | (simp only [↓atEnd_mk, atEnd_eta, atEnd_ite, ite_self]; done)
    | simp only [↓atEnd_mk, atEnd_eta, atEnd_ite, ite_self]
    | (refine (atEnd_foldl _ (fun _ _ => ?_) _ _).trans ?_)
    | (refine (atEnd_foldl2 _ (fun _ _ => ?_) _ _).trans ?_)
    | split

theorem atEnd_wcbMerge (s : State) (c : Nat) (w : Wcb) : atEnd (wcbMerge s c w) = atEnd s := by
  unfold wcbMerge
  repeat' first
    | (simp only [↓atEnd_mk, atEnd_eta, atEnd_ite, ite_self, atEnd_noteUncorrectable, atEnd_setWcb, atEnd_cntAdd, atEnd_noteCorrected, atEnd_burstStore]; done)
    | simp only [↓atEnd_mk, atEnd_eta, atEnd_ite, ite_self, atEnd_noteUncorrectable, atEnd_setWcb, atEnd_cntAdd, atEnd_noteCorrected, atEnd_burstStore]
    | (refine (atEnd_foldl _ (fun _ _ => ?_) _ _).trans ?_)
    | (refine (atEnd_foldl2 _ (fun _ _ => ?_) _ _).trans ?_)
    | split
    | rfl

theorem atEnd_burstWrite (s : State) (b : BRef) (pa : Nat) (v : Tab Byte) (poison : Bool) : atEnd (burstWrite s b pa v poison) = atEnd s := by
  unfold burstWrite
  repeat' first
    | rfl
    | (simp only [↓atEnd_mk, atEnd_eta, atEnd_ite, ite_self, atEnd_setWcb, atEnd_wcbMerge, atEnd_burstStore]; done)
    | simp only [↓atEnd_mk, atEnd_eta, atEnd_ite, ite_self, atEnd_setWcb, atEnd_wcbMerge, atEnd_burstStore]
    | (refine (atEnd_foldl _ (fun _ _ => ?_) _ _).trans ?_)
    | (refine (atEnd_foldl2 _ (fun _ _ => ?_) _ _).trans ?_)
    | split

theorem atEnd_pageBurstWrite (s : State) (p i j : Nat) (v : Tab Byte) (poison : Bool) : atEnd (pageBurstWrite s p i j v poison) = atEnd s := by
  unfold pageBurstWrite
  repeat' first
    | rfl
    | (simp only [↓atEnd_mk, atEnd_eta, atEnd_ite, ite_self, atEnd_cntAdd, atEnd_burstWrite]; done)
    | simp only [↓atEnd_mk, atEnd_eta, atEnd_ite, ite_self, atEnd_cntAdd, atEnd_burstWrite]
    | (refine (atEnd_foldl _ (fun _ _ => ?_) _ _).trans ?_)
    | (refine (atEnd_foldl2 _ (fun _ _ => ?_) _ _).trans ?_)
    | split

theorem atEnd_noteRead (s : State) (pa n : Nat) (src : RdSrc) : atEnd (noteRead s pa n src) = atEnd s := by
  unfold noteRead
  repeat' first
    | rfl
    | (simp only [↓atEnd_mk, atEnd_eta, atEnd_ite, ite_self, atEnd_noteBurst]; done)
    | simp only [↓atEnd_mk, atEnd_eta, atEnd_ite, ite_self, atEnd_noteBurst]
    | (refine (atEnd_foldl _ (fun _ _ => ?_) _ _).trans ?_)
    | (refine (atEnd_foldl2 _ (fun _ _ => ?_) _ _).trans ?_)
    | split

theorem atEnd_memWrite (s : State) (pa : Nat) (bytes : List Byte) (poison : Bool) : atEnd (memWrite s pa bytes poison) = atEnd s := by
  unfold memWrite
  repeat' first
    | rfl
    | (simp only [↓atEnd_mk, atEnd_eta, atEnd_ite, ite_self, atEnd_pageBurstWrite]; done)
    | simp only [↓atEnd_mk, atEnd_eta, atEnd_ite, ite_self, atEnd_pageBurstWrite]
    | (refine (atEnd_foldl _ (fun _ _ => ?_) _ _).trans ?_)
    | (refine (atEnd_foldl2 _ (fun _ _ => ?_) _ _).trans ?_)
    | split

theorem atEnd_releasePages (s : State) (owner : Nat) (l : List Nat) : atEnd (releasePages s owner l) = atEnd s := by
  unfold releasePages
  repeat' first
    | rfl
    | (simp only [↓atEnd_mk, atEnd_eta, atEnd_ite, ite_self, atEnd_setPage]; done)
    | simp only [↓atEnd_mk, atEnd_eta, atEnd_ite, ite_self, atEnd_setPage]
    | (refine (atEnd_foldl _ (fun _ _ => ?_) _ _).trans ?_)
    | (refine (atEnd_foldl2 _ (fun _ _ => ?_) _ _).trans ?_)
    | split

theorem atEnd_setTable (s : State) (t : Table) : atEnd (setTable s t) = atEnd s := by
  unfold setTable
  repeat' first
    | rfl
    | (simp only [↓atEnd_mk, atEnd_eta, atEnd_ite, ite_self]; done)
    | simp only [↓atEnd_mk, atEnd_eta, atEnd_ite, ite_self]
    | (refine (atEnd_foldl _ (fun _ _ => ?_) _ _).trans ?_)
    | (refine (atEnd_foldl2 _ (fun _ _ => ?_) _ _).trans ?_)
    | split

theorem atEnd_sendMsg (s : State) (dst part : Nat) (b : MsgBody) : atEnd (sendMsg s dst part b) = atEnd s := by
  unfold sendMsg
  repeat' first
    | rfl
    | (simp only [↓atEnd_mk, atEnd_eta, atEnd_ite, ite_self]; done)
    | simp only [↓atEnd_mk, atEnd_eta, atEnd_ite, ite_self]
    | (refine (atEnd_foldl _ (fun _ _ => ?_) _ _).trans ?_)
    | (refine (atEnd_foldl2 _ (fun _ _ => ?_) _ _).trans ?_)
    | split

theorem atEnd_newReq (s : State) : atEnd (newReq s).2 = atEnd s := by
  unfold newReq
  repeat' first
    | rfl
    | (simp only [↓atEnd_mk, atEnd_eta, atEnd_ite, ite_self]; done)
    | simp only [↓atEnd_mk, atEnd_eta, atEnd_ite, ite_self]
    | (refine (atEnd_foldl _ (fun _ _ => ?_) _ _).trans ?_)
    | (refine (atEnd_foldl2 _ (fun _ _ => ?_) _ _).trans ?_)
    | split

theorem atEnd_openExch (s : State) (dst part : Nat) (b : MsgBody) : atEnd (openExch s dst part b).2 = atEnd s := by
  unfold openExch
  repeat' first
    | rfl
    | (simp only [↓atEnd_mk, atEnd_eta, atEnd_ite, ite_self, atEnd_newReq, atEnd_sendMsg]; done)
    | simp only [↓atEnd_mk, atEnd_eta, atEnd_ite, ite_self, atEnd_newReq, atEnd_sendMsg]
    | (refine (atEnd_foldl _ (fun _ _ => ?_) _ _).trans ?_)
    | (refine (atEnd_foldl2 _ (fun _ _ => ?_) _ _).trans ?_)
    | split

theorem atEnd_noteTrace (s : State) (src : RdSrc) (done : List Nat) (tr : List Acc) : atEnd (noteTrace s src done tr) = atEnd s := by
  unfold noteTrace
  repeat' first
    | rfl
    | (simp only [↓atEnd_mk, atEnd_eta, atEnd_ite, ite_self, atEnd_noteRead]; done)
    | simp only [↓atEnd_mk, atEnd_eta, atEnd_ite, ite_self, atEnd_noteRead]
    | (refine (atEnd_foldl _ (fun _ _ => ?_) _ _).trans ?_)
    | (refine (atEnd_foldl2 _ (fun _ _ => ?_) _ _).trans ?_)
    | split

theorem atEnd_setTask (s : State) (i : Nat) (t : TaskRun) : atEnd (setTask s i t) = atEnd s := by
  simp only [setTask, setStream, atEnd_mk]
  rw [← atEnd_eta s]
  congr 1
  funext j
  by_cases h : j = i
  · subst h; simp [stream]
  · simp [lkD_put_ne _ _ _ h]

theorem atEnd_dropOld (s : State) (i : Nat) : atEnd (dropOld s i) = atEnd s := by
  unfold dropOld
  repeat' first
    | rfl
    | (simp only [↓atEnd_mk, atEnd_eta, atEnd_ite, ite_self, atEnd_releasePages]; done)
    | simp only [↓atEnd_mk, atEnd_eta, atEnd_ite, ite_self, atEnd_releasePages]
    | (refine (atEnd_foldl _ (fun _ _ => ?_) _ _).trans ?_)
    | (refine (atEnd_foldl2 _ (fun _ _ => ?_) _ _).trans ?_)
    | split

theorem atEnd_freeAdapter (s : State) (i : Nat) (a : Adapter) : atEnd (freeAdapter s i a) = atEnd s := by
  unfold freeAdapter
  repeat' first
    | rfl
    | (simp only [↓atEnd_mk, atEnd_eta, atEnd_ite, ite_self, atEnd_setPage]; done)
    | simp only [↓atEnd_mk, atEnd_eta, atEnd_ite, ite_self, atEnd_setPage]
    | (refine (atEnd_foldl _ (fun _ _ => ?_) _ _).trans ?_)
    | (refine (atEnd_foldl2 _ (fun _ _ => ?_) _ _).trans ?_)
    | split

theorem atEnd_dropAdapter (s : State) (i : Nat) : atEnd (dropAdapter s i) = atEnd s := by
  unfold dropAdapter
  repeat' first
    | rfl
    | (simp only [↓atEnd_mk, atEnd_eta, atEnd_ite, ite_self, atEnd_freeAdapter]; done)
    | simp only [↓atEnd_mk, atEnd_eta, atEnd_ite, ite_self, atEnd_freeAdapter]
    | (refine (atEnd_foldl _ (fun _ _ => ?_) _ _).trans ?_)
    | (refine (atEnd_foldl2 _ (fun _ _ => ?_) _ _).trans ?_)
    | split

theorem atEnd_dropSegs (s : State) (i : Nat) : atEnd (dropSegs s i) = atEnd s := by
  unfold dropSegs
  repeat' first
    | rfl
    | (simp only [↓atEnd_mk, atEnd_eta, atEnd_ite, ite_self]; done)
    | simp only [↓atEnd_mk, atEnd_eta, atEnd_ite, ite_self]
    | (refine (atEnd_foldl _ (fun _ _ => ?_) _ _).trans ?_)
    | (refine (atEnd_foldl2 _ (fun _ _ => ?_) _ _).trans ?_)
    | split

theorem atEnd_dropRefused (s : State) (f : Nat) : atEnd (dropRefused s f) = atEnd s := by
  unfold dropRefused
  repeat' first
    | rfl
    | (simp only [↓atEnd_mk, atEnd_eta, atEnd_ite, ite_self]; done)
    | simp only [↓atEnd_mk, atEnd_eta, atEnd_ite, ite_self]
    | (refine (atEnd_foldl _ (fun _ _ => ?_) _ _).trans ?_)
    | (refine (atEnd_foldl2 _ (fun _ _ => ?_) _ _).trans ?_)
    | split

theorem atEnd_endFold (s : State) (i : Nat) (t : TaskRun) (status : Nat) : atEnd (endFold s i t status) = atEnd s := by
  unfold endFold
  repeat' first
    | rfl
    | (simp only [↓atEnd_mk, atEnd_eta, atEnd_ite, ite_self]; done)
    | simp only [↓atEnd_mk, atEnd_eta, atEnd_ite, ite_self]
    | (refine (atEnd_foldl _ (fun _ _ => ?_) _ _).trans ?_)
    | (refine (atEnd_foldl2 _ (fun _ _ => ?_) _ _).trans ?_)
    | split

theorem atEnd_dropUnit (s : State) (i : Nat) : atEnd (dropUnit s i) = atEnd s := by
  unfold dropUnit
  repeat' first
    | rfl
    | (simp only [↓atEnd_mk, atEnd_eta, atEnd_ite, ite_self]; done)
    | simp only [↓atEnd_mk, atEnd_eta, atEnd_ite, ite_self]
    | (refine (atEnd_foldl _ (fun _ _ => ?_) _ _).trans ?_)
    | (refine (atEnd_foldl2 _ (fun _ _ => ?_) _ _).trans ?_)
    | split

theorem atEnd_dropHeld (s : State) (i : Nat) : atEnd (dropHeld s i) = atEnd s := by
  unfold dropHeld
  repeat' first
    | rfl
    | (simp only [↓atEnd_mk, atEnd_eta, atEnd_ite, ite_self, atEnd_dropAdapter, atEnd_dropOld]; done)
    | simp only [↓atEnd_mk, atEnd_eta, atEnd_ite, ite_self, atEnd_dropAdapter, atEnd_dropOld]
    | (refine (atEnd_foldl _ (fun _ _ => ?_) _ _).trans ?_)
    | (refine (atEnd_foldl2 _ (fun _ _ => ?_) _ _).trans ?_)
    | split

theorem atEnd_endTask (s : State) (i : Nat) (t : TaskRun) (r : Rec) : atEnd (endTask s i t r) = atEnd s := by
  unfold endTask
  repeat' first
    | rfl
    | (simp only [↓atEnd_mk, atEnd_eta, atEnd_ite, ite_self, atEnd_endFold, atEnd_setTask, atEnd_dropUnit, atEnd_dropHeld, atEnd_dropRefused, atEnd_dropSegs]; done)
    | simp only [↓atEnd_mk, atEnd_eta, atEnd_ite, ite_self, atEnd_endFold, atEnd_setTask, atEnd_dropUnit, atEnd_dropHeld, atEnd_dropRefused, atEnd_dropSegs]
    | (refine (atEnd_foldl _ (fun _ _ => ?_) _ _).trans ?_)
    | (refine (atEnd_foldl2 _ (fun _ _ => ?_) _ _).trans ?_)
    | split

theorem atEnd_postTask (s : State) (i : Nat) (t : TaskRun) (type sev p0 p1 p2 p3 : Nat) : atEnd (postTask s i t type sev p0 p1 p2 p3) = atEnd s := by
  unfold postTask
  repeat' first
    | rfl
    | (simp only [↓atEnd_mk, atEnd_eta, atEnd_ite, ite_self, atEnd_postOne]; done)
    | simp only [↓atEnd_mk, atEnd_eta, atEnd_ite, ite_self, atEnd_postOne]
    | (refine (atEnd_foldl _ (fun _ _ => ?_) _ _).trans ?_)
    | (refine (atEnd_foldl2 _ (fun _ _ => ?_) _ _).trans ?_)
    | split

theorem atEnd_setStream (s : State) (i : Nat) (x : Stream) (h : x.cpl = (stream s i).cpl) (h' : x.slot = (stream s i).slot) (h'' : x.text = (stream s i).text)
    (h3 : x.holdUntil = (stream s i).holdUntil) : atEnd (setStream s i x) = atEnd s := by
  simp only [setStream, atEnd_mk]
  rw [← atEnd_eta s]
  congr 1
  funext j
  by_cases hj : j = i
  · subst hj; simp [h, h', h'', h3, stream]
  · simp [lkD_put_ne _ _ _ hj]

theorem atEnd_takeReads (s : State) (i : Nat) (l : List Acc) : atEnd (takeReads s i l) = atEnd s := by
  unfold takeReads
  simp only [atEnd_cntAdd]
  simp only [↓atEnd_mk, atEnd_eta]
  exact atEnd_setStream s i _ rfl rfl rfl rfl

theorem atEnd_chargeReads (s : State) (i : Nat) (t : TaskRun) (tr : List Acc) : atEnd (chargeReads s i t tr).2.2 = atEnd s := by
  unfold chargeReads
  simp only []
  split
  · simp only [↓atEnd_mk, atEnd_eta, atEnd_takeReads]
  · exact atEnd_takeReads _ _ _

theorem atEnd_postRowPoisoned (s : State) (t : Table) (x : Store) (row l : Nat) : atEnd (postRowPoisoned s t x row l) = atEnd s := by
  unfold postRowPoisoned
  repeat' first
    | rfl
    | (simp only [↓atEnd_mk, atEnd_eta, atEnd_ite, ite_self, atEnd_postG]; done)
    | simp only [↓atEnd_mk, atEnd_eta, atEnd_ite, ite_self, atEnd_postG]
    | (refine (atEnd_foldl _ (fun _ _ => ?_) _ _).trans ?_)
    | (refine (atEnd_foldl2 _ (fun _ _ => ?_) _ _).trans ?_)
    | split

theorem atEnd_postPoison (s : State) (i : Nat) (t : TaskRun) (handle : Nat) (bags : List BagOut) : atEnd (postPoison s i t handle bags) = atEnd s := by
  unfold postPoison
  repeat' first
    | rfl
    | (simp only [↓atEnd_mk, atEnd_eta, atEnd_ite, ite_self, atEnd_postTask]; done)
    | simp only [↓atEnd_mk, atEnd_eta, atEnd_ite, ite_self, atEnd_postTask]
    | (refine (atEnd_foldl _ (fun _ _ => ?_) _ _).trans ?_)
    | (refine (atEnd_foldl2 _ (fun _ _ => ?_) _ _).trans ?_)
    | split

theorem atEnd_gatherCount (s : State) (f : Nat) (bags : List BagOut) (adapted : Bool) : atEnd (gatherCount s f bags adapted) = atEnd s := by
  unfold gatherCount
  repeat' first
    | (simp only [↓atEnd_mk, atEnd_eta, atEnd_ite, ite_self, atEnd_cntAdd]; done)
    | simp only [↓atEnd_mk, atEnd_eta, atEnd_ite, ite_self, atEnd_cntAdd]
    | (refine (atEnd_foldl _ (fun _ _ => ?_) _ _).trans ?_)
    | (refine (atEnd_foldl2 _ (fun _ _ => ?_) _ _).trans ?_)
    | split
    | rfl

theorem atEnd_setDom (s : State) (d v : Nat) : atEnd (setDom s d v) = atEnd s := by
  unfold setDom
  repeat' first
    | rfl
    | (simp only [↓atEnd_mk, atEnd_eta, atEnd_ite, ite_self]; done)
    | simp only [↓atEnd_mk, atEnd_eta, atEnd_ite, ite_self]
    | (refine (atEnd_foldl _ (fun _ _ => ?_) _ _).trans ?_)
    | (refine (atEnd_foldl2 _ (fun _ _ => ?_) _ _).trans ?_)
    | split

theorem atEnd_demandOn (s : State) (d : Nat) : atEnd (demandOn s d) = atEnd s := by
  unfold demandOn
  repeat' first
    | rfl
    | (simp only [↓atEnd_mk, atEnd_eta, atEnd_ite, ite_self, atEnd_setDom]; done)
    | simp only [↓atEnd_mk, atEnd_eta, atEnd_ite, ite_self, atEnd_setDom]
    | (refine (atEnd_foldl _ (fun _ _ => ?_) _ _).trans ?_)
    | (refine (atEnd_foldl2 _ (fun _ _ => ?_) _ _).trans ?_)
    | split

theorem atEnd_setEntry (s : State) (c : Nat) (m : Entry) : atEnd (setEntry s c m) = atEnd s := by
  unfold setEntry
  repeat' first
    | rfl
    | (simp only [↓atEnd_mk, atEnd_eta, atEnd_ite, ite_self]; done)
    | simp only [↓atEnd_mk, atEnd_eta, atEnd_ite, ite_self]
    | (refine (atEnd_foldl _ (fun _ _ => ?_) _ _).trans ?_)
    | (refine (atEnd_foldl2 _ (fun _ _ => ?_) _ _).trans ?_)
    | split

theorem atEnd_galFnAdd (s : State) (owner o n : Nat) : atEnd (galFnAdd s owner o n) = atEnd s := by
  unfold galFnAdd
  repeat' first
    | rfl
    | (simp only [↓atEnd_mk, atEnd_eta, atEnd_ite, ite_self, atEnd_cntAdd]; done)
    | simp only [↓atEnd_mk, atEnd_eta, atEnd_ite, ite_self, atEnd_cntAdd]
    | (refine (atEnd_foldl _ (fun _ _ => ?_) _ _).trans ?_)
    | (refine (atEnd_foldl2 _ (fun _ _ => ?_) _ _).trans ?_)
    | split

theorem atEnd_setGq (s : State) (q : Nat) (x : GQueue) : atEnd (setGq s q x) = atEnd s := by
  unfold setGq
  repeat' first
    | rfl
    | (simp only [↓atEnd_mk, atEnd_eta, atEnd_ite, ite_self]; done)
    | simp only [↓atEnd_mk, atEnd_eta, atEnd_ite, ite_self]
    | (refine (atEnd_foldl _ (fun _ _ => ?_) _ _).trans ?_)
    | (refine (atEnd_foldl2 _ (fun _ _ => ?_) _ _).trans ?_)
    | split

theorem atEnd_charge (s : State) (o k acct : Nat) : atEnd (charge s o k acct) = atEnd s := by
  unfold charge
  repeat' first
    | rfl
    | (simp only [↓atEnd_mk, atEnd_eta, atEnd_ite, ite_self]; done)
    | simp only [↓atEnd_mk, atEnd_eta, atEnd_ite, ite_self]
    | (refine (atEnd_foldl _ (fun _ _ => ?_) _ _).trans ?_)
    | (refine (atEnd_foldl2 _ (fun _ _ => ?_) _ _).trans ?_)
    | split

theorem atEnd_uncharge (s : State) (o k acct : Nat) : atEnd (uncharge s o k acct) = atEnd s := by
  unfold uncharge
  repeat' first
    | rfl
    | (simp only [↓atEnd_mk, atEnd_eta, atEnd_ite, ite_self]; done)
    | simp only [↓atEnd_mk, atEnd_eta, atEnd_ite, ite_self]
    | (refine (atEnd_foldl _ (fun _ _ => ?_) _ _).trans ?_)
    | (refine (atEnd_foldl2 _ (fun _ _ => ?_) _ _).trans ?_)
    | split

theorem atEnd_setFree (s : State) (h t n : Nat) : atEnd (setFree s h t n) = atEnd s := by
  unfold setFree
  repeat' first
    | rfl
    | (simp only [↓atEnd_mk, atEnd_eta, atEnd_ite, ite_self]; done)
    | simp only [↓atEnd_mk, atEnd_eta, atEnd_ite, ite_self]
    | (refine (atEnd_foldl _ (fun _ _ => ?_) _ _).trans ?_)
    | (refine (atEnd_foldl2 _ (fun _ _ => ?_) _ _).trans ?_)
    | split

theorem atEnd_freeCell (s : State) (c : Nat) : atEnd (freeCell s c) = atEnd s := by
  unfold freeCell
  repeat' first
    | rfl
    | (simp only [↓atEnd_mk, atEnd_eta, atEnd_ite, ite_self, atEnd_setEntry, atEnd_setFree]; done)
    | simp only [↓atEnd_mk, atEnd_eta, atEnd_ite, ite_self, atEnd_setEntry, atEnd_setFree]
    | (refine (atEnd_foldl _ (fun _ _ => ?_) _ _).trans ?_)
    | (refine (atEnd_foldl2 _ (fun _ _ => ?_) _ _).trans ?_)
    | split

theorem atEnd_recharge (s : State) : atEnd (recharge s) = atEnd s := by
  unfold recharge
  repeat' first
    | rfl
    | (simp only [↓atEnd_mk, atEnd_eta, atEnd_ite, ite_self, atEnd_charge]; done)
    | simp only [↓atEnd_mk, atEnd_eta, atEnd_ite, ite_self, atEnd_charge]
    | (refine (atEnd_foldl _ (fun _ _ => ?_) _ _).trans ?_)
    | (refine (atEnd_foldl2 _ (fun _ _ => ?_) _ _).trans ?_)
    | split

theorem atEnd_withdraw (s : State) (l : List Nat) : atEnd (withdraw s l) = atEnd s := by
  unfold withdraw
  repeat' first
    | rfl
    | (simp only [↓atEnd_mk, atEnd_eta, atEnd_ite, ite_self, atEnd_cntAdd, atEnd_recharge]; done)
    | simp only [↓atEnd_mk, atEnd_eta, atEnd_ite, ite_self, atEnd_cntAdd, atEnd_recharge]
    | (refine (atEnd_foldl _ (fun _ _ => ?_) _ _).trans ?_)
    | (refine (atEnd_foldl2 _ (fun _ _ => ?_) _ _).trans ?_)
    | split

theorem atEnd_abortStream (s : State) (i status detail : Nat) : atEnd (abortStream s i status detail) = atEnd s := by
  unfold abortStream
  repeat' first
    | rfl
    | (simp only [↓atEnd_mk, atEnd_eta, atEnd_ite, ite_self, atEnd_endTask]; done)
    | simp only [↓atEnd_mk, atEnd_eta, atEnd_ite, ite_self, atEnd_endTask]
    | (refine (atEnd_foldl _ (fun _ _ => ?_) _ _).trans ?_)
    | (refine (atEnd_foldl2 _ (fun _ _ => ?_) _ _).trans ?_)
    | split

theorem atEnd_sweepQueue (s : State) (q : Nat) : atEnd (sweepQueue s q).2 = atEnd s := by
  unfold sweepQueue
  repeat' first
    | rfl
    | (simp only [↓atEnd_mk, atEnd_eta, atEnd_ite, ite_self, atEnd_freeCell, atEnd_setGq, atEnd_withdraw, atEnd_uncharge]; done)
    | simp only [↓atEnd_mk, atEnd_eta, atEnd_ite, ite_self, atEnd_freeCell, atEnd_setGq, atEnd_withdraw, atEnd_uncharge]
    | (refine (atEnd_foldl _ (fun _ _ => ?_) _ _).trans ?_)
    | (refine (atEnd_foldl2 _ (fun _ _ => ?_) _ _).trans ?_)
    | split

theorem atEnd_forcedReset (s : State) (q value op : Nat) : atEnd (forcedReset s q value op) = atEnd s := by
  unfold forcedReset
  repeat' first
    | rfl
    | (simp only [↓atEnd_mk, atEnd_eta, atEnd_ite, ite_self, atEnd_galFnAdd, atEnd_postOne, atEnd_postG, atEnd_abortStream, atEnd_cntAdd, atEnd_sweepQueue]; done)
    | simp only [↓atEnd_mk, atEnd_eta, atEnd_ite, ite_self, atEnd_galFnAdd, atEnd_postOne, atEnd_postG, atEnd_abortStream, atEnd_cntAdd, atEnd_sweepQueue]
    | (refine (atEnd_foldl _ (fun _ _ => ?_) _ _).trans ?_)
    | (refine (atEnd_foldl2 _ (fun _ _ => ?_) _ _).trans ?_)
    | split

theorem atEnd_guardOp (s : State) (q op : Nat) (codes : List Nat) (run : GQueue → State) (hrun : ∀ y0, atEnd (run y0) = atEnd s) : atEnd (guardOp s q op codes run) = atEnd s := by
  unfold guardOp
  repeat' first
    | rfl
    | (simp only [↓atEnd_mk, atEnd_eta, atEnd_ite, ite_self, atEnd_forcedReset, hrun]; done)
    | simp only [↓atEnd_mk, atEnd_eta, atEnd_ite, ite_self, atEnd_forcedReset, hrun]
    | (refine (atEnd_foldl _ (fun _ _ => ?_) _ _).trans ?_)
    | (refine (atEnd_foldl2 _ (fun _ _ => ?_) _ _).trans ?_)
    | split

theorem atEnd_rewindOp (s : State) (q : Nat) : atEnd (rewindOp s q) = atEnd s := by
  unfold rewindOp
  repeat' first
    | rfl
    | (simp only [↓atEnd_mk, atEnd_eta, atEnd_ite, ite_self, atEnd_setGq, atEnd_forcedReset]; done)
    | (refine (atEnd_guardOp _ _ _ _ _ (fun _ => ?_)).trans ?_)
    | simp only [↓atEnd_mk, atEnd_eta, atEnd_ite, ite_self, atEnd_setGq, atEnd_forcedReset]
    | (refine (atEnd_foldl _ (fun _ _ => ?_) _ _).trans ?_)
    | (refine (atEnd_foldl2 _ (fun _ _ => ?_) _ _).trans ?_)
    | split

theorem atEnd_freeUpTo (s : State) (q op : Nat) (x : GQueue) (dst : Nat) (keep : Bool) : atEnd (freeUpTo s q op x dst keep) = atEnd s := by
  unfold freeUpTo
  repeat' first
    | rfl
    | (simp only [↓atEnd_mk, atEnd_eta, atEnd_ite, ite_self, atEnd_freeCell, atEnd_setGq, atEnd_forcedReset, atEnd_uncharge]; done)
    | simp only [↓atEnd_mk, atEnd_eta, atEnd_ite, ite_self, atEnd_freeCell, atEnd_setGq, atEnd_forcedReset, atEnd_uncharge]
    | (refine (atEnd_foldl _ (fun _ _ => ?_) _ _).trans ?_)
    | (refine (atEnd_foldl2 _ (fun _ _ => ?_) _ _).trans ?_)
    | split

theorem atEnd_releaseOp (s : State) (q : Nat) : atEnd (releaseOp s q) = atEnd s := by
  unfold releaseOp
  repeat' first
    | rfl
    | (simp only [↓atEnd_mk, atEnd_eta, atEnd_ite, ite_self, atEnd_freeUpTo]; done)
    | (refine (atEnd_guardOp _ _ _ _ _ (fun _ => ?_)).trans ?_)
    | simp only [↓atEnd_mk, atEnd_eta, atEnd_ite, ite_self, atEnd_freeUpTo]
    | (refine (atEnd_foldl _ (fun _ _ => ?_) _ _).trans ?_)
    | (refine (atEnd_foldl2 _ (fun _ _ => ?_) _ _).trans ?_)
    | split

theorem atEnd_trimOp (s : State) (q : Nat) : atEnd (trimOp s q) = atEnd s := by
  unfold trimOp
  repeat' first
    | rfl
    | (simp only [↓atEnd_mk, atEnd_eta, atEnd_ite, ite_self, atEnd_freeCell, atEnd_setGq, atEnd_forcedReset, atEnd_uncharge]; done)
    | (refine (atEnd_guardOp _ _ _ _ _ (fun _ => ?_)).trans ?_)
    | simp only [↓atEnd_mk, atEnd_eta, atEnd_ite, ite_self, atEnd_freeCell, atEnd_setGq, atEnd_forcedReset, atEnd_uncharge]
    | (refine (atEnd_foldl _ (fun _ _ => ?_) _ _).trans ?_)
    | (refine (atEnd_foldl2 _ (fun _ _ => ?_) _ _).trans ?_)
    | split

theorem atEnd_setLock (s : State) (j : Nat) (x : LockSt) : atEnd (setLock s j x) = atEnd s := by
  unfold setLock
  repeat' first
    | rfl
    | (simp only [↓atEnd_mk, atEnd_eta, atEnd_ite, ite_self]; done)
    | simp only [↓atEnd_mk, atEnd_eta, atEnd_ite, ite_self]
    | (refine (atEnd_foldl _ (fun _ _ => ?_) _ _).trans ?_)
    | (refine (atEnd_foldl2 _ (fun _ _ => ?_) _ _).trans ?_)
    | split

theorem atEnd_unqueueLock (s : State) (j : Nat) (p : Holder → Bool) : atEnd (unqueueLock s j p) = atEnd s := by
  unfold unqueueLock
  repeat' first
    | rfl
    | (simp only [↓atEnd_mk, atEnd_eta, atEnd_ite, ite_self, atEnd_setLock]; done)
    | simp only [↓atEnd_mk, atEnd_eta, atEnd_ite, ite_self, atEnd_setLock]
    | (refine (atEnd_foldl _ (fun _ _ => ?_) _ _).trans ?_)
    | (refine (atEnd_foldl2 _ (fun _ _ => ?_) _ _).trans ?_)
    | split

theorem atEnd_abandonLock (s : State) (j : Nat) : atEnd (abandonLock s j) = atEnd s := by
  unfold abandonLock
  repeat' first
    | rfl
    | (simp only [↓atEnd_mk, atEnd_eta, atEnd_ite, ite_self, atEnd_postP, atEnd_setLock, atEnd_cntAdd]; done)
    | simp only [↓atEnd_mk, atEnd_eta, atEnd_ite, ite_self, atEnd_postP, atEnd_setLock, atEnd_cntAdd]
    | (refine (atEnd_foldl _ (fun _ _ => ?_) _ _).trans ?_)
    | (refine (atEnd_foldl2 _ (fun _ _ => ?_) _ _).trans ?_)
    | split

theorem atEnd_dropHolders (s : State) (p : Holder → Bool) : atEnd (dropHolders s p).2 = atEnd s := by
  unfold dropHolders
  repeat' first
    | rfl
    | (simp only [↓atEnd_mk, atEnd_eta, atEnd_ite, ite_self, atEnd_abandonLock, atEnd_unqueueLock]; done)
    | simp only [↓atEnd_mk, atEnd_eta, atEnd_ite, ite_self, atEnd_abandonLock, atEnd_unqueueLock]
    | (refine (atEnd_foldl _ (fun _ _ => ?_) _ _).trans ?_)
    | (refine (atEnd_foldl2 _ (fun _ _ => ?_) _ _).trans ?_)
    | split

theorem atEnd_dropLeases (s : State) (p : Nat → Bool) : atEnd (dropLeases s p) = atEnd s := by
  unfold dropLeases
  repeat' first
    | rfl
    | (simp only [↓atEnd_mk, atEnd_eta, atEnd_ite, ite_self, atEnd_sendMsg]; done)
    | simp only [↓atEnd_mk, atEnd_eta, atEnd_ite, ite_self, atEnd_sendMsg]
    | (refine (atEnd_foldl _ (fun _ _ => ?_) _ _).trans ?_)
    | (refine (atEnd_foldl2 _ (fun _ _ => ?_) _ _).trans ?_)
    | split

theorem atEnd_faultStream (s : State) (i : Nat) : atEnd (faultStream s i) = atEnd s := by
  unfold faultStream
  repeat' first
    | rfl
    | (simp only [↓atEnd_mk, atEnd_eta, atEnd_ite, ite_self, atEnd_dropLeases, atEnd_dropHolders]; done)
    | simp only [↓atEnd_mk, atEnd_eta, atEnd_ite, ite_self, atEnd_dropLeases, atEnd_dropHolders]
    | (refine (atEnd_foldl _ (fun _ _ => ?_) _ _).trans ?_)
    | (refine (atEnd_foldl2 _ (fun _ _ => ?_) _ _).trans ?_)
    | split

theorem atEnd_ledWrite (s : State) (t : Table) (off : Nat) (b : List Byte) (poison : Bool) : atEnd (ledWrite s t off b poison) = atEnd s := by
  unfold ledWrite
  repeat' first
    | rfl
    | (simp only [↓atEnd_mk, atEnd_eta, atEnd_ite, ite_self, atEnd_memWrite]; done)
    | simp only [↓atEnd_mk, atEnd_eta, atEnd_ite, ite_self, atEnd_memWrite]
    | (refine (atEnd_foldl _ (fun _ _ => ?_) _ _).trans ?_)
    | (refine (atEnd_foldl2 _ (fun _ _ => ?_) _ _).trans ?_)
    | split

theorem atEnd_ownerUnclaim (s : State) (dev req : Nat) : atEnd (ownerUnclaim s dev req) = atEnd s := by
  unfold ownerUnclaim
  repeat' first
    | rfl
    | (simp only [↓atEnd_mk, atEnd_eta, atEnd_ite, ite_self]; done)
    | simp only [↓atEnd_mk, atEnd_eta, atEnd_ite, ite_self]
    | (refine (atEnd_foldl _ (fun _ _ => ?_) _ _).trans ?_)
    | (refine (atEnd_foldl2 _ (fun _ _ => ?_) _ _).trans ?_)
    | split

theorem atEnd_stopWait (s : State) (i : Nat) (t : TaskRun) : atEnd (stopWait s i t).2 = atEnd s := by
  unfold stopWait
  repeat' first
    | rfl
    | (simp only [↓atEnd_mk, atEnd_eta, atEnd_ite, ite_self, atEnd_cntAdd]; done)
    | simp only [↓atEnd_mk, atEnd_eta, atEnd_ite, ite_self, atEnd_cntAdd]
    | (refine (atEnd_foldl _ (fun _ _ => ?_) _ _).trans ?_)
    | (refine (atEnd_foldl2 _ (fun _ _ => ?_) _ _).trans ?_)
    | split

theorem atEnd_saTimer (s : State) (i : Nat) (t : TaskRun) : atEnd (saTimer s i t).2 = atEnd s := by
  unfold saTimer
  repeat' first
    | rfl
    | (simp only [↓atEnd_mk, atEnd_eta, atEnd_ite, ite_self, atEnd_stopWait]; done)
    | simp only [↓atEnd_mk, atEnd_eta, atEnd_ite, ite_self, atEnd_stopWait]
    | (refine (atEnd_foldl _ (fun _ _ => ?_) _ _).trans ?_)
    | (refine (atEnd_foldl2 _ (fun _ _ => ?_) _ _).trans ?_)
    | split

theorem atEnd_unclaimAll (s : State) (i : Nat) (t : TaskRun) : atEnd (unclaimAll s i t) = atEnd s := by
  unfold unclaimAll
  repeat' first
    | rfl
    | (simp only [↓atEnd_mk, atEnd_eta, atEnd_ite, ite_self, atEnd_ownerUnclaim, atEnd_sendMsg]; done)
    | simp only [↓atEnd_mk, atEnd_eta, atEnd_ite, ite_self, atEnd_ownerUnclaim, atEnd_sendMsg]
    | (refine (atEnd_foldl _ (fun _ _ => ?_) _ _).trans ?_)
    | (refine (atEnd_foldl2 _ (fun _ _ => ?_) _ _).trans ?_)
    | split

theorem atEnd_endScatter (s : State) (i : Nat) (t : TaskRun) (r : Rec) : atEnd (endScatter s i t r) = atEnd s := by
  unfold endScatter
  repeat' first
    | rfl
    | (simp only [↓atEnd_mk, atEnd_eta, atEnd_ite, ite_self, atEnd_unclaimAll, atEnd_endTask, atEnd_stopWait]; done)
    | simp only [↓atEnd_mk, atEnd_eta, atEnd_ite, ite_self, atEnd_unclaimAll, atEnd_endTask, atEnd_stopWait]
    | (refine (atEnd_foldl _ (fun _ _ => ?_) _ _).trans ?_)
    | (refine (atEnd_foldl2 _ (fun _ _ => ?_) _ _).trans ?_)
    | split

theorem atEnd_clearSlot (s : State) (h k : Nat) : atEnd (clearSlot s h k) = atEnd s := by
  unfold clearSlot
  repeat' first
    | rfl
    | (simp only [↓atEnd_mk, atEnd_eta, atEnd_ite, ite_self, atEnd_setTable, atEnd_ledWrite]; done)
    | simp only [↓atEnd_mk, atEnd_eta, atEnd_ite, ite_self, atEnd_setTable, atEnd_ledWrite]
    | (refine (atEnd_foldl _ (fun _ _ => ?_) _ _).trans ?_)
    | (refine (atEnd_foldl2 _ (fun _ _ => ?_) _ _).trans ?_)
    | split

theorem atEnd_takeUnit (s : State) (i type : Nat) : atEnd (takeUnit s i type) = atEnd s := by
  unfold takeUnit
  repeat' first
    | rfl
    | (simp only [↓atEnd_mk, atEnd_eta, atEnd_ite, ite_self, atEnd_rrServe]; done)
    | simp only [↓atEnd_mk, atEnd_eta, atEnd_ite, ite_self, atEnd_rrServe]
    | (refine (atEnd_foldl _ (fun _ _ => ?_) _ _).trans ?_)
    | (refine (atEnd_foldl2 _ (fun _ _ => ?_) _ _).trans ?_)
    | split

theorem atEnd_endPoisoned (s : State) (i : Nat) (t : TaskRun) : atEnd (endPoisoned s i t) = atEnd s := by
  unfold endPoisoned
  repeat' first
    | rfl
    | (simp only [↓atEnd_mk, atEnd_eta, atEnd_ite, ite_self, atEnd_endTask, atEnd_postTask]; done)
    | simp only [↓atEnd_mk, atEnd_eta, atEnd_ite, ite_self, atEnd_endTask, atEnd_postTask]
    | (refine (atEnd_foldl _ (fun _ _ => ?_) _ _).trans ?_)
    | (refine (atEnd_foldl2 _ (fun _ _ => ?_) _ _).trans ?_)
    | split

theorem atEnd_endStop (s : State) (i : Nat) (t : TaskRun) (e : Stop) : atEnd (endStop s i t e) = atEnd s := by
  unfold endStop
  repeat' first
    | rfl
    | (simp only [↓atEnd_mk, atEnd_eta, atEnd_ite, ite_self, atEnd_endTask]; done)
    | simp only [↓atEnd_mk, atEnd_eta, atEnd_ite, ite_self, atEnd_endTask]
    | (refine (atEnd_foldl _ (fun _ _ => ?_) _ _).trans ?_)
    | (refine (atEnd_foldl2 _ (fun _ _ => ?_) _ _).trans ?_)
    | split

theorem atEnd_closeCopy (s : State) (i : Nat) (t : TaskRun) (status : Nat) : atEnd (closeCopy s i t status) = atEnd s := by
  unfold closeCopy
  repeat' first
    | rfl
    | (simp only [↓atEnd_mk, atEnd_eta, atEnd_ite, ite_self, atEnd_releaseOp, atEnd_rewindOp, atEnd_trimOp]; done)
    | simp only [↓atEnd_mk, atEnd_eta, atEnd_ite, ite_self, atEnd_releaseOp, atEnd_rewindOp, atEnd_trimOp]
    | (refine (atEnd_foldl _ (fun _ _ => ?_) _ _).trans ?_)
    | (refine (atEnd_foldl2 _ (fun _ _ => ?_) _ _).trans ?_)
    | split

theorem atEnd_endCopy (s : State) (i : Nat) (t : TaskRun) (r : Rec) : atEnd (endCopy s i t r) = atEnd s := by
  unfold endCopy
  repeat' first
    | rfl
    | (simp only [↓atEnd_mk, atEnd_eta, atEnd_ite, ite_self, atEnd_postTask, atEnd_closeCopy, atEnd_endTask]; done)
    | simp only [↓atEnd_mk, atEnd_eta, atEnd_ite, ite_self, atEnd_postTask, atEnd_closeCopy, atEnd_endTask]
    | (refine (atEnd_foldl _ (fun _ _ => ?_) _ _).trans ?_)
    | (refine (atEnd_foldl2 _ (fun _ _ => ?_) _ _).trans ?_)
    | split

theorem atEnd_closeTask (s : State) (i : Nat) (t : TaskRun) (r : Rec) : atEnd (closeTask s i t r) = atEnd s := by
  unfold closeTask
  repeat' first
    | rfl
    | (simp only [↓atEnd_mk, atEnd_eta, atEnd_ite, ite_self, atEnd_closeCopy, atEnd_unclaimAll]; done)
    | simp only [↓atEnd_mk, atEnd_eta, atEnd_ite, ite_self, atEnd_closeCopy, atEnd_unclaimAll]
    | (refine (atEnd_foldl _ (fun _ _ => ?_) _ _).trans ?_)
    | (refine (atEnd_foldl2 _ (fun _ _ => ?_) _ _).trans ?_)
    | split

theorem atEnd_hostStall (s : State) (i detail : Nat) : atEnd (hostStall s i detail) = atEnd s := by
  unfold hostStall
  simp only []
  split
  · rfl
  · rename_i t _
    split
    · rfl
    · generalize hv : (if t.type = 3 then _ else if t.type = 8 then _ else _ : State) = v
      have h : atEnd v = atEnd s := by
        rw [← hv]
        repeat' split
        · exact atEnd_endScatter _ _ _ _
        · exact atEnd_endCopy _ _ _ _
        · exact atEnd_endTask _ _ _ _
      rw [atEnd_cntAdd, ← h]
      exact atEnd_setStream v i _ rfl rfl rfl rfl

/-- The parts of the state that the return of pages, cores and units by a task leaves alone. -/
structure Strm where
  streams : Tab Stream
  locks : Locks
  evt : Evt
  cfg : Cfg
  pwr : Pwr
  clk : Clk

/-- Those parts of a state. -/
def strm (s : State) : Strm := ⟨s.streams, s.locks, s.evt, s.cfg, s.pwr, s.clk⟩

theorem strm_mk pending ident clk evt cfg hif mbx ops opNext fw mem parts pages tables adapters bindings streams pod pwr pins bg mgmt jtag gal locks cores quo profiles grammars units unitWait rr stallRem freeCtr : strm (State.mk pending ident clk evt cfg hif mbx ops opNext fw mem parts pages tables adapters bindings streams pod pwr pins bg mgmt jtag gal locks cores quo profiles grammars units unitWait rr stallRem freeCtr) = ⟨streams, locks, evt, cfg, pwr, clk⟩ := rfl

theorem strm_eta (s : State) : (⟨s.streams, s.locks, s.evt, s.cfg, s.pwr, s.clk⟩ : Strm) = strm s := rfl

theorem strm_ite {c : Prop} [Decidable c] (a b : State) : strm (if c then a else b) = if c then strm a else strm b := by split <;> rfl

theorem strm_foldl {α : Type} (f : State → α → State) (hf : ∀ s x, strm (f s x) = strm s) (l : List α) (s : State) : strm (l.foldl f s) = strm s := by
  induction l generalizing s with
  | nil => rfl
  | cons x l ih => rw [List.foldl_cons, ih, hf]

theorem strm_foldl2 {α β : Type} (f : β × State → α → β × State) (hf : ∀ p x, strm (f p x).2 = strm p.2) (l : List α) (p : β × State) : strm (l.foldl f p).2 = strm p.2 := by
  induction l generalizing p with
  | nil => rfl
  | cons x l ih => rw [List.foldl_cons, ih, hf]

theorem strm_setPage (s : State) (p : Nat) (u : PageUse) : strm (setPage s p u) = strm s := by
  unfold setPage
  repeat' first
    | rfl
    | (simp only [↓strm_mk, strm_eta, strm_ite, ite_self]; done)
    | simp only [↓strm_mk, strm_eta, strm_ite, ite_self]
    | (refine (strm_foldl _ (fun _ _ => ?_) _ _).trans ?_)
    | (refine (strm_foldl2 _ (fun _ _ => ?_) _ _).trans ?_)
    | split

theorem strm_releasePages (s : State) (owner : Nat) (l : List Nat) : strm (releasePages s owner l) = strm s := by
  unfold releasePages
  repeat' first
    | rfl
    | (simp only [↓strm_mk, strm_eta, strm_ite, ite_self, strm_setPage]; done)
    | simp only [↓strm_mk, strm_eta, strm_ite, ite_self, strm_setPage]
    | (refine (strm_foldl _ (fun _ _ => ?_) _ _).trans ?_)
    | (refine (strm_foldl2 _ (fun _ _ => ?_) _ _).trans ?_)
    | split

theorem strm_sendMsg (s : State) (dst part : Nat) (b : MsgBody) : strm (sendMsg s dst part b) = strm s := by
  unfold sendMsg
  repeat' first
    | rfl
    | (simp only [↓strm_mk, strm_eta, strm_ite, ite_self]; done)
    | simp only [↓strm_mk, strm_eta, strm_ite, ite_self]
    | (refine (strm_foldl _ (fun _ _ => ?_) _ _).trans ?_)
    | (refine (strm_foldl2 _ (fun _ _ => ?_) _ _).trans ?_)
    | split

theorem strm_newReq (s : State) : strm (newReq s).2 = strm s := by
  unfold newReq
  repeat' first
    | rfl
    | (simp only [↓strm_mk, strm_eta, strm_ite, ite_self]; done)
    | simp only [↓strm_mk, strm_eta, strm_ite, ite_self]
    | (refine (strm_foldl _ (fun _ _ => ?_) _ _).trans ?_)
    | (refine (strm_foldl2 _ (fun _ _ => ?_) _ _).trans ?_)
    | split

theorem strm_openExch (s : State) (dst part : Nat) (b : MsgBody) : strm (openExch s dst part b).2 = strm s := by
  unfold openExch
  repeat' first
    | rfl
    | (simp only [↓strm_mk, strm_eta, strm_ite, ite_self, strm_newReq, strm_sendMsg]; done)
    | simp only [↓strm_mk, strm_eta, strm_ite, ite_self, strm_newReq, strm_sendMsg]
    | (refine (strm_foldl _ (fun _ _ => ?_) _ _).trans ?_)
    | (refine (strm_foldl2 _ (fun _ _ => ?_) _ _).trans ?_)
    | split

theorem strm_dropOld (s : State) (i : Nat) : strm (dropOld s i) = strm s := by
  unfold dropOld
  repeat' first
    | rfl
    | (simp only [↓strm_mk, strm_eta, strm_ite, ite_self, strm_releasePages]; done)
    | simp only [↓strm_mk, strm_eta, strm_ite, ite_self, strm_releasePages]
    | (refine (strm_foldl _ (fun _ _ => ?_) _ _).trans ?_)
    | (refine (strm_foldl2 _ (fun _ _ => ?_) _ _).trans ?_)
    | split

theorem strm_freeAdapter (s : State) (i : Nat) (a : Adapter) : strm (freeAdapter s i a) = strm s := by
  unfold freeAdapter
  repeat' first
    | rfl
    | (simp only [↓strm_mk, strm_eta, strm_ite, ite_self, strm_setPage]; done)
    | simp only [↓strm_mk, strm_eta, strm_ite, ite_self, strm_setPage]
    | (refine (strm_foldl _ (fun _ _ => ?_) _ _).trans ?_)
    | (refine (strm_foldl2 _ (fun _ _ => ?_) _ _).trans ?_)
    | split

theorem strm_dropAdapter (s : State) (i : Nat) : strm (dropAdapter s i) = strm s := by
  unfold dropAdapter
  repeat' first
    | rfl
    | (simp only [↓strm_mk, strm_eta, strm_ite, ite_self, strm_freeAdapter]; done)
    | simp only [↓strm_mk, strm_eta, strm_ite, ite_self, strm_freeAdapter]
    | (refine (strm_foldl _ (fun _ _ => ?_) _ _).trans ?_)
    | (refine (strm_foldl2 _ (fun _ _ => ?_) _ _).trans ?_)
    | split

theorem strm_dropSegs (s : State) (i : Nat) : strm (dropSegs s i) = strm s := by
  unfold dropSegs
  repeat' first
    | rfl
    | (simp only [↓strm_mk, strm_eta, strm_ite, ite_self]; done)
    | simp only [↓strm_mk, strm_eta, strm_ite, ite_self]
    | (refine (strm_foldl _ (fun _ _ => ?_) _ _).trans ?_)
    | (refine (strm_foldl2 _ (fun _ _ => ?_) _ _).trans ?_)
    | split

theorem strm_dropRefused (s : State) (f : Nat) : strm (dropRefused s f) = strm s := by
  unfold dropRefused
  repeat' first
    | rfl
    | (simp only [↓strm_mk, strm_eta, strm_ite, ite_self]; done)
    | simp only [↓strm_mk, strm_eta, strm_ite, ite_self]
    | (refine (strm_foldl _ (fun _ _ => ?_) _ _).trans ?_)
    | (refine (strm_foldl2 _ (fun _ _ => ?_) _ _).trans ?_)
    | split

theorem strm_endFold (s : State) (i : Nat) (t : TaskRun) (status : Nat) : strm (endFold s i t status) = strm s := by
  unfold endFold
  repeat' first
    | rfl
    | (simp only [↓strm_mk, strm_eta, strm_ite, ite_self]; done)
    | simp only [↓strm_mk, strm_eta, strm_ite, ite_self]
    | (refine (strm_foldl _ (fun _ _ => ?_) _ _).trans ?_)
    | (refine (strm_foldl2 _ (fun _ _ => ?_) _ _).trans ?_)
    | split

theorem strm_dropUnit (s : State) (i : Nat) : strm (dropUnit s i) = strm s := by
  unfold dropUnit
  repeat' first
    | rfl
    | (simp only [↓strm_mk, strm_eta, strm_ite, ite_self]; done)
    | simp only [↓strm_mk, strm_eta, strm_ite, ite_self]
    | (refine (strm_foldl _ (fun _ _ => ?_) _ _).trans ?_)
    | (refine (strm_foldl2 _ (fun _ _ => ?_) _ _).trans ?_)
    | split

theorem strm_dropHeld (s : State) (i : Nat) : strm (dropHeld s i) = strm s := by
  unfold dropHeld
  repeat' first
    | rfl
    | (simp only [↓strm_mk, strm_eta, strm_ite, ite_self, strm_dropAdapter, strm_dropOld]; done)
    | simp only [↓strm_mk, strm_eta, strm_ite, ite_self, strm_dropAdapter, strm_dropOld]
    | (refine (strm_foldl _ (fun _ _ => ?_) _ _).trans ?_)
    | (refine (strm_foldl2 _ (fun _ _ => ?_) _ _).trans ?_)
    | split


/-- The end of a task leaves the other streams alone. -/
theorem stream_endTask_ne (s : State) (i j : Nat) (t : TaskRun) (r : Rec) (h : j ≠ i) : stream (endTask s i t r) j = stream s j := by
  unfold endTask
  simp only [setTask]
  rw [stream_setStream_ne _ _ h]
  have := congrArg Strm.streams (((strm_endFold _ i t r.status).trans (strm_dropRefused _ (streamFn s i))).trans
    (((strm_dropHeld _ i).trans (strm_dropUnit _ i)).trans (strm_dropSegs s i)))
  simp only [strm] at this
  simp only [stream, this]

/-- The end of a task leaves the locks, the logs, the registers and the power state alone. -/
theorem strm_endTask (s : State) (i : Nat) (t : TaskRun) (r : Rec) :
    strm (endTask s i t r) = { strm s with streams := (endTask s i t r).streams } := by
  have := ((strm_endFold (dropRefused (dropHeld (dropUnit (dropSegs s i) i) i) (streamFn s i)) i t r.status).trans
    (strm_dropRefused _ (streamFn s i))).trans (((strm_dropHeld _ i).trans (strm_dropUnit _ i)).trans (strm_dropSegs s i))
  simp only [strm, Strm.mk.injEq] at this
  simp only [strm, Strm.mk.injEq, true_and]
  exact this.2

end Sys2Proof.Machine
end

