-- ==== Sys2Proof/Tests/Slice0.lean ====
section
/-! SUPPORT. Own tests: terms that the checks of WellFormed refuse, worked cases of the spec's chapters, and for every
statement with hypotheses states and operands that meet them. -/

set_option Elab.async false
set_option linter.unusedSimpArgs false
set_option linter.unusedTactic false
set_option linter.unreachableTactic false
set_option linter.unusedVariables false

namespace Sys2Proof.Machine

/-- A message header from device 1. -/
def hdrOf (src : Dev) : MsgHdr := ⟨0, src, 0, 0⟩

/-! ### Terms that WellFormed refuses -/

theorem test_refused_access_of_zero_bytes : Instr.wf (.barAccessRefused 0 false false 0 0) = false := by decide +kernel
theorem test_refused_access_of_nine_bytes : Instr.wf (.barAccessRefused 0 false false 0 9) = false := by decide +kernel
theorem test_refused_cell_of_no_words : Instr.wf (.enq 0 [] true 0 []) = false := by decide +kernel
theorem test_refused_cell_of_33_words : Instr.wf (.enq 0 (List.replicate 33 0) true 0 []) = false := by decide +kernel
theorem test_refused_enq_upset_outside : Instr.wf (.enq 0 [0] true 0 [.word 65536 0 0]) = false := by decide +kernel
theorem test_refused_read_upset_word : Instr.wf (.read 0 [.word 0 32 0]) = false := by decide +kernel
theorem test_refused_mark_upset_bit : Instr.wf (.mark 0 [.word 0 0 72]) = false := by decide +kernel
theorem test_refused_rewind_upset_entry : Instr.wf (.rewind 0 [.entry 0 55]) = false := by decide +kernel
theorem test_refused_release_upset_queue : Instr.wf (.release 0 [.pointer 4096 0 0 false]) = false := by decide +kernel
theorem test_refused_release_mark_upset_value : Instr.wf (.releaseMark 0 [.pointer 0 8 0 false]) = false := by decide +kernel
theorem test_refused_trim_upset_pointer_bit : Instr.wf (.trim 0 [.pointer 0 0 32 true]) = false := by decide +kernel
theorem test_refused_galley_upset_list : Instr.wf (.galleyScrub [.freeList 3 0 false]) = false := by decide +kernel
theorem test_refused_galley_upset_list_bit : Instr.wf (.galleyScrub [.freeList 0 17 false]) = false := by decide +kernel
theorem test_refused_galley_upset_cell : Instr.wf (.galleyScrub [.entry 65536 0]) = false := by decide +kernel
theorem test_refused_symbol_past_the_slug : Instr.wf (.readDataReturn 0 [⟨4, 0, 1⟩]) = false := by decide +kernel
theorem test_refused_symbol_past_the_burst : Instr.wf (.readDataReturn 0 [⟨0, 68, 1⟩]) = false := by decide +kernel
theorem test_refused_symbol_without_error : Instr.wf (.readDataReturn 0 [⟨0, 0, 0⟩]) = false := by decide +kernel
theorem test_refused_seven_stacks : Instr.wf (.temperatureSample (List.replicate 7 0) [0]) = false := by decide +kernel
theorem test_refused_no_logic_sensor : Instr.wf (.temperatureSample (List.replicate 8 0) []) = false := by decide +kernel
theorem test_refused_flip_past_the_region : Instr.wf (.checkerPass 0 [(2 ^ 25, 1)]) = false := by decide +kernel
theorem test_refused_post_to_no_log : Instr.wf (.eventPost [] ⟨0, 0, 0, 0, 0, 0, 0, 0, 0, 0⟩) = false := by decide +kernel
theorem test_refused_post_severity : Instr.wf (.eventPost [.global] ⟨0, 8, 0, 0, 0, 0, 0, 0, 0, 0⟩) = false := by decide +kernel
theorem test_refused_post_partition : Instr.wf (.eventPost [.global] ⟨0, 0, 64, 0, 0, 0, 0, 0, 0, 0⟩) = false := by decide +kernel
theorem test_refused_post_stream : Instr.wf (.eventPost [.global] ⟨0, 0, 0, 64, 0, 0, 0, 0, 0, 0⟩) = false := by decide +kernel
theorem test_refused_scrub_past_the_group : Instr.wf (.patrolScrubGroup 0 [(64, ⟨0, 0, 1⟩)]) = false := by decide +kernel
theorem test_refused_scrub_symbol : Instr.wf (.patrolScrubGroup 0 [(0, ⟨0, 0, 0⟩)]) = false := by decide +kernel
theorem test_refused_margin_left : Instr.wf (.marginSlot 0 0 256 0) = false := by decide +kernel
theorem test_refused_margin_right : Instr.wf (.marginSlot 0 0 0 256) = false := by decide +kernel
theorem test_refused_aging_of_15_pairs : Instr.wf (.agingSample (List.replicate 15 (0, 0))) = false := by decide +kernel
theorem test_refused_frame_of_18_flits : Instr.wf (.frameReceive 0 ⟨0, List.replicate 32 0, List.replicate 18 (List.replicate 32 0), some 0⟩) = false := by decide +kernel
theorem test_refused_frame_control : Instr.wf (.frameReceive 0 ⟨0, List.replicate 31 0, List.replicate 19 (List.replicate 32 0), some 0⟩) = false := by decide +kernel
theorem test_refused_frame_flit : Instr.wf (.frameReceive 0 ⟨0, List.replicate 32 0, List.replicate 19 (List.replicate 31 0), some 0⟩) = false := by decide +kernel
theorem test_refused_request_mode : Instr.wf (.gpReq (hdrOf 1) ⟨0, 0, 0, 16, false, 0, [], []⟩) = false := by decide +kernel
theorem test_refused_request_weights : Instr.wf (.gpReq (hdrOf 1) ⟨0, 0, 0, 0, false, 0, [0, 1], [0]⟩) = false := by decide +kernel
theorem test_refused_chunk_of_1025 : Instr.wf (.gpChunk (hdrOf 1) ⟨0, 0, 0, false, 0, 0, 0, 0, List.replicate 1025 0⟩) = false := by decide +kernel
theorem test_refused_row_value_kind : Instr.wf (.gpValue (hdrOf 1) ⟨0, 0, false, 8, []⟩) = false := by decide +kernel
theorem test_refused_row_value_length : Instr.wf (.gpValue (hdrOf 1) ⟨0, 0, false, 0, List.replicate 4097 0⟩) = false := by decide +kernel
theorem test_refused_claim_mode : Instr.wf (.saClaim (hdrOf 1) ⟨0, 0, 0, 16, 0, 0, [], [], []⟩) = false := by decide +kernel
theorem test_refused_claim_weights : Instr.wf (.saClaim (hdrOf 1) ⟨0, 0, 0, 0, 0, 0, [], [0], []⟩) = false := by decide +kernel
theorem test_refused_copy_read_address : Instr.wf (.cpRd (hdrOf 1) 0 (2 ^ 63) 1) = false := by decide +kernel
theorem test_refused_copy_read_of_nothing : Instr.wf (.cpRd (hdrOf 1) 0 0 0) = false := by decide +kernel
theorem test_refused_copy_read_of_4097 : Instr.wf (.cpRd (hdrOf 1) 0 0 4097) = false := by decide +kernel
theorem test_refused_copy_data_marks : Instr.wf (.cpData (hdrOf 1) 0 0 [0] [true, true]) = false := by decide +kernel
theorem test_refused_copy_write_address : Instr.wf (.cpWr (hdrOf 1) 0 (2 ^ 63) [0] []) = false := by decide +kernel
theorem test_refused_copy_write_of_nothing : Instr.wf (.cpWr (hdrOf 1) 0 0 [] []) = false := by decide +kernel
theorem test_refused_copy_write_marks : Instr.wf (.cpWr (hdrOf 1) 0 0 [0] [true, true]) = false := by decide +kernel
theorem test_refused_renewal_of_nothing : Instr.wf (.lkRenew (hdrOf 1) []) = false := by decide +kernel
theorem test_refused_pod_of_zero_x : Instr.wf (.joinHello 0 (hdrOf 1) ⟨0, 0, 0, 1, 1, 0⟩) = false := by decide +kernel
theorem test_refused_pod_of_zero_y : Instr.wf (.joinHello 0 (hdrOf 1) ⟨0, 0, 1, 0, 1, 0⟩) = false := by decide +kernel
theorem test_refused_pod_of_zero_z : Instr.wf (.joinHello 0 (hdrOf 1) ⟨0, 0, 1, 1, 0, 0⟩) = false := by decide +kernel
theorem test_refused_pod_of_65 : Instr.wf (.joinHello 0 (hdrOf 1) ⟨0, 0, 5, 13, 1, 0⟩) = false := by decide +kernel
theorem test_refused_place_query_target : Instr.wf (.placeQuery (hdrOf 1) 0 256 []) = false := by decide +kernel
theorem test_refused_firmware_data_of_nothing : Instr.wf (.requestFirmwareData 0 []) = false := by decide +kernel
theorem test_refused_sweep_of_no_page : Instr.wf (.initSweep 0) = false := by decide +kernel
theorem test_refused_training_of_15_links : Instr.wf (.linkBootTraining (List.replicate 15 ⟨false, 0, 0, 0⟩)) = false := by decide +kernel
theorem test_refused_completion_of_nothing : Instr.wf (.hostReadCompletion (.command 0) 0 (.data [])) = false := by decide +kernel
theorem test_refused_completion_of_4097 : Instr.wf (.hostReadCompletion (.command 0) 0 (.data (List.replicate 4097 0))) = false := by decide +kernel
theorem test_refused_page_past_the_device : Instr.wf (.pageZeroed 5898240) = false := by decide +kernel
theorem test_refused_link_speed_zero : Instr.wf (.pcieLinkUp 0 1 false) = false := by decide +kernel
theorem test_refused_link_speed_six : Instr.wf (.pcieLinkUp 6 1 false) = false := by decide +kernel
theorem test_refused_link_width_three : Instr.wf (.pcieLinkUp 1 3 false) = false := by decide +kernel

/-! ### Worked cases of the spec -/

/-- 8.9.1: the row quantized. -/
theorem test_quantize : quantize 0 [] ([0xBF800000, 0x3F000000, 0x3F800000] ++ List.replicate 13 0) =
    ([0x04, 0x20, 0x00, 0x1C, 0x80, 0x3F, 0x7F] ++ List.replicate 57 0, 0) := by decide +kernel

/-- 8.9.1, step 5: 0.498016357421875 is 16,319 / 32,768. -/
theorem test_dequantize : (dequant 16 0 0 ([0x04, 0x20, 0x00, 0x1C, 0x80, 0x3F, 0x7F] ++ List.replicate 57 0))[1]? =
    some 0x3EFEFC00 := by decide +kernel

/-- 8.9.3: rows 3, 4 and 5 of three row-hash shards of 6 rows. -/
theorem test_row_hash : let t : Table := { ({ handle := 0, dim16m1 := 0, code := 0, policy := 0, train := 0, shardMode := 1, rows := 6, frac := 0, ledgerLog2 := 0, rowfmt := 0, epoch := 0, shards := List.replicate 3 ShardEnt.none, placed := false, stores := [], ledger := [], foldCount := 0, clamped := 0, incomplete := none, mapped := [], golden := none, used := 0, gateClosed := false, pend := none, fold := none, claims := [], mask := 0, olds := [] } : Table) with rows := 6 }
    (t.place 2, t.place 3, t.place 4, t.place 5) = ((2, 0), (1, 1), (2, 1), (0, 1)) := by decide +kernel

/-- 7.11.1: from device-physical address 0x12_3456_7800 to channel 1, index 4,772,184. -/
theorem test_address : slugLoc State.reset 0x123456 0x78 = .at_ 1 4772184 := by decide +kernel

/-- 7.11.1, step 5. -/
theorem test_cell : (rawSlug 4772184, rawCheck 4772184) = (5090329, 5090335) := by decide +kernel

/-- 7.11.2: the slug of stripe 8 of page 1,193,046 with channel 1 mapped out. -/
theorem test_mapped_out : slugLoc { State.reset with mem := { State.reset.mem with mapped := 2, pmax := 3870720, spread := 1#256 <<< 8 ||| 1#256 <<< 72 ||| 1#256 <<< 136 ||| 1#256 <<< 200 } } 0x123456 0x78 =
    .at_ 61 15558628 := by decide +kernel

/-- R200: one symbol in error is repaired, whatever it turned. -/
theorem test_one_symbol : rsDecode (xorAt (List.replicate 64 7 ++ rsCheck (List.replicate 64 7)) 63 0x80) = .corrected 63 0x80 := by
  decide +kernel

/-- R148: the CRC-32C of the nine digits. -/
theorem test_crc : crc32c [0x31, 0x32, 0x33, 0x34, 0x35, 0x36, 0x37, 0x38, 0x39] = 0xE3069283 := by decide +kernel

end Sys2Proof.Machine
end

section
/-! O36: what a mailbox command row does with a request that fails a shared check (R101, R107 to R109, R114). -/

namespace Sys2Proof.Machine

/-- Every mailbox command row is one `runCmd`: it runs the requests of its function that its opcode and its selection name. -/
theorem exec_of_mbxRow {c : Instr} {f op : Nat} {sel : List Byte → Bool} (h : mbxRow c = some (f, op, sel)) (s : State) :
    ∃ other body go, exec c s = .next (runCmd s f op sel other body go) := by
  unfold mbxRow at h
  split at h <;> cases h <;> exact ⟨_, _, _, rfl⟩

/-- Onaman alone runs requests and operations (R24). -/
theorem runCmd_of_not_cpRuns {s : State} (h : cpRuns s = false) (f op : Nat) (sel other body go) :
    runCmd s f op sel other body go = s := by simp [runCmd, h]

/-- The row that takes the opcodes of no command runs a request of one. -/
theorem runCmd_unknown {s : State} {f : Nat} {r : MbxReq} (h : Asks s f (reqOp r.bytes) r)
    (hc : cmdOf (reqOp r.bytes) = none) (op : Nat) (sel body go) :
    runCmd s f op sel true body go = runReq s f r body go := by
  obtain ⟨hcp, hlat, -, hbeg, hturn⟩ := h
  simp [runCmd, hcp, curReq_latched hlat, hc, hbeg, hturn]

/-- The area of a whole request is what the request holds. -/
theorem slice_whole {l : List Byte} {n : Nat} (h : l.length = n) : slice l 0 n = l := by
  subst h; simp [slice]

/-- The check of a VF's right passes where the command is not PF0's or the function is PF0. -/
theorem not_pf0_and_vf {pf0 : Bool} {f : Nat} (h : pf0 = false ∨ f = 0) : ¬(pf0 = true ∧ ¬f = 0) := by
  rintro ⟨hp, hf⟩; simp [hp, hf] at h

/-- The first of the shared checks (R109): the opcode. -/
theorem sharedCheck_opcode {s : State} {f : Nat} {r : MbxReq} (hl : r.bytes.length = 2048)
    (hc : cmdOf (reqOp r.bytes) = none) : sharedCheck s f r = some (0x10, 0) := by
  simp [sharedCheck, slice_whole hl, hc]

section
variable {s : State} {f : Nat} {r : MbxReq} {c : Cmd} (hl : r.bytes.length = 2048) (hc : cmdOf (reqOp r.bytes) = some c)
include hl hc

/-- In recovery mode the command must be one of those listed (R101). -/
theorem sharedCheck_recovery (hr : s.fw.recovery = true) (hi : inRecovery (reqOp r.bytes) = false) :
    sharedCheck s f r = some (0x1E, 3) := by
  simp [sharedCheck, slice_whole hl, hc, hr, hi]

/-- A VF's right to the command. -/
theorem sharedCheck_right (hr : s.fw.recovery = false) (hp : c.pf0 = true) (hf : f ≠ 0) :
    sharedCheck s f r = some (0x14, 1) := by
  simp [sharedCheck, slice_whole hl, hc, hr, hp, hf]

/-- LENGTH lies within the area and counts words (R107). -/
theorem sharedCheck_length (hr : s.fw.recovery = false) (hp : c.pf0 = false ∨ f = 0)
    (hn : reqLen r.bytes < 8 ∨ 2048 < reqLen r.bytes ∨ reqLen r.bytes % 4 ≠ 0) :
    sharedCheck s f r = some (0x11, 0) := by
  simp [sharedCheck, slice_whole hl, hc, hr, not_pf0_and_vf hp, or_assoc, hn]

/-- Bytes past the command's layout are zero (R108). -/
theorem sharedCheck_excess (hr : s.fw.recovery = false) (hp : c.pf0 = false ∨ f = 0) (h8 : 8 ≤ reqLen r.bytes)
    (h2048 : reqLen r.bytes ≤ 2048) (h4 : reqLen r.bytes % 4 = 0)
    (hx : ∃ x ∈ (reqBytes r).drop (c.len (reqBytes r)), x ≠ 0) : sharedCheck s f r = some (0x11, 1) := by
  obtain ⟨x, hmem, hx⟩ := hx
  simp [sharedCheck, slice_whole hl, hc, hr, not_pf0_and_vf hp, Nat.not_lt.2 h8, Nat.not_lt.2 h2048, h4]
  exact fun hzero => absurd (hzero x hmem) hx

end

/-- Settles O36: every mailbox row is one run of `runCmd`, which answers the failure of a shared check before the
command's own body, and the shared checks come in the order of R109. -/
theorem mailboxRefusals : Obligations.MailboxRefusals := by
  refine ⟨?_, ?_, ?_, ?_⟩
  · intro s c f op sel r st d hrow hasks hsel hfail
    obtain ⟨other, body, go, hexec⟩ := exec_of_mbxRow hrow s
    refine ⟨_, hexec, ?_⟩
    rw [run_refused hasks _ _ _ _ hsel hfail]
    exact replied_answer _ _ _ _ hasks.2.1
  · intro s f r c _ hl hc
    refine ⟨sharedCheck_recovery hl hc, fun hr => ⟨sharedCheck_right hl hc hr, fun hp => ⟨?_, ?_⟩⟩⟩
    · exact sharedCheck_length hl hc hr hp
    · exact sharedCheck_excess hl hc hr hp
  · intro s f r hasks hl hc
    refine ⟨_, rfl, ?_⟩
    rw [runCmd_unknown hasks hc]
    simp only [runReq, sharedCheck_opcode hl hc]
    exact replied_answer _ _ _ _ hasks.2.1
  · rintro s c ⟨f, op, sel⟩ hrow hcp
    obtain ⟨other, body, go, hexec⟩ := exec_of_mbxRow hrow s
    rw [hexec, runCmd_of_not_cpRuns hcp]

end Sys2Proof.Machine
end

section
/-! O29: the numbers of the event sequencer (R33, R34), and where a record stands once it is posted (R496, R497, R499). -/

namespace Sys2Proof.Machine

/-- A record posted in s stands in a log of t under a number: in its slot of the window with its LIDX (R497), or, where
it could not be staged, as the log's last loss (R499). -/
def StampedIn (s t : State) (l n : Nat) (r : EvRec) : Prop :=
  (lkD t.evt.logs l LogSt.empty).posted = (lkD s.evt.logs l LogSt.empty).posted + 1 ∧
  ((∃ x, lk (lkD t.evt.logs l LogSt.empty).slots ((lkD s.evt.logs l LogSt.empty).posted % logSlots l) = some x ∧
      x.seq = n ∧ x.lidx = (lkD s.evt.logs l LogSt.empty).posted % 2 ^ 32 ∧ x.time = s.clk.aon ∧
      x.device = s.ident.podId ∧ x.r = r) ∨
    ((lkD t.evt.logs l LogSt.empty).lossLastSeq = n ∧
      (lkD t.evt.logs l LogSt.empty).lost = (lkD s.evt.logs l LogSt.empty).lost + 1))

/-- It depends on that log before and after, the time and the device alone. -/
theorem StampedIn.congr {s s' t t' : State} {l n : Nat} {r : EvRec} (h : StampedIn s t l n r)
    (hs : lk s'.evt.logs l = lk s.evt.logs l) (ht : lk t'.evt.logs l = lk t.evt.logs l)
    (hclk : s'.clk = s.clk) (hid : s'.ident = s.ident) : StampedIn s' t' l n r := by
  unfold StampedIn at h ⊢
  rwa [lkD, lkD, hs, ht, hclk, hid]

/-- A record takes the number that the counter reads. -/
@[simp] theorem postOne_seq (s : State) (l : Nat) (r : EvRec) : (postOne s l r).evt.seq = s.evt.seq + 1 := by
  simp only [postOne]
  split <;> rfl

/-- A record changes its own log alone. -/
theorem lk_postOne_ne (s : State) {l j : Nat} (r : EvRec) (h : j ≠ l) :
    lk (postOne s l r).evt.logs j = lk s.evt.logs j := by
  simp only [postOne]
  split <;> exact lk_put_ne _ _ h

theorem postOne_stampedIn (s : State) (l : Nat) (r : EvRec) : StampedIn s (postOne s l r) l s.evt.seq r := by
  simp only [postOne]
  split
  · simp only [StampedIn, lkD_put_self, lk_put_self]
    exact ⟨trivial, .inl ⟨_, rfl, rfl, rfl, rfl, rfl, rfl⟩⟩
  · simp only [StampedIn, lkD_put_self]
    exact ⟨trivial, .inr ⟨trivial, trivial⟩⟩

section
variable (s : State) (r : EvRec)

theorem post_cons (l : Nat) (ls : List Nat) : post s (l :: ls) r = post (postOne s l r) ls r := rfl

/-- A post to any logs changes the event log alone. -/
theorem post_frame (ls : List Nat) : post s ls r = { s with evt := (post s ls r).evt } := by
  induction ls generalizing s with
  | nil => rfl
  | cons l ls ih => rw [post_cons, ih, postOne_frame]

/-- The counter moves on by one for each log. -/
theorem post_seq (ls : List Nat) : (post s ls r).evt.seq = s.evt.seq + ls.length := by
  induction ls generalizing s with
  | nil => rfl
  | cons l ls ih => rw [post_cons, ih, postOne_seq, List.length_cons]; omega

/-- A log that is not named stays as it is. -/
theorem lk_post_of_not_mem {ls : List Nat} {j : Nat} (h : j ∉ ls) : lk (post s ls r).evt.logs j = lk s.evt.logs j := by
  induction ls generalizing s with
  | nil => rfl
  | cons l ls ih =>
    rw [List.mem_cons, not_or] at h
    obtain ⟨hl, hls⟩ := h
    rw [post_cons, ih _ hls, lk_postOne_ne _ _ hl]

/-- The record reaches the i-th log under the i-th number from the counter's value on. -/
theorem post_stampedIn {ls : List Nat} (hnd : ls.Nodup) {i l : Nat} (h : ls[i]? = some l) :
    StampedIn s (post s ls r) l (s.evt.seq + i) r := by
  induction ls generalizing s i with
  | nil => simp at h
  | cons a ls ih =>
    obtain ⟨ha, hnd⟩ := List.nodup_cons.1 hnd
    rw [post_cons]
    cases i with
    | zero =>
      obtain rfl : a = l := by simpa using h
      exact (postOne_stampedIn s a r).congr rfl (lk_post_of_not_mem _ _ ha) rfl rfl
    | succ i =>
      have hl : l ≠ a := by rintro rfl; exact ha (List.mem_of_getElem? h)
      have := ih (postOne s a r) hnd (by simpa using h)
      rw [postOne_seq, show s.evt.seq + 1 + i = s.evt.seq + (i + 1) by omega] at this
      exact this.congr (lk_postOne_ne _ _ hl).symm rfl (postOne_clk s a r).symm (postOne_ident s a r).symm

end

/-- Settles O29, by induction on the logs of the event: each record takes the next number and leaves the logs of the
others alone. -/
theorem recordsAreStamped : Obligations.RecordsAreStamped := by
  refine ⟨rfl, ?_⟩
  rintro s logs r hoff ns rfl
  refine ⟨post s _ r, by simp only [exec, execEventPost, hoff]; rfl, post_frame s r _, post_seq s r _, ?_, ?_⟩
  · intro i l h
    exact post_stampedIn s r (List.nodup_range.filter _) h
  · intro l h
    exact lk_post_of_not_mem s r h

end Sys2Proof.Machine
end

section
/-! O34: the power-state controller. What a demand, an entry and a wake do to the domains, and what they leave alone
(R31, R43, R45, R47 to R49, R51). -/

namespace Sys2Proof.Machine

/-! ### Tables changed at the keys of a list -/

theorem lkD_foldl_setD {α : Type} [DecidableEq α] (l : List Nat) (t : Tab α) (v d : α) (k : Nat) :
    lkD (l.foldl (fun t j => setD t j v d) t) k d = if k ∈ l then v else lkD t k d := by
  induction l generalizing t with
  | nil => simp
  | cons j l ih =>
    rw [List.foldl_cons, ih]
    by_cases hk : k = j
    · subst hk; simp
    · simp [hk, lkD_setD_ne _ _ _ _ hk]

theorem lkD_foldl_put {α : Type} (l : List Nat) (t : Tab α) (v d : α) (k : Nat) :
    lkD (l.foldl (fun t j => put t j v) t) k d = if k ∈ l then v else lkD t k d := by
  induction l generalizing t with
  | nil => simp
  | cons j l ih =>
    rw [List.foldl_cons, ih]
    by_cases hk : k = j
    · subst hk; simp
    · simp [hk, lkD_put_ne _ _ _ hk]

/-- A table written out key by key. -/
theorem lkD_map_keys {α : Type} (g : Nat → α) (d : α) {l : List Nat} {k : Nat} (h : k ∈ l) :
    lkD (l.map (fun i => (i, g i)) : Tab α) k d = g k := by
  induction l with
  | nil => simp at h
  | cons j l ih =>
    by_cases hk : j = k
    · subst hk; simp [lkD, lk]
    · simpa [lkD, lk, hk] using ih (by simpa [Ne.symm hk] using h)

/-! ### What the views of the power state rest on -/

theorem dom_congr {s u : State} (h : u.pwr = s.pwr) : dom u = dom s := by
  funext d; rw [dom, h]; rfl

theorem devState_congr {s u : State} (h : u.pwr = s.pwr) : devState u = devState s := by
  simp only [devState, dom_congr h]

theorem mgmt_congr {s u : State} (h : u.cfg = s.cfg) (w : Nat) : mgmt u w = mgmt s w := by simp only [mgmt, h]

/-! ### Demand -/

section
variable (s : State)

/-- What a demand makes of the power state: a gated domain runs, a stopped one waits for its wake. -/
theorem demandOn_pwr (d : Nat) : (demandOn s d).pwr = { s.pwr with
    demandAt := put s.pwr.demandAt d s.clk.aon
    dom := if dom s d = 1 then setD s.pwr.dom d 0 0 else s.pwr.dom
    waking := if 2 ≤ dom s d ∧ d ∉ s.pwr.waking then s.pwr.waking ++ [d] else s.pwr.waking } := by
  have hdom (p : Tab Nat) : dom { s with pwr := { s.pwr with demandAt := p } } d = dom s d := rfl
  simp only [demandOn, hdom]
  rcases Nat.lt_trichotomy (dom s d) 1 with h | h | h
  · simp [Nat.lt_one_iff.1 h]
  · simp [h, setDom]
  · have h0 : dom s d ≠ 0 := by omega
    have h1 : dom s d ≠ 1 := by omega
    by_cases hw : d ∈ s.pwr.waking <;> simp [h0, h1, show 2 ≤ dom s d from h, hw]

/-- A demand runs a domain that is gated and no other. -/
theorem dom_demandOn (d e : Nat) : dom (demandOn s d) e = if e = d ∧ dom s e = 1 then 0 else dom s e := by
  have hdom : dom (demandOn s d) e = lkD (if dom s d = 1 then setD s.pwr.dom d 0 0 else s.pwr.dom) e 0 := by
    rw [dom, demandOn_pwr]
  rw [hdom]
  split
  next h1 =>
    by_cases he : e = d
    · subst he; simp [h1]
    · simp only [he, false_and, if_false, lkD_setD_ne _ _ _ _ he]; rfl
  next h1 =>
    rw [if_neg (by rintro ⟨rfl, h⟩; exact h1 h)]; rfl

theorem demandAt_demandOn (d e : Nat) :
    lkD (demandOn s d).pwr.demandAt e 0 = if e = d then s.clk.aon else lkD s.pwr.demandAt e 0 := by
  rw [demandOn_pwr]
  by_cases he : e = d
  · subst he; simp
  · simp [he, lkD_put_ne _ _ _ he]

/-- A demand has a stopped domain wait for its wake. -/
theorem mem_waking_demandOn (d e : Nat) :
    e ∈ (demandOn s d).pwr.waking ↔ e ∈ s.pwr.waking ∨ e = d ∧ 2 ≤ dom s e := by
  rw [demandOn_pwr]
  dsimp only
  split <;> grind

/-- Demands change conditions, times of demand and waits alone. -/
theorem demandOn_pwr_frame (d : Nat) : demandOn s d = { s with pwr := { s.pwr with
    dom := (demandOn s d).pwr.dom, demandAt := (demandOn s d).pwr.demandAt, waking := (demandOn s d).pwr.waking } } := by
  conv_lhs => rw [demandOn_frame, demandOn_pwr]
  rw [demandOn_pwr]

/-- Demands on the domains of a list. -/
def demandAll (s : State) (l : List Nat) : State := l.foldl demandOn s

theorem demandAll_cons (d : Nat) (l : List Nat) : demandAll s (d :: l) = demandAll (demandOn s d) l := rfl

theorem demandAll_frame (l : List Nat) : demandAll s l = { s with pwr := { s.pwr with
    dom := (demandAll s l).pwr.dom, demandAt := (demandAll s l).pwr.demandAt, waking := (demandAll s l).pwr.waking } } := by
  induction l generalizing s with
  | nil => rfl
  | cons d l ih => rw [demandAll_cons, ih, demandOn_pwr_frame]

theorem dom_demandAll (l : List Nat) (e : Nat) :
    dom (demandAll s l) e = if e ∈ l ∧ dom s e = 1 then 0 else dom s e := by
  induction l generalizing s with
  | nil => simp [demandAll]
  | cons d l ih => rw [demandAll_cons, ih, dom_demandOn]; grind

theorem demandAt_demandAll (l : List Nat) (e : Nat) :
    lkD (demandAll s l).pwr.demandAt e 0 = if e ∈ l then s.clk.aon else lkD s.pwr.demandAt e 0 := by
  induction l generalizing s with
  | nil => simp [demandAll]
  | cons d l ih => rw [demandAll_cons, ih, demandAt_demandOn, demandOn_clk]; grind

theorem mem_waking_demandAll (l : List Nat) (e : Nat) :
    e ∈ (demandAll s l).pwr.waking ↔ e ∈ s.pwr.waking ∨ e ∈ l ∧ 2 ≤ dom s e := by
  induction l generalizing s with
  | nil => simp [demandAll]
  | cons d l ih => rw [demandAll_cons, ih, mem_waking_demandOn, dom_demandOn]; grind

/-- Leaving a state deeper than the deepest in effect has domains wait, and changes nothing else (R562). -/
theorem enforceDeepest_frame :
    enforceDeepest s = { s with pwr := { s.pwr with waking := (enforceDeepest s).pwr.waking } } := by
  unfold enforceDeepest
  split <;> rfl

@[simp] theorem dom_enforceDeepest (d : Nat) : dom (enforceDeepest s) d = dom s d := by
  rw [enforceDeepest_frame]; rfl

@[simp] theorem demandAt_enforceDeepest : (enforceDeepest s).pwr.demandAt = s.pwr.demandAt := by
  rw [enforceDeepest_frame]

/-- A domain that waits goes on waiting. -/
theorem mem_waking_enforceDeepest {d : Nat} (hd : d < 6) (h : d ∈ s.pwr.waking) :
    d ∈ (enforceDeepest s).pwr.waking := by
  unfold enforceDeepest
  split
  · exact List.mem_range.2 hd
  · exact h

/-- POWER_STATE_EVALUATE: the domains with demand, all at once. -/
theorem exec_powerStateEvaluate (hoff : s.pwr.off = false) (htrip : s.pwr.thermtrip = false)
    (hstop : s.pwr.globalStop = false) :
    exec .powerStateEvaluate s = .next (enforceDeepest (demandAll s ((List.range 6).filter (demand s)))) := by
  simp [exec, execPowerStateEvaluate, hoff, htrip, hstop, demandAll]

end

/-- The clause of POWER_STATE_EVALUATE. -/
theorem powerStateEvaluate_spec (s : State) (hoff : s.pwr.off = false) (htrip : s.pwr.thermtrip = false)
    (hstop : s.pwr.globalStop = false) :
    ∃ t, exec .powerStateEvaluate s = .next t ∧
      (∀ d < 6, demand s d = true → lkD t.pwr.demandAt d 0 = s.clk.aon ∧ (dom s d = 1 → dom t d = 0) ∧
        (2 ≤ dom s d → dom t d = dom s d ∧ d ∈ t.pwr.waking)) ∧
      (∀ d, demand s d = false ∨ dom s d = 0 → dom t d = dom s d) ∧
      t = { s with pwr := { s.pwr with dom := t.pwr.dom, demandAt := t.pwr.demandAt, waking := t.pwr.waking } } := by
  have hmem (d : Nat) : d ∈ (List.range 6).filter (demand s) ↔ d < 6 ∧ demand s d = true := by simp
  refine ⟨_, exec_powerStateEvaluate s hoff htrip hstop, ?_, ?_, ?_⟩
  · intro d hd hdem
    have hl := (hmem d).2 ⟨hd, hdem⟩
    refine ⟨?_, fun h1 => ?_, fun h2 => ⟨?_, ?_⟩⟩
    · rw [demandAt_enforceDeepest, demandAt_demandAll, if_pos hl]
    · rw [dom_enforceDeepest, dom_demandAll, if_pos ⟨hl, h1⟩]
    · rw [dom_enforceDeepest, dom_demandAll, if_neg (by omega)]
    · exact mem_waking_enforceDeepest _ hd ((mem_waking_demandAll s _ d).2 (.inr ⟨hl, h2⟩))
  · intro d h
    rw [dom_enforceDeepest, dom_demandAll, if_neg]
    rw [hmem]
    rintro ⟨⟨-, hdem⟩, h1⟩
    rcases h with h | h
    · exact Bool.false_ne_true (h.symm.trans hdem)
    · omega
  · rw [enforceDeepest_frame, demandAll_frame]

/-! ### Entries -/

section
variable (s : State)

/-- The clause of IDLE_ENTRY. -/
theorem idleEntry_spec (d : Dom) : exec (.idleEntry d) s = .next (if dom s d.val = 0 ∧ demand s d.val = false ∧
      dpStop s = false ∧ lkD s.pwr.demandAt d.val 0 + bar2Eff s 0x30008 ≤ s.clk.aon
    then { s with pwr := { s.pwr with dom := setD s.pwr.dom d.val 1 0 } } else s) := by
  simp [exec, execIdleEntry, setDom, and_assoc]

/-- Writing the buffers of the memory tier back leaves the power state alone. -/
@[simp] theorem wcbFlush_pwr : (wcbFlush s).pwr = s.pwr := congrArg Tabd.pwr (tabd_wcbFlush s)

@[simp] theorem wcbFlush_clk : (wcbFlush s).clk = s.clk := congrArg Tabd.clk (tabd_wcbFlush s)

/-- DOZE stops every domain that is not stopped yet. -/
theorem dom_intoDoze {d : Nat} (hd : d < 6) : dom (intoDoze s) d = max 2 (dom s d) := by
  rw [← dom_congr (wcbFlush_pwr s)]
  exact lkD_map_keys (fun d => max 2 (dom (wcbFlush s) d)) 0 (List.mem_range.2 hd)

/-- The voltage kept for the wakes is the one at which the device worked (R45). -/
theorem intoDoze_vddOp (h : devState s < 2) : (intoDoze s).pwr.vddOp = s.pwr.vdd := by
  simp [intoDoze, devState_congr (wcbFlush_pwr s), Nat.not_le.2 h]

/-- The last demand on any domain, from the demands on each. -/
theorem lastDemand_add_le {f : Nat → Nat} {h a : Nat} (hf : ∀ d < 6, f d + h ≤ a) :
    ((List.range 6).map f).foldl max 0 + h ≤ a := by
  have h0 := hf 0 (by decide)
  have h1 := hf 1 (by decide)
  have h2 := hf 2 (by decide)
  have h3 := hf 3 (by decide)
  have h4 := hf 4 (by decide)
  have h5 := hf 5 (by decide)
  change max (max (max (max (max (max 0 (f 0)) (f 1)) (f 2)) (f 3)) (f 4)) (f 5) + h ≤ a
  omega

/-- The clause of DOZE_ENTRY. -/
theorem dozeEntry_spec (hst : devState s = 1) (hdeep : 2 ≤ deepest s) (hflt : avsFault s = false)
    (hstop : dpStop s = false) (hquiet : quiet s = true)
    (hhold : ∀ d < 6, lkD s.pwr.demandAt d 0 + max 100 (bar2Eff s 0x3000C) * usT ≤ s.clk.aon) :
    ∃ t, exec .dozeEntry s = .next t ∧ (∀ d < 6, dom t d = max 2 (dom s d)) ∧ t.pwr.vdd = 500 ∧
      t.pwr.waking = [] ∧ t.pwr.dozeAt = s.clk.aon ∧ t.pwr.vddOp = s.pwr.vdd ∧
      t = { wcbFlush s with pwr := t.pwr } := by
  refine ⟨intoDoze s, ?_, fun d => dom_intoDoze s, rfl, rfl, wcbFlush_clk s ▸ rfl, ?_, rfl⟩
  · simp [exec, execDozeEntry, hst, hdeep, hflt, hstop, hquiet, lastDemand_add_le hhold]
  · exact intoDoze_vddOp s (by omega)

/-- The clause of DEEP_ENTRY. -/
theorem deepEntry_spec (hst : devState s = 2) (hdeep : 3 ≤ deepest s) (hflt : avsFault s = false)
    (hstop : dpStop s = false) (hquiet : quiet s = true) (hwait : s.pwr.waking = [])
    (hhold : s.pwr.dozeAt + max 10 (bar2Eff s 0x30010) * msT ≤ s.clk.aon) :
    ∃ t, exec .deepEntry s = .next t ∧ dom t 1 = 3 ∧ (∀ d, d ≠ 1 → dom t d = dom s d) ∧
      t = { s with pwr := { s.pwr with dom := t.pwr.dom } } := by
  refine ⟨setDom s 1 3, ?_, dom_setDom_self s 1 3, fun d => dom_setDom_ne s 3, rfl⟩
  simp [exec, execDeepEntry, hst, hdeep, hflt, hstop, hquiet, hwait, hhold]

/-- A demand, or an AVS interface in fault, keeps the device out of DOZE and of DEEP (R49, R549). -/
theorem no_entry (h : quiet s = false ∨ avsFault s = true) :
    exec .dozeEntry s = .next s ∧ exec .deepEntry s = .next s := by
  rcases h with h | h <;> simp [exec, execDozeEntry, execDeepEntry, h]

end

/-! ### Wakes -/

section
variable (s : State)

/-- A channel that fails changes its state and the event log alone (R214). -/
theorem failChannel_frame (c : Nat) : failChannel s c = { s with
    evt := (failChannel s c).evt, mem := { s.mem with chState := (failChannel s c).mem.chState } } := by
  unfold failChannel
  split
  · rw [postG_frame]
  · rfl

/-- A LIVE channel that fails is FAILED. -/
theorem chState_failChannel {c : Nat} (h : lkD s.mem.chState c 0 = 0) :
    lkD (failChannel s c).mem.chState c 0 = 1 := by
  simp [failChannel, h]

theorem fullRetrains_cons (c : Nat) (quick full : List Nat) : fullRetrains s (c :: quick) full =
    fullRetrains (if full.contains c then failChannel (postG s 0x0407 2 (c + 256 * b2n (!full.contains c)) 0 0 0) c
      else postG s 0x0407 2 (c + 256 * b2n (!full.contains c)) 0 0 0) quick full := rfl

/-- Retraining changes the states of channels and the event log alone. -/
theorem fullRetrains_frame (quick full : List Nat) : fullRetrains s quick full = { s with
    evt := (fullRetrains s quick full).evt
    mem := { s.mem with chState := (fullRetrains s quick full).mem.chState } } := by
  induction quick generalizing s with
  | nil => rfl
  | cons c quick ih =>
    rw [fullRetrains_cons, ih]
    split
    · rw [failChannel_frame, postG_frame]
    · rw [postG_frame]

@[simp] theorem fullRetrains_pwr (quick full : List Nat) : (fullRetrains s quick full).pwr = s.pwr := by
  rw [fullRetrains_frame]

@[simp] theorem fullRetrains_cfg (quick full : List Nat) : (fullRetrains s quick full).cfg = s.cfg := by
  rw [fullRetrains_frame]

/-- A channel whose full retrain succeeds leaves a record. -/
theorem fullRetrains_passed {c : Nat} {full : List Nat} (h : c ∉ full) :
    fullRetrains s [c] full = postG s 0x0407 2 (c + 256) 0 0 0 := by
  simp [fullRetrains, h, b2n]

/-- A LIVE channel that fails its full retrain is FAILED (R48, R214). -/
theorem fullRetrains_failed {c : Nat} {full : List Nat} (h : c ∈ full) (hlive : lkD s.mem.chState c 0 = 0) :
    lkD (fullRetrains s [c] full).mem.chState c 0 = 1 := by
  simp only [fullRetrains, List.foldl_cons, List.foldl_nil, List.contains_iff_mem.2 h, if_true]
  exact chState_failChannel _ (by simpa using hlive)

/-- The rails change the power state alone, and no domain. -/
theorem railsUp_frame : railsUp s = { s with pwr := { s.pwr with
    vdd := (railsUp s).pwr.vdd, avs0 := (railsUp s).pwr.avs0, avs1 := (railsUp s).pwr.avs1 } } := by
  unfold railsUp
  split <;> rfl

/-- Where no domain ran the voltage goes to the one kept, within the AVS bounds (R45). -/
theorem railsUp_vdd : (railsUp s).pwr.vdd =
    if 2 ≤ devState s then max (mgmt s 1) (min (mgmt s 2) s.pwr.vddOp) else s.pwr.vdd := by
  unfold railsUp
  split
  next h => rw [if_neg (by omega)]
  next h => rw [if_pos (by omega)]

variable (l : List Nat)

/-- A wake changes the power state alone. -/
theorem awake_frame : awake s l = { s with pwr := (awake s l).pwr } := by
  unfold awake
  dsimp only
  rw [railsUp_frame]

/-- It runs the domains that wake and no other. -/
theorem dom_awake (d : Nat) : dom (awake s l) d = if d ∈ l then 0 else dom s d := by
  have : (awake s l).pwr.dom = l.foldl (fun t d => setD t d 0 0) s.pwr.dom := by
    unfold awake; dsimp only; rw [railsUp_frame]
  rw [dom, this, lkD_foldl_setD]; rfl

/-- The target of each domain that wakes is lowered until its first trim (R43). -/
theorem dcoLow_awake {d : Nat} (h : d ∈ l) : lkD (awake s l).pwr.dcoLow d false = true := by
  unfold awake
  dsimp only
  rw [lkD_foldl_put, if_pos h]

theorem waking_awake : (awake s l).pwr.waking = s.pwr.waking.filter (fun d => !l.contains d) := by
  unfold awake
  dsimp only
  rw [railsUp_frame]

theorem vdd_awake : (awake s l).pwr.vdd =
    if 2 ≤ devState s then max (mgmt s 1) (min (mgmt s 2) s.pwr.vddOp) else s.pwr.vdd := railsUp_vdd s

end

/-- The retraining of a wake from DOZE: where MEMC wakes, the channels that fail the self-refresh exit retrain quickly,
and those that fail that retrain fully (R48). -/
def dozeRetrains (s : State) (l : List Nat) (sync quick full : List Ch) : State :=
  if l.contains 1 then fullRetrains s ((quick.filter sync.contains).map (·.val)) (full.map (·.val)) else s

section
variable (s : State) (l : List Nat) (sync quick full : List Ch)

@[simp] theorem dozeRetrains_pwr : (dozeRetrains s l sync quick full).pwr = s.pwr := by
  unfold dozeRetrains; split <;> simp

@[simp] theorem dozeRetrains_cfg : (dozeRetrains s l sync quick full).cfg = s.cfg := by
  unfold dozeRetrains; split <;> simp

/-- No channel retrains fully where none fails its quick retrain, or MEMC sleeps on. -/
theorem dozeRetrains_none {s : State} {l : List Nat} {sync quick : List Ch}
    (h : quick.filter sync.contains = [] ∨ 1 ∉ l) : dozeRetrains s l sync quick full = s := by
  unfold dozeRetrains
  rcases h with h | h
  · simp [h, fullRetrains]
  · simp [h]

theorem dozeRetrains_one {s : State} {l : List Nat} {sync quick : List Ch} {c : Ch} (h1 : 1 ∈ l)
    (h : quick.filter sync.contains = [c]) :
    dozeRetrains s l sync quick full = fullRetrains s [c.val] (full.map (·.val)) := by
  simp [dozeRetrains, h1, h]

end

/-- DOZE_WAKE: the domains that wait and are stopped run again. -/
theorem exec_dozeWake {s : State} {l : List Nat} (sync quick full : List Ch)
    (hl : l = s.pwr.waking.filter (fun d => dom s d == 2)) (hne : l ≠ []) (hstop : dpStop s = false) :
    exec (.dozeWake sync quick full) s = .next (awake (dozeRetrains s l sync quick full) l) := by
  subst hl
  simp only [exec, execDozeWake, hstop, List.isEmpty_eq_false_iff.2 hne]
  rfl

/-- DEEP_WAKE: every domain that waits, stopped or powered down, runs again once MEMC's channels have retrained. -/
theorem exec_deepWake {s : State} (quick full : List Ch) (hwait : 1 ∈ s.pwr.waking) (hdom : dom s 1 = 3)
    (hstop : dpStop s = false) : exec (.deepWake quick full) s =
      .next (awake (fullRetrains s (quick.map (·.val)) (full.map (·.val))) (s.pwr.waking.filter (fun d => 2 ≤ dom s d))) := by
  simp [exec, execDeepWake, hwait, hdom, hstop]

/-- The clause of DOZE_WAKE. -/
theorem dozeWake_spec (s : State) (sync quick full : List Ch) (l : List Nat)
    (hl : l = s.pwr.waking.filter (fun d => dom s d == 2)) (hne : l ≠ []) (hstop : dpStop s = false) :
    ∃ t, exec (.dozeWake sync quick full) s = .next t ∧ (∀ d ∈ l, dom t d = 0 ∧ lkD t.pwr.dcoLow d false = true) ∧
      (∀ d, d ∉ l → dom t d = dom s d) ∧ t.pwr.waking = s.pwr.waking.filter (fun d => !l.contains d) ∧
      (2 ≤ devState s → t.pwr.vdd = max (mgmt s 1) (min (mgmt s 2) s.pwr.vddOp)) ∧
      (devState s < 2 → t.pwr.vdd = s.pwr.vdd) ∧
      (quick.filter sync.contains = [] ∨ 1 ∉ l → t = { s with pwr := t.pwr }) ∧
      (1 ∈ l → ∀ c : Ch, quick.filter sync.contains = [c] →
        (c ∉ full → t.evt = (postG s 0x0407 2 (c.val + 256) 0 0 0).evt ∧ t = { s with pwr := t.pwr, evt := t.evt }) ∧
        (c ∈ full → lkD s.mem.chState c.val 0 = 0 → lkD t.mem.chState c.val 0 = 1)) := by
  have hpwr := dozeRetrains_pwr s l sync quick full
  have hvdd := vdd_awake (dozeRetrains s l sync quick full) l
  rw [devState_congr hpwr, mgmt_congr (dozeRetrains_cfg ..), mgmt_congr (dozeRetrains_cfg ..), hpwr] at hvdd
  refine ⟨_, exec_dozeWake sync quick full hl hne hstop, fun d hd => ⟨?_, dcoLow_awake _ l hd⟩, fun d hd => ?_, ?_,
    fun h => ?_, fun h => ?_, fun h => ?_, fun h1 c hc => ⟨fun hfull => ?_, fun hfull hlive => ?_⟩⟩
  · rw [dom_awake, if_pos hd]
  · rw [dom_awake, if_neg hd, dom_congr hpwr]
  · rw [waking_awake, hpwr]
  · rw [hvdd, if_pos h]
  · rw [hvdd, if_neg (Nat.not_le.2 h)]
  · rw [dozeRetrains_none full h]
    exact awake_frame s l
  · rw [dozeRetrains_one full h1 hc, fullRetrains_passed s (by simpa [Fin.val_inj] using hfull), awake_frame]
    exact ⟨rfl, by rw [postG_frame]⟩
  · rw [dozeRetrains_one full h1 hc, awake_frame]
    exact fullRetrains_failed s (List.mem_map.2 ⟨c, hfull, rfl⟩) hlive

/-- The clause of DEEP_WAKE. -/
theorem deepWake_spec (s : State) (quick full : List Ch) (hwait : 1 ∈ s.pwr.waking) (hdom : dom s 1 = 3)
    (hstop : dpStop s = false) :
    ∃ t, exec (.deepWake quick full) s = .next t ∧ dom t 1 = 0 ∧ 1 ∉ t.pwr.waking ∧
      lkD t.pwr.dcoLow 1 false = true ∧ (quick = [] → t = { s with pwr := t.pwr }) ∧
      (∀ d, d ∈ s.pwr.waking → 2 ≤ dom s d → dom t d = 0) ∧
      (2 ≤ devState s → t.pwr.vdd = max (mgmt s 1) (min (mgmt s 2) s.pwr.vddOp)) := by
  have hmem {d : Nat} (hd : d ∈ s.pwr.waking) (h2 : 2 ≤ dom s d) : d ∈ s.pwr.waking.filter (fun d => 2 ≤ dom s d) :=
    List.mem_filter.2 ⟨hd, decide_eq_true h2⟩
  have h1 := hmem hwait (by omega)
  have hpwr := fullRetrains_pwr s (quick.map (·.val)) (full.map (·.val))
  have hcfg := fullRetrains_cfg s (quick.map (·.val)) (full.map (·.val))
  refine ⟨_, exec_deepWake quick full hwait hdom hstop, ?_, ?_, dcoLow_awake _ _ h1, ?_, fun d hd h2 => ?_, fun h => ?_⟩
  · rw [dom_awake, if_pos h1]
  · rw [waking_awake, List.mem_filter, List.contains_iff_mem.2 h1]
    exact fun h => Bool.false_ne_true h.2
  · rintro rfl
    exact awake_frame s _
  · rw [dom_awake, if_pos (hmem hd h2)]
  · rw [vdd_awake, devState_congr hpwr, mgmt_congr hcfg, mgmt_congr hcfg, hpwr, if_pos h]

/-- Settles O34: each row of the controller has its clause, from what a demand, an entry and a wake do to a domain. -/
theorem powerStatesFollowDemand : Obligations.PowerStatesFollowDemand := by
  intro s
  refine ⟨powerStateEvaluate_spec s, idleEntry_spec s, dozeEntry_spec s, deepEntry_spec s, no_entry s,
    dozeWake_spec s, deepWake_spec s, ?_⟩
  intro hwait sync quick full
  simp [exec, execDozeWake, execDeepWake, hwait]

end Sys2Proof.Machine
end

section
/-! Concrete inputs that meet the hypotheses of O29, O34 and O36, with what the statements then say of them. -/

namespace Sys2Proof.Machine

/-- R34 in one event: partition 3's log takes number 0, the global log number 1, whatever order they are named in. -/
theorem eventPost_reset : ∃ t, exec (.eventPost [.global, .partition 3] (evRec 0x0201 2 3 1 0 0 0)) State.reset = .next t ∧
    t.evt.seq = 2 ∧ StampedIn State.reset t 3 0 (evRec 0x0201 2 3 1 0 0 0) ∧
    StampedIn State.reset t globalLog 1 (evRec 0x0201 2 3 1 0 0 0) := by
  obtain ⟨t, hexec, -, hseq, hst, -⟩ := recordsAreStamped.2 State.reset [.global, .partition 3]
    (evRec 0x0201 2 3 1 0 0 0) rfl [3, 33] (by decide)
  exact ⟨t, hexec, hseq, hst 0 3 rfl, hst 1 33 rfl⟩

/-- A device in DOZE with CORE and MEMC waiting for their wake. -/
def dozing : State := { State.reset with pwr := { State.reset.pwr with
  dom := [(0, 2), (1, 2), (2, 2), (3, 2), (4, 2), (5, 2)], waking := [0, 1], vdd := 500, vddOp := 700 } }

/-- Channel 5 fails every retrain of the wake; the link domain sleeps on. -/
theorem dozeWake_dozing : ∃ t, exec (.dozeWake [5] [5] [5]) dozing = .next t ∧ dom t 1 = 0 ∧ dom t 2 = 2 ∧
    t.pwr.vdd = 700 ∧ lkD t.mem.chState 5 0 = 1 := by
  obtain ⟨-, -, -, -, -, hwake, -⟩ := powerStatesFollowDemand dozing
  obtain ⟨t, hexec, hrun, hleft, -, hvdd, -, -, hchan⟩ :=
    hwake [5] [5] [5] [0, 1] (by decide +kernel) (by decide) (by decide +kernel)
  refine ⟨t, hexec, (hrun 1 (by decide)).1, hleft 2 (by decide), ?_, ?_⟩
  · exact (hvdd (by decide +kernel)).trans (by decide +kernel)
  · exact (hchan (by decide) 5 (by decide)).2 (by decide) (by decide +kernel)

/-- A PARTITION_CREATE that function 1 asks for. -/
def createReq : MbxReq := ⟨slice [0x00, 0x02, 0, 0, 0x38, 0] 0 2048, 1, 0⟩

/-- A device whose function 1 has asked. -/
def createAsked : State :=
  { State.reset with mbx := put State.reset.mbx 1 { mbxOf State.reset 1 with latched := some createReq } }

theorem createAsked_asks : Asks createAsked 1 0x200 createReq := by
  refine ⟨?_, ?_, ?_, ?_, ?_⟩ <;> decide +kernel

/-- A VF may not create a partition. -/
theorem partitionCreate_vf : ∃ t, exec (.partitionCreate 1) createAsked = .next t ∧ Replied createAsked t 1 0x14 1 0 [] := by
  obtain ⟨hrow, hcheck, -, -⟩ := mailboxRefusals
  have hop : reqOp createReq.bytes = 0x200 := createAsked_asks.2.2.1
  obtain ⟨-, hserve⟩ := hcheck createAsked 1 createReq (cmdPf0 quotaMasks) (hop ▸ createAsked_asks) (by decide +kernel)
    (by rw [hop]; rfl)
  exact hrow createAsked (.partitionCreate 1) 1 0x200 _ createReq 0x14 1 rfl createAsked_asks rfl
    ((hserve rfl).1 rfl (by decide))

end Sys2Proof.Machine
end

section
/-! O38: the commands of the power permission and the loop bounds (R67, R129, R504, R562), and COLOPHON_READ. -/

namespace Sys2Proof.Machine

/-! ### Leaving a state deeper than the deepest in effect (R562) -/

section
variable (s : State)

@[simp] theorem enforceDeepest_cfg : (enforceDeepest s).cfg = s.cfg := by rw [enforceDeepest_frame]

@[simp] theorem enforceDeepest_mbx : (enforceDeepest s).mbx = s.mbx := by rw [enforceDeepest_frame]

/-- A device no deeper than the deepest state in effect stays where it is. -/
theorem enforceDeepest_of_le {s : State} (h : devState s ≤ deepest s) : enforceDeepest s = s := by
  simp [enforceDeepest, Nat.not_lt.2 h]

/-! ### The AMC's commit of a bound -/

variable (w v : Nat)

/-- A bound changes the configuration, and at most has domains wait for their wake. -/
theorem setBound_frame : setBound s w v =
    { s with cfg := (setBound s w v).cfg, pwr := { s.pwr with waking := (setBound s w v).pwr.waking } } := by
  unfold setBound
  dsimp only
  split
  · rw [enforceDeepest_frame]; rfl
  · rfl

/-- The words as the AMC wrote them take the value at w; the committed copy is written whole from them (log entry 31), at
this time. -/
theorem setBound_cfg : (setBound s w v).cfg = { (setBound s w v).cfg with
    mgmtStaged := setD s.cfg.mgmtStaged w v (mgmtDefault w)
    mgmtCommitted := setD s.cfg.mgmtStaged w v (mgmtDefault w)
    commitAt := put s.cfg.commitAt 2 s.clk.aon } := by
  unfold setBound
  dsimp only
  split
  · rw [enforceDeepest_cfg]; rfl
  · rfl

theorem mgmtStaged_setBound_self : mgmtStaged (setBound s w v) w = v := by
  rw [mgmtStaged, setBound_cfg]; exact lkD_setD_self ..

theorem mgmtStaged_setBound_ne {n : Nat} (h : n ≠ w) : mgmtStaged (setBound s w v) n = mgmtStaged s n := by
  rw [mgmtStaged, setBound_cfg]; exact lkD_setD_ne _ _ _ _ h

theorem mgmtCommitted_setBound_self : mgmtCommitted (setBound s w v) w = v := by
  rw [mgmtCommitted, setBound_cfg]; exact lkD_setD_self ..

theorem commitAt_setBound : lkD (setBound s w v).cfg.commitAt 2 0 = s.clk.aon := by
  rw [setBound_cfg]; exact lkD_put_self ..

@[simp] theorem setBound_mbx : (setBound s w v).mbx = s.mbx := by rw [setBound_frame]

end

/-! ### Short commands -/

section
variable {s : State} {f op : Nat} {b : List Byte} {body : State → Nat → List Byte → MOut}
  {o : Host.Outcome State Fault Refusal} (ho : o = .next (runShort s f op body)) (h : Ready s f op b)
include ho h

/-- A short command that runs is answered MS_OK, from the state that its effect leaves. -/
theorem short_ok {res : List Byte} {u : State} {fw : Bool} (hb : body s f b = .ok res u fw) (hm : u.mbx = s.mbx) :
    ∃ t, o = .next t ∧ Replied (if fw then fwCommit u else u) t f 0 0 0 res :=
  ok_replied (sel := fun _ => true) h rfl hb (by rw [mbxOf, hm]; rfl) ho

/-- A short command that fails is answered with its failure, and nothing else changes. -/
theorem short_fail {st d : Nat} (hb : body s f b = .fail st d) : ∃ t, o = .next t ∧ Replied s t f st d 0 [] :=
  fail_replied (sel := fun _ => true) h rfl hb ho

end

/-! ### What the bodies of the commands come to -/

section
variable {s : State} {b : List Byte} (f : Nat)

theorem setPermit_ok (h : leAt b 8 1 % 4 ≠ 0) : setPermit s f b =
    .ok [] (enforceDeepest { s with pwr := { s.pwr with permit := leAt b 8 1 % 4 } }) true :=
  checked_ok (beq_false_of_ne h) _ _

theorem setPermit_zero (h : leAt b 8 1 % 4 = 0) : setPermit s f b = .fail 0x12 8 :=
  checked_bad (by simp [h]) _ _

theorem setLoopBounds_word (h : 6 < leAt b 8 1) : setLoopBounds s f b = .fail 0x12 8 :=
  checked_bad (decide_eq_true h) _ _

/-- Past the check of the word's number, the AMC answers. -/
theorem setLoopBounds_amc (h : leAt b 8 1 ≤ 6) : setLoopBounds s f b =
    checked [amcUp s, (!boundAccepted s (leAt b 8 1) (leAt b 0x0C 4), 0x12, 0x0C)]
      (.ok [] (setBound s (leAt b 8 1) (leAt b 0x0C 4)) false) :=
  checked_ok (decide_eq_false (Nat.not_lt.2 h)) _ _

theorem setLoopBounds_down (h : leAt b 8 1 ≤ 6) (hdown : s.mgmt.amcDown = true) :
    setLoopBounds s f b = .fail 0x1E 2 :=
  (setLoopBounds_amc f h).trans (checked_bad hdown _ _)

/-- An AMC that runs accepts the bound or finds it out of range. -/
theorem setLoopBounds_up (h : leAt b 8 1 ≤ 6) (hup : s.mgmt.amcDown = false) : setLoopBounds s f b =
    if boundAccepted s (leAt b 8 1) (leAt b 0x0C 4) = true then
      .ok [] (setBound s (leAt b 8 1) (leAt b 0x0C 4)) false
    else .fail 0x12 0x0C := by
  rw [setLoopBounds_amc f h, checked_ok hup, checked_cons, checked_nil]
  cases boundAccepted s (leAt b 8 1) (leAt b 0x0C 4) <;> rfl

end

/-! ### The four commands -/

section
variable {s : State} {f : Fn} {b : List Byte}

theorem exec_getLoopBounds : exec (.getLoopBounds f) s = .next (runShort s f.val 0x702 getLoopBounds) := rfl

theorem exec_colophonRead : exec (.colophonRead f) s =
    .next (runShort s f.val 0xA00 (fun s _ _ => .ok (colophon s) s false)) := rfl

/-- The clause of SET_POWER_PERMIT. -/
theorem setPowerPermit_spec (h : Ready s f.val 0x700 b) (v : Nat) (hv : v = leAt b 8 1 % 4) :
    (v ≠ 0 → ∃ t u w, exec (.setPowerPermit f) s = .next t ∧ Replied u t f.val 0 0 0 [] ∧
      w = { s with pwr := { s.pwr with permit := v } } ∧ u = fwCommit (enforceDeepest w) ∧
      (devState s ≤ deepest w → u = fwCommit w)) ∧
    (v = 0 → ∃ t, exec (.setPowerPermit f) s = .next t ∧ Replied s t f.val 0x12 8 0 []) := by
  subst hv
  refine ⟨fun hv => ?_, fun hv => short_fail rfl h (setPermit_zero _ hv)⟩
  obtain ⟨t, hexec, hrep⟩ := short_ok rfl h (setPermit_ok _ hv) (enforceDeepest_mbx _)
  exact ⟨t, _, _, hexec, hrep, rfl, rfl, fun hle => congrArg fwCommit (enforceDeepest_of_le hle)⟩

/-- The clause of SET_LOOP_BOUNDS. -/
theorem setLoopBounds_spec (h : Ready s f.val 0x701 b) (w v : Nat) (hw : w = leAt b 8 1) (hv : v = leAt b 0x0C 4) :
    (w ≤ 6 → s.mgmt.amcDown = false → boundAccepted s w v = true →
      ∃ t u, exec (.setLoopBounds f) s = .next t ∧ Replied u t f.val 0 0 0 [] ∧ mgmtStaged u w = v ∧
        mgmtCommitted u w = v ∧ (∀ n, n ≠ w → mgmtStaged u n = mgmtStaged s n) ∧ lkD u.cfg.commitAt 2 0 = s.clk.aon ∧
        u = { s with cfg := u.cfg, pwr := { s.pwr with waking := u.pwr.waking } }) ∧
    (w ≤ 6 → s.mgmt.amcDown = true → ∃ t, exec (.setLoopBounds f) s = .next t ∧ Replied s t f.val 0x1E 2 0 []) ∧
    (6 < w → ∃ t, exec (.setLoopBounds f) s = .next t ∧ Replied s t f.val 0x12 8 0 []) ∧
    (w ≤ 6 → s.mgmt.amcDown = false → boundAccepted s w v = false →
      ∃ t, exec (.setLoopBounds f) s = .next t ∧ Replied s t f.val 0x12 0x0C 0 []) := by
  subst hw hv
  refine ⟨fun hw hup hacc => ?_, fun hw hdown => short_fail rfl h (setLoopBounds_down _ hw hdown),
    fun hw => short_fail rfl h (setLoopBounds_word _ hw), fun hw hup hacc => ?_⟩
  · obtain ⟨t, hexec, hrep⟩ := short_ok rfl h ((setLoopBounds_up _ hw hup).trans (if_pos hacc)) (setBound_mbx ..)
    exact ⟨t, _, hexec, hrep, mgmtStaged_setBound_self .., mgmtCommitted_setBound_self ..,
      fun n hn => mgmtStaged_setBound_ne _ _ _ hn, commitAt_setBound .., setBound_frame ..⟩
  · exact short_fail rfl h ((setLoopBounds_up _ hw hup).trans (if_neg (by simp [hacc])))

end

/-- Settles O38: each command comes to an answer with its effect, or to the answer of the first check that fails. -/
theorem powerCommands : Obligations.PowerCommands := by
  intro s f b
  refine ⟨fun h v => setPowerPermit_spec h v, fun h w v => setLoopBounds_spec h w v, fun h => ?_, fun h => ?_⟩
  · exact short_ok exec_getLoopBounds h rfl rfl
  · exact short_ok exec_colophonRead h rfl rfl

end Sys2Proof.Machine
end

section
/-! O35: the DCO trims, the AVS loop and its retries, the temperature samples and the thermal throttle (R42, R45,
R58 to R63, R549). -/

namespace Sys2Proof.Machine

/-! ### The loops' reports -/

section
variable (s : State) (n : Nat)

@[simp] theorem loop_setLoop_self (l : Loop) : loop (setLoop s n l) n = l := lkD_setD_self ..

@[simp] theorem pinned_setPinned (p : Nat) : (loop (setPinned s n p) n).pinned = p := by simp [setPinned]

@[simp] theorem crossed_setPinned (p : Nat) : (loop (setPinned s n p) n).crossed = (loop s n).crossed := by
  simp [setPinned]

theorem loop_congr {s t : State} (h : t.pwr.loops = s.pwr.loops) : loop t n = loop s n := by simp only [loop, h]

/-- A loop that has not crossed a bound crosses it. -/
theorem crossOn_of_zero {s : State} {n : Nat} (r : Nat) (h : (loop s n).crossed = 0) : crossOn s n r =
    postG (setLoop s n { loop s n with crossed := r, ovrCnt := (loop s n).ovrCnt + 1 }) 0x0901 2
      (n + 16 * r + 256) 0 0 0 := by
  simp [crossOn, h]

theorem crossed_crossOn_of_zero {s : State} {n : Nat} (r : Nat) (h : (loop s n).crossed = 0) :
    (loop (crossOn s n r) n).crossed = r := by
  rw [crossOn_of_zero r h, loop_congr n (congrArg Pwr.loops (postG_pwr ..)), loop_setLoop_self]

/-- After a crossing the loop is crossed, whether it was before or not. -/
theorem crossed_crossOn_ne_zero {r : Nat} (hr : r ≠ 0) : (loop (crossOn s n r) n).crossed ≠ 0 := by
  by_cases h : (loop s n).crossed = 0
  · rwa [crossed_crossOn_of_zero r h]
  · simp [crossOn, h]

/-- A record depends on the event log, the time and the device alone. -/
theorem postG_evt_congr {s t : State} (he : t.evt = s.evt) (hc : t.clk.aon = s.clk.aon) (hi : t.ident = s.ident)
    (type sev p0 p1 p2 p3 : Nat) : (postG t type sev p0 p1 p2 p3).evt = (postG s type sev p0 p1 p2 p3).evt := by
  simp only [postG, postOne, he, hc, hi]
  split <;> rfl

/-- A crossing leaves the record of that loop and reason. -/
theorem evt_crossOn_of_zero {s t : State} {n : Nat} (r : Nat) (h : (loop t n).crossed = 0) (he : t.evt = s.evt)
    (hc : t.clk.aon = s.clk.aon) (hi : t.ident = s.ident) :
    (crossOn t n r).evt = (postG s 0x0901 2 (n + 16 * r + 256) 0 0 0).evt := by
  rw [crossOn_of_zero r h]
  exact postG_evt_congr (t := setLoop t n _) he hc hi ..

end

/-! ### What the clock and the loops' reports leave alone -/

/-- From s to t the CORE clock, what holds it, the loops' reports and the event log alone may have changed. -/
def ClockMoved (s t : State) : Prop := t = { s with
  evt := t.evt
  pwr := { s.pwr with coreClk := t.pwr.coreClk, clkWhy := t.pwr.clkWhy, loops := t.pwr.loops } }

namespace ClockMoved

theorem refl (s : State) : ClockMoved s s := rfl

theorem trans {s t u : State} (h : ClockMoved s t) (h' : ClockMoved t u) : ClockMoved s u := by
  unfold ClockMoved at *
  rw [h', h]

theorem setClk (s : State) (c : Nat) : ClockMoved s (setClk s c) := rfl

theorem setLoop (s : State) (n : Nat) (l : Loop) : ClockMoved s (setLoop s n l) := rfl

theorem setPinned (s : State) (n p : Nat) : ClockMoved s (setPinned s n p) := rfl

theorem postG (s : State) (type sev p0 p1 p2 p3 : Nat) : ClockMoved s (postG s type sev p0 p1 p2 p3) := by
  unfold ClockMoved
  rw [postG_frame]

theorem crossOn (s : State) (n r : Nat) : ClockMoved s (crossOn s n r) := by
  unfold Machine.crossOn
  dsimp only
  split
  · exact refl s
  · exact (setLoop s n _).trans (postG ..)

theorem crossOff (s : State) (n : Nat) : ClockMoved s (crossOff s n) := by
  unfold Machine.crossOff
  dsimp only
  split
  · exact refl s
  · exact (setLoop s n _).trans (postG ..)

section
variable {s t : State} (h : ClockMoved s t)
include h

theorem pwr : t.pwr = { s.pwr with coreClk := t.pwr.coreClk, clkWhy := t.pwr.clkWhy, loops := t.pwr.loops } :=
  congrArg State.pwr h

theorem frame : t = { s with pwr := t.pwr, evt := t.evt } := by rw [h]

/-- The caps on the clock stay. -/
theorem clkCap : clkCap t = Machine.clkCap s := by rw [h]; rfl

end

end ClockMoved

@[simp] theorem setClk_coreClk (s : State) (c : Nat) : (setClk s c).pwr.coreClk = min c (clkCap s) := rfl

@[simp] theorem setClk_evt (s : State) (c : Nat) : (setClk s c).evt = s.evt := rfl

@[simp] theorem loop_setClk (s : State) (c n : Nat) : loop (setClk s c) n = loop s n := rfl

/-! ### DCO trims (R42, R43, R63) -/

section
variable (s : State) (d m : Nat)

/-- The target of a trim window, in 1/800 of a count: 1% lower until the first trim of a wake. -/
def trimTarget : Nat := trimExpected s d * (if lkD s.pwr.dcoLow d false then 99 else 100)

/-- The error of a window that counts m, in millionths of the target's unit. -/
def trimError : Int := (((m * 800 : Nat) : Int) - (trimTarget s d : Nat)) * 1000000

/-- The error in ppm. -/
def trimPpm : Int := roundNe (trimError s d m) (max (trimTarget s d) 1)

/-- The code that the error asks for, before its 12 bits bound it. -/
def trimWant : Int := (lkD s.pwr.dcoCode d 0 : Nat) - roundNe (trimError s d m) (max (trimTarget s d * 1000) 1)

/-- A code bounded to 12 bits. -/
def within12 (c : Int) : Nat := (if c < 0 then 0 else if 4095 < c then 4095 else c).toNat

theorem within12_le (c : Int) : within12 c ≤ 4095 := by unfold within12; grind

theorem within12_of_le {k : Nat} (h : k ≤ 4095) : within12 k = k := by unfold within12; grind

/-- Whether the error asks for extra trims. -/
def trimBig : Bool := decide (5000 < trimPpm s d m) || decide (trimPpm s d m < -5000)

/-- What a window leaves, before the loop's report follows it. -/
def trimmed : State := { s with pwr := { s.pwr with
  dcoCode := setD s.pwr.dcoCode d (within12 (trimWant s d m)) 0
  dcoErr := setD s.pwr.dcoErr d (twos 16 (trimPpm s d m)) 0
  dcoLow := setD s.pwr.dcoLow d false false
  dcoFast := setD s.pwr.dcoFast d (trimBig s d m) false } }

theorem dcoTrim_eq : dcoTrim s d m =
    if trimBig s d m = true then crossOn (trimmed s d m) 1 2
    else if ((trimmed s d m).pwr.dcoFast.isEmpty && (loop (trimmed s d m) 1).crossed = 2) = true then
      crossOff (trimmed s d m) 1
    else trimmed s d m := rfl

/-- Past the window's own changes only the loop's report moves. -/
theorem clockMoved_dcoTrim : ClockMoved (trimmed s d m) (dcoTrim s d m) := by
  rw [dcoTrim_eq]
  split
  · exact .crossOn ..
  · split
    · exact .crossOff ..
    · exact .refl _

/-- The loop has crossed its bound while extra trims run (R63). -/
theorem crossed_dcoTrim (h : trimBig s d m = true) : (loop (dcoTrim s d m) 1).crossed ≠ 0 := by
  rw [dcoTrim_eq, if_pos h]
  exact crossed_crossOn_ne_zero _ _ (by decide)

/-- What a window leaves of the power state. -/
theorem dcoTrim_fields : lkD (dcoTrim s d m).pwr.dcoErr d 0 = twos 16 (trimPpm s d m) ∧
    lkD (dcoTrim s d m).pwr.dcoLow d false = false ∧
    lkD (dcoTrim s d m).pwr.dcoCode d 0 = within12 (trimWant s d m) ∧
    lkD (dcoTrim s d m).pwr.dcoFast d false = trimBig s d m ∧
    ∀ k, k ≠ d → lkD (dcoTrim s d m).pwr.dcoCode k 0 = lkD s.pwr.dcoCode k 0 := by
  rw [(clockMoved_dcoTrim s d m).pwr]
  exact ⟨lkD_setD_self .., lkD_setD_self s.pwr.dcoLow d false false, lkD_setD_self .., lkD_setD_self ..,
    fun k hk => lkD_setD_ne _ _ _ _ hk⟩

theorem dcoTrim_frame : dcoTrim s d m = { s with pwr := (dcoTrim s d m).pwr, evt := (dcoTrim s d m).evt } :=
  (clockMoved_dcoTrim s d m).frame

/-- The next window of a domain's loop, where this one was its periodic one. -/
def nextTrim : State := if isDue s (.trim d) then setDue s (.trim d) (25 * mgmt s 3) else s

/-- The time of the next window alone changes. -/
theorem nextTrim_frame : nextTrim s d = { s with clk := { s.clk with due := (nextTrim s d).clk.due } } := by
  unfold nextTrim
  split <;> rfl

@[simp] theorem nextTrim_pwr : (nextTrim s d).pwr = s.pwr := by rw [nextTrim_frame]

theorem exec_dcoTrim (d : Dom) : exec (.dcoTrim d m) s = .next
    (if ((isDue s (.trim d.val) || lkD s.pwr.dcoFast d.val false || lkD s.pwr.dcoLow d.val false) &&
        !s.pwr.off && !s.pwr.thermtrip) = true then
      if (decide (dom (nextTrim s d.val) d.val ≤ 1) && !bitOf (bar2Eff s (0x30080 + 4 * d.val)) 31) = true then
        dcoTrim (nextTrim s d.val) d.val m
      else nextTrim s d.val
    else s) := rfl

end

/-- The clause of DCO_TRIM where an override suspends the loop (R42). -/
theorem dcoTrim_override {s : State} {d : Dom} (m : Nat)
    (hovr : bitOf (bar2Eff s (0x30080 + 4 * d.val)) 31 = true) :
    ∃ t, exec (.dcoTrim d m) s = .next t ∧ t = { s with clk := { s.clk with due := t.clk.due } } := by
  refine ⟨_, exec_dcoTrim s m d, ?_⟩
  simp only [hovr, Bool.not_true, Bool.and_false, Bool.false_eq_true, if_false]
  split
  · exact nextTrim_frame s d.val
  · rfl

/-- The clause of DCO_TRIM. -/
theorem dcoTrim_spec {s : State} (hoff : s.pwr.off = false) (htrip : s.pwr.thermtrip = false) (d : Dom) (m e : Nat)
    (ppm : Int)
    (hdue : isDue s (.trim d.val) = true ∨ lkD s.pwr.dcoFast d.val false = true ∨ lkD s.pwr.dcoLow d.val false = true)
    (hdom : dom s d.val ≤ 1) (hovr : bitOf (bar2Eff s (0x30080 + 4 * d.val)) 31 = false)
    (he : e = trimExpected s d * (if lkD s.pwr.dcoLow d.val false then 99 else 100))
    (hppm : ppm = roundNe ((((m * 800 : Nat) : Int) - e) * 1000000) (max e 1)) :
    ∃ t, exec (.dcoTrim d m) s = .next t ∧ lkD t.pwr.dcoErr d.val 0 = twos 16 ppm ∧
      lkD t.pwr.dcoLow d.val false = false ∧ lkD t.pwr.dcoCode d.val 0 ≤ 4095 ∧
      (∀ k : Nat, (k : Int) = (lkD s.pwr.dcoCode d.val 0 : Nat) -
        roundNe ((((m * 800 : Nat) : Int) - e) * 1000000) (max (e * 1000) 1) → k ≤ 4095 → lkD t.pwr.dcoCode d.val 0 = k) ∧
      (lkD t.pwr.dcoFast d.val false = true ↔ 5000 < ppm ∨ ppm < -5000) ∧
      (5000 < ppm ∨ ppm < -5000 → (loop t 1).crossed ≠ 0) ∧
      (∀ k, k ≠ d.val → lkD t.pwr.dcoCode k 0 = lkD s.pwr.dcoCode k 0) ∧
      t = { s with pwr := t.pwr, evt := t.evt, clk := { s.clk with due := t.clk.due } } := by
  obtain rfl : e = trimTarget s d.val := he
  obtain rfl : ppm = trimPpm s d.val m := hppm
  have hexec : exec (.dcoTrim d m) s = .next (dcoTrim (nextTrim s d.val) d.val m) := by
    rw [exec_dcoTrim, if_pos (by simp [hoff, htrip, or_assoc, hdue]),
      if_pos (by simp [hovr, dom_congr (nextTrim_pwr s d.val), hdom])]
  have hbig : trimBig s d.val m = true ↔ 5000 < trimPpm s d.val m ∨ trimPpm s d.val m < -5000 := by simp [trimBig]
  refine ⟨_, hexec, ?_⟩
  rw [nextTrim_frame]
  obtain ⟨herr, hlow, hcode, hfast, hleft⟩ :=
    dcoTrim_fields { s with clk := { s.clk with due := (nextTrim s d.val).clk.due } } d.val m
  refine ⟨herr, hlow, hcode ▸ within12_le _, fun k hk hle => ?_, ?_, fun h => ?_, hleft, ?_⟩
  · exact hcode.trans ((congrArg within12 hk.symm).trans (within12_of_le hle))
  · exact hfast ▸ hbig
  · exact crossed_dcoTrim _ _ _ (hbig.2 h)
  · rw [dcoTrim_frame]

/-! ### The AVS loop (R45, R63, R549) -/

/-- AVS sets its cap on the clock. -/
def setCap (s : State) (c : Nat) : State := { s with pwr := { s.pwr with avsCap := c } }

/-- A step whose bound leaves no margin: the clock falls 50 MHz, and below the clock's lower bound the loop crosses. -/
def stepDown (s : State) : State :=
  let clk := max 400 (s.pwr.coreClk - 50)
  setClk (if clk < mgmt (setCap s clk) 5 then crossOn (setCap s clk) 0 2 else setCap s clk) clk

/-- The loop's crossing ends once the clock is back within its bounds. -/
def endCrossing (s : State) : State :=
  if mgmt s 5 ≤ s.pwr.coreClk then setClk (crossOff s 0) s.pwr.coreClk else s

/-- A step with margin: the cap rises 50 MHz, and a loop that has crossed brings the clock back. -/
def stepUp (s : State) : State :=
  let s := setCap s (min 1400 (s.pwr.avsCap + 50))
  if (loop s 0).crossed = 2 then
    endCrossing (setClk s (if s.pwr.coreClk < mgmt s 5 then s.pwr.coreClk + 50 else s.pwr.coreClk))
  else s

/-- A cap is set whether the loop's report has moved or not. -/
theorem ClockMoved.setPinned_setCap (s : State) (n p c : Nat) :
    ClockMoved (setCap s c) (setCap (Machine.setPinned s n p) c) := rfl

theorem clockMoved_stepDown (s : State) : ClockMoved (setCap s (max 400 (s.pwr.coreClk - 50))) (stepDown s) := by
  refine .trans ?_ (.setClk ..)
  split
  · exact .crossOn ..
  · exact .refl _

theorem coreClk_stepDown (s : State) : (stepDown s).pwr.coreClk ≤ max 400 (s.pwr.coreClk - 50) := min_le_left ..

theorem clockMoved_endCrossing (s : State) : ClockMoved s (endCrossing s) := by
  unfold endCrossing
  split
  · exact .trans (.crossOff ..) (.setClk ..)
  · exact .refl s

theorem clockMoved_stepUp (s : State) : ClockMoved (setCap s (min 1400 (s.pwr.avsCap + 50))) (stepUp s) := by
  unfold stepUp
  dsimp only
  split
  · exact .trans (.setClk ..) (clockMoved_endCrossing _)
  · exact .refl _

section
variable (s : State) (least : Nat)

/-- The upper bound of VDD_CORE. -/
def vddHigh : Nat := min 800 (mgmt s 2)

/-- The least voltage with margin plus the guard band, on 5 mV. -/
def vddWanted : Nat := (least + s.bg.agingG + 4) / 5 * 5

/-- The voltage that a step commands, within the bounds. -/
def vddFor : Nat := max (max 500 (mgmt s 1)) (min (vddHigh s) (vddWanted s least))

/-- A step with both interfaces free of faults: the voltage, how the loop stands at its bounds, then the clock. -/
theorem avsStep_eq {s : State} (hflt : avsFault s = false) : ∃ p, avsStep s least =
    if vddHigh s < least then stepDown (setPinned (command s (vddFor s least)) 0 p)
    else stepUp (setPinned (command s (vddFor s least)) 0 p) := by
  refine ⟨if vddWanted s least < max 500 (mgmt s 1) then 1 else if vddHigh s < vddWanted s least then 2 else 0, ?_⟩
  unfold avsStep
  rw [hflt]
  rfl

/-- The cap after a step. -/
def avsCapFor : Nat := if vddHigh s < least then max 400 (s.pwr.coreClk - 50) else min 1400 (s.pwr.avsCap + 50)

/-- A step commands the voltage and sets the cap; past that, only the clock and the loops' reports move. -/
theorem clockMoved_avsStep {s : State} (hflt : avsFault s = false) :
    ClockMoved (setCap (command s (vddFor s least)) (avsCapFor s least)) (avsStep s least) := by
  obtain ⟨p, heq⟩ := avsStep_eq least hflt
  rw [heq, avsCapFor]
  split
  · exact .trans (.setPinned_setCap _ 0 p _) (clockMoved_stepDown _)
  · exact .trans (.setPinned_setCap _ 0 p _) (clockMoved_stepUp _)

/-- Where the bound leaves no margin the clock falls. -/
theorem coreClk_avsStep {s : State} (hflt : avsFault s = false) (h : vddHigh s < least) :
    (avsStep s least).pwr.coreClk ≤ max 400 (s.pwr.coreClk - 50) := by
  obtain ⟨p, heq⟩ := avsStep_eq least hflt
  rw [heq, if_pos h]
  exact coreClk_stepDown _

end

theorem exec_avsStep {s : State} (hoff : s.pwr.off = false) (htrip : s.pwr.thermtrip = false)
    (hdue : isDue s .avs = true) (least : Nat) : exec (.avsStep least) s =
      .next (if devState s = 0 then avsStep (setDue s .avs 2500) least else setDue s .avs 2500) := by
  simp only [exec, execAvsStep, hoff, htrip, hdue]
  rfl

/-- The clause of AVS_STEP. -/
theorem avsStep_spec {s : State} (hoff : s.pwr.off = false) (htrip : s.pwr.thermtrip = false) (least want : Nat)
    (hdue : isDue s .avs = true) (hst : devState s = 0) (hflt : avsFault s = false)
    (hwant : want = (least + s.bg.agingG + 4) / 5 * 5) :
    ∃ t, exec (.avsStep least) s = .next t ∧
      t.pwr.vdd = max (max 500 (mgmt s 1)) (min (min 800 (mgmt s 2)) want) ∧
      t.pwr.avs0.conf = t.pwr.vdd ∧ t.pwr.avs1.conf = min 850 (max 750 (t.pwr.vdd + 50)) ∧
      (min 800 (mgmt s 2) < least → t.pwr.avsCap = max 400 (s.pwr.coreClk - 50) ∧
        t.pwr.coreClk ≤ max 400 (s.pwr.coreClk - 50)) ∧
      (least ≤ min 800 (mgmt s 2) → t.pwr.avsCap = min 1400 (s.pwr.avsCap + 50)) ∧
      t = { s with pwr := t.pwr, evt := t.evt, clk := { s.clk with due := t.clk.due } } := by
  subst hwant
  have hmoved := clockMoved_avsStep (s := setDue s .avs 2500) least hflt
  refine ⟨_, by rw [exec_avsStep hoff htrip hdue, if_pos hst], ?_⟩
  have hcap : (avsStep (setDue s .avs 2500) least).pwr.avsCap = avsCapFor s least := by rw [hmoved]; rfl
  have hvdd : (avsStep (setDue s .avs 2500) least).pwr.vdd = vddFor s least := by rw [hmoved]; rfl
  refine ⟨hvdd, ?_, ?_, fun h => ⟨hcap.trans (if_pos h), coreClk_avsStep (s := setDue s .avs 2500) least hflt h⟩,
    fun h => hcap.trans (if_neg (Nat.not_lt.2 h)), ?_⟩
  · rw [hmoved]; rfl
  · rw [hmoved]; rfl
  · rw [hmoved]; rfl

/-! ### Retries of an AVS command (R549) -/

/-- An interface after a retry of the command of v. -/
def retried (s : State) (a : Avs) (v : Nat) (acked : Bool) : Avs :=
  if acked then { a with fault := false, fails := 0, conf := v }
  else { a with fault := a.fault || decide (3 ≤ a.fails + 1), fails := a.fails + 1, due := s.clk.aon + msT }

/-- An interface in fault is tried again once its time has come. -/
theorem not_early {s : State} {a : Avs} (h : a.fault = false ∨ a.due ≤ s.clk.aon) :
    (a.fault && decide (s.clk.aon < a.due)) = false := by
  rcases h with h | h <;> simp [h]

section
variable {s : State} (hoff : s.pwr.off = false) (acked : Bool)
include hoff

/-- The clause of a retry on the interface of VDD_CORE. -/
theorem avsRetry_core (h : s.pwr.avs0.fault = false ∨ s.pwr.avs0.due ≤ s.clk.aon) :
    ∃ t, exec (.avsCommandRetry 0 acked) s = .next t ∧ t.pwr.avs1 = s.pwr.avs1 ∧
      (acked = true → t.pwr.avs0 = { s.pwr.avs0 with fault := false, fails := 0, conf := s.pwr.vdd }) ∧
      (acked = false → t.pwr.avs0.fails = s.pwr.avs0.fails + 1 ∧ t.pwr.avs0.conf = s.pwr.avs0.conf ∧
        t.pwr.avs0.fault = (s.pwr.avs0.fault || decide (3 ≤ s.pwr.avs0.fails + 1))) ∧
      t.pwr.coreClk = min s.pwr.coreClk (clkCap t) ∧ t = { s with pwr := t.pwr } := by
  have hexec : exec (.avsCommandRetry 0 acked) s = .next (setClk
      { s with pwr := { s.pwr with avs0 := retried s s.pwr.avs0 s.pwr.vdd acked } } s.pwr.coreClk) :=
    congrArg _ (if_neg (by simpa [hoff] using not_early h))
  exact ⟨_, hexec, rfl, by rintro rfl; rfl, by rintro rfl; exact ⟨rfl, rfl, rfl⟩, rfl, rfl⟩

/-- The clause of a retry on the interface of VDD_SRAM. -/
theorem avsRetry_sram (h : s.pwr.avs1.fault = false ∨ s.pwr.avs1.due ≤ s.clk.aon) :
    ∃ t, exec (.avsCommandRetry 1 acked) s = .next t ∧ t.pwr.avs0 = s.pwr.avs0 ∧
      (acked = true → t.pwr.avs1 =
        { s.pwr.avs1 with fault := false, fails := 0, conf := if 2 ≤ devState s then 700 else sramFor s.pwr.vdd }) ∧
      (acked = false → t.pwr.avs1.fails = s.pwr.avs1.fails + 1 ∧
        t.pwr.avs1.fault = (s.pwr.avs1.fault || decide (3 ≤ s.pwr.avs1.fails + 1))) ∧
      t.pwr.coreClk = min s.pwr.coreClk (clkCap t) ∧ t = { s with pwr := t.pwr } := by
  have hexec : exec (.avsCommandRetry 1 acked) s = .next (setClk { s with pwr := { s.pwr with
      avs1 := retried s s.pwr.avs1 (if 2 ≤ devState s then 700 else sramFor s.pwr.vdd) acked } } s.pwr.coreClk) :=
    congrArg _ (if_neg (by simpa [hoff] using not_early h))
  exact ⟨_, hexec, rfl, by rintro rfl; rfl, by rintro rfl; exact ⟨rfl, rfl⟩, rfl, rfl⟩

end

/-! ### Temperature samples (R58, R60) -/

section
variable (s : State)

/-- Admission of a function that is held waits. -/
theorem held_hold {fs : List Nat} {f : Nat} (h : f ∈ fs) : lkD (hold s fs).hif.held f false = true :=
  (lkD_foldl_put ..).trans (if_pos h)

/-- Step 3 holds admission. -/
def holdHot : State := if s.pwr.step = 3 then hold s allFns else s

@[simp] theorem holdHot_pwr : (holdHot s).pwr = s.pwr := by
  unfold holdHot
  split
  · exact hold_pwr ..
  · rfl

theorem held_holdHot {f : Nat} (h : s.pwr.step = 3) (hf : f ∈ allFns) :
    lkD (holdHot s).hif.held f false = true := by
  rw [holdHot, if_pos h]
  exact held_hold s hf

/-- From step 1 up the clock obeys the step's cap. -/
def capClock (step : Nat) : State :=
  if step ≠ 0 && coreCap step < s.pwr.coreClk then setClk s s.pwr.coreClk
  else { s with pwr := { s.pwr with clkWhy := whyOf s s.pwr.coreClk } }

/-- The second sample in a row past the trip point asserts THERMTRIP_N. -/
def tripAfter (was : Bool) : State := if s.pwr.trip && was && !s.pwr.thermtrip then tripNow s else s

theorem tempSample_eq (sens logic : List Byte) :
    tempSample s sens logic = tripAfter
      (capClock (holdHot (readTemps s sens logic)) (readTemps s sens logic).pwr.step) s.pwr.trip := by
  unfold tempSample tripAfter capClock holdHot
  rfl

theorem exec_temperatureSample {s : State} (hoff : s.pwr.off = false) (hdue : isDue s .temp = true)
    (hboot : s.fw.bootPhase ≠ 0) (sens logic : List Byte) : exec (.temperatureSample sens logic) s =
      .next (tempSample (setDue s .temp 250) sens logic) := by
  simp [exec, execTemperatureSample, hoff, hdue, hboot]

/-- The cap changes the clock and what holds it, and no more of the power state. -/
theorem capClock_frame (step : Nat) : capClock s step = { s with pwr :=
    { s.pwr with coreClk := (capClock s step).pwr.coreClk, clkWhy := (capClock s step).pwr.clkWhy } } := by
  unfold capClock
  split <;> rfl

theorem capClock_pwr (step : Nat) : (capClock s step).pwr =
    { s.pwr with coreClk := (capClock s step).pwr.coreClk, clkWhy := (capClock s step).pwr.clkWhy } :=
  congrArg State.pwr (capClock_frame s step)

@[simp] theorem capClock_hif (step : Nat) : (capClock s step).hif = s.hif := by rw [capClock_frame]

/-- The clock is at the step's cap or below (Table 2.8). -/
theorem coreClk_capClock {s : State} {step : Nat} (h : step ≠ 0) (hs : s.pwr.step = step) :
    (capClock s step).pwr.coreClk ≤ coreCap step := by
  subst hs
  unfold capClock
  split
  next => exact (min_le_right ..).trans ((min_le_left ..).trans (min_le_left ..))
  next hcap => simpa [h] using hcap

/-- A trip leaves the readings, the step and the clock as they are. -/
theorem tripNow_pwr : (tripNow s).pwr = { s.pwr with
    thermtrip := true, dom := (tripNow s).pwr.dom, vdd := 500, dozeAt := (tripNow s).pwr.dozeAt, waking := []
    vddOp := (tripNow s).pwr.vddOp } := by
  simp [tripNow, intoDoze]

/-- A trip holds admission of every function. -/
theorem held_tripNow {f : Nat} (hf : f ∈ allFns) : lkD (tripNow s).hif.held f false = true := by
  have hhif : (tripNow s).hif = (hold s allFns).hif := by
    unfold tripNow intoDoze
    dsimp only
    rw [postG_hif]
    exact congrArg Tabd.hif (tabd_wcbFlush _)
  rw [hhif, held_hold s hf]

section
variable (was : Bool)

/-- A sample's trip changes neither its readings nor the clock, and asserts THERMTRIP_N where the one before it lay past
the trip point too. -/
theorem tripAfter_fields : (tripAfter s was).pwr.stackT = s.pwr.stackT ∧ (tripAfter s was).pwr.logicT = s.pwr.logicT ∧
    (tripAfter s was).pwr.step = s.pwr.step ∧ (tripAfter s was).pwr.trip = s.pwr.trip ∧
    (tripAfter s was).pwr.coreClk = s.pwr.coreClk ∧
    (tripAfter s was).pwr.thermtrip = (s.pwr.thermtrip || (s.pwr.trip && was)) := by
  unfold tripAfter
  split
  next h =>
    obtain ⟨⟨htrip, hwas⟩, -⟩ : (s.pwr.trip = true ∧ was = true) ∧ s.pwr.thermtrip = false := by simpa using h
    rw [tripNow_pwr]
    simp [htrip, hwas]
  next h => cases htherm : s.pwr.thermtrip <;> simp_all

theorem held_tripAfter {f : Nat} (hf : f ∈ allFns) (h : lkD s.hif.held f false = true) :
    lkD (tripAfter s was).hif.held f false = true := by
  unfold tripAfter
  split
  · exact held_tripNow s hf
  · exact h

end

end

/-- A stack's temperature rests on the memory and the sensors (2.7). -/
theorem stackTemps_congr {s u : State} (h : u.mem = s.mem) (sens : List Byte) :
    stackTemps u sens = stackTemps s sens := by simp only [stackTemps, h]

/-- What a sample reads (R58). -/
theorem readTemps_fields (s : State) (sens logic : List Byte) {r : State} (hr : r = readTemps s sens logic) {h l : Nat}
    (hh : h = (stackTemps s sens).foldl max 0) (hl : l = (logic.map (·.toNat)).foldl max 0) :
    r.pwr.stackT = h ∧ r.pwr.logicT = l ∧ r.pwr.step = max (stepEnter h) (stepKeep s.pwr.step h) ∧
    r.pwr.trip = (decide (115 ≤ l) || sens.any (fun b => decide (110 ≤ b.toNat))) ∧
    r.pwr.thermtrip = s.pwr.thermtrip := by
  unfold readTemps at hr
  dsimp only at hr
  rw [← hh, ← hl] at hr
  subst hr
  exact ⟨rfl, rfl, rfl, rfl, rfl⟩

/-- What a sample does with its readings. -/
theorem tempSample_fields (s : State) (sens logic : List Byte) {t r : State} (ht : t = tempSample s sens logic)
    (hr : r = readTemps s sens logic) :
    t.pwr.stackT = r.pwr.stackT ∧ t.pwr.logicT = r.pwr.logicT ∧ t.pwr.step = r.pwr.step ∧ t.pwr.trip = r.pwr.trip ∧
    t.pwr.thermtrip = (r.pwr.thermtrip || (r.pwr.trip && s.pwr.trip)) ∧
    (r.pwr.step ≠ 0 → t.pwr.coreClk ≤ coreCap r.pwr.step) ∧
    (r.pwr.step = 3 → ∀ f ∈ allFns, lkD t.hif.held f false = true) := by
  rw [tempSample_eq, ← hr] at ht
  subst ht
  obtain ⟨hstack, hlogic, hstep, htrip, hclk, htherm⟩ := tripAfter_fields (capClock (holdHot r) r.pwr.step) s.pwr.trip
  rw [hstack, hlogic, hstep, htrip, hclk, htherm, capClock_pwr, holdHot_pwr]
  refine ⟨rfl, rfl, rfl, rfl, rfl, fun h => ?_, fun h f hf => ?_⟩
  · exact coreClk_capClock h (congrArg Pwr.step (holdHot_pwr r))
  · exact held_tripAfter _ _ hf (by rw [capClock_hif]; exact held_holdHot r h hf)

/-- The clause of TEMPERATURE_SAMPLE. -/
theorem temperatureSample_spec {s : State} (hoff : s.pwr.off = false) (htherm : s.pwr.thermtrip = false)
    (sens logic : List Byte) (h l : Nat) (hdue : isDue s .temp = true) (hboot : s.fw.bootPhase ≠ 0)
    (hh : h = (stackTemps s sens).foldl max 0) (hl : l = (logic.map (·.toNat)).foldl max 0) :
    ∃ t, exec (.temperatureSample sens logic) s = .next t ∧ t.pwr.stackT = h ∧ t.pwr.logicT = l ∧
      t.pwr.step = max (stepEnter h) (stepKeep s.pwr.step h) ∧
      t.pwr.trip = (decide (115 ≤ l) || sens.any (fun b => decide (110 ≤ b.toNat))) ∧
      t.pwr.thermtrip = (t.pwr.trip && s.pwr.trip) ∧
      (t.pwr.step ≠ 0 → t.pwr.coreClk ≤ coreCap t.pwr.step) ∧
      (t.pwr.step = 3 → ∀ f < 33, lkD t.hif.held f false = true) := by
  rw [← stackTemps_congr (setDue_mem s .temp 250)] at hh
  obtain ⟨r, hr⟩ : ∃ r, r = readTemps (setDue s .temp 250) sens logic := ⟨_, rfl⟩
  obtain ⟨rfl, rfl, hrstep, hrtrip, hrtherm⟩ := readTemps_fields _ sens logic hr hh hl
  obtain ⟨t, ht⟩ : ∃ t, t = tempSample (setDue s .temp 250) sens logic := ⟨_, rfl⟩
  obtain ⟨hstack, hlogic, hstep, htrip, hthermtrip, hclk, hheld⟩ := tempSample_fields _ sens logic ht hr
  refine ⟨t, ht ▸ exec_temperatureSample hoff hdue hboot sens logic, hstack, hlogic, hstep.trans hrstep,
    htrip.trans hrtrip, ?_, ?_, ?_⟩
  · rw [hthermtrip, htrip, hrtherm, setDue_pwr, htherm, Bool.false_or]
  · rwa [hstep]
  · rw [hstep]
    exact fun h f hf => hheld h f (List.mem_range.2 hf)

/-! ### The thermal throttle (R59, R62, R63) -/

section
variable {s : State} (hcross : (loop s 2).crossed = 0)
include hcross

/-- Above the target the clock falls 50 MHz, where its lower bound leaves room. -/
theorem throttleStep_lower (htarget : mgmt s 4 < s.pwr.logicT) (hhot : s.pwr.logicT < 100)
    (hroom : mgmt s 5 + 50 ≤ s.pwr.coreClk) :
    throttleStep s = setPinned (setClk s (s.pwr.coreClk - 50)) 2 0 := by
  have hmin : ¬s.pwr.coreClk - 50 < mgmt s 5 := by omega
  simp [throttleStep, hcross, htarget, Nat.not_le.2 hhot, hroom, hmin]

/-- At its lower bound the loop is pinned. -/
theorem throttleStep_pinned (htarget : mgmt s 4 < s.pwr.logicT) (hhot : s.pwr.logicT < 100)
    (hroom : s.pwr.coreClk < mgmt s 5 + 50) : throttleStep s = setPinned s 2 1 := by
  simp [throttleStep, hcross, htarget, Nat.not_le.2 hhot, Nat.not_le.2 hroom]

/-- At 100 degrees and above the clock falls past its lower bound, and the loop crosses it. -/
theorem throttleStep_cross (htarget : mgmt s 4 < s.pwr.logicT) (hhot : 100 ≤ s.pwr.logicT)
    (hfloor : 450 ≤ s.pwr.coreClk) (hroom : s.pwr.coreClk < mgmt s 5 + 50) : throttleStep s =
      setClk (crossOn (setPinned (setClk s (s.pwr.coreClk - 50)) 2 0) 2 1) (s.pwr.coreClk - 50) := by
  have hmin : s.pwr.coreClk - 50 < mgmt s 5 := by omega
  simp [throttleStep, hcross, htarget, hhot, hfloor, hmin]

/-- Two degrees below the target the clock rises 50 MHz, where the caps leave room. -/
theorem throttleStep_raise (htarget : s.pwr.logicT + 2 ≤ mgmt s 4) (hroom : s.pwr.coreClk + 50 ≤ clkCap s) :
    throttleStep s = setPinned (setClk s (s.pwr.coreClk + 50)) 2 0 := by
  have hbelow : ¬mgmt s 4 < s.pwr.logicT := by omega
  simp [throttleStep, hcross, hbelow, htarget, hroom]

/-- In between the clock stays, within its caps. -/
theorem throttleStep_stay (hle : s.pwr.logicT ≤ mgmt s 4) (hnear : mgmt s 4 < s.pwr.logicT + 2) :
    throttleStep s = setPinned (setClk s s.pwr.coreClk) 2 0 := by
  simp [throttleStep, hcross, Nat.not_lt.2 hle, Nat.not_le.2 hnear]

end

theorem exec_thermalThrottleStep {s : State} (hoff : s.pwr.off = false) (htrip : s.pwr.thermtrip = false)
    (hdue : isDue s .throttle = true) :
    exec .thermalThrottleStep s = .next (throttleStep (setDue s .throttle 2500)) := by
  simp [exec, execThermalThrottleStep, hoff, htrip, hdue]

/-- The clause of THERMAL_THROTTLE_STEP. -/
theorem thermalThrottleStep_spec {s : State} (hoff : s.pwr.off = false) (htrip : s.pwr.thermtrip = false) (clk : Nat)
    (hdue : isDue s .throttle = true) (hclk : clk = s.pwr.coreClk) (hcross : (loop s 2).crossed = 0) :
    (mgmt s 4 < s.pwr.logicT → s.pwr.logicT < 100 → mgmt s 5 + 50 ≤ clk →
      ∃ t, exec .thermalThrottleStep s = .next t ∧ t.pwr.coreClk = min (clk - 50) (clkCap s) ∧ t.evt = s.evt ∧
        (loop t 2).pinned = 0 ∧ t = { s with pwr := t.pwr, clk := { s.clk with due := t.clk.due } }) ∧
    (mgmt s 4 < s.pwr.logicT → s.pwr.logicT < 100 → clk < mgmt s 5 + 50 →
      ∃ t, exec .thermalThrottleStep s = .next t ∧ t.pwr.coreClk = clk ∧ (loop t 2).pinned = 1 ∧
        t = { s with pwr := t.pwr, clk := { s.clk with due := t.clk.due } }) ∧
    (mgmt s 4 < s.pwr.logicT → 100 ≤ s.pwr.logicT → 450 ≤ clk → clk < mgmt s 5 + 50 →
      ∃ t, exec .thermalThrottleStep s = .next t ∧ t.pwr.coreClk = min (clk - 50) (clkCap s) ∧
        (loop t 2).crossed = 1 ∧ t.evt = (postG s 0x0901 2 (2 + 16 + 256) 0 0 0).evt) ∧
    (s.pwr.logicT + 2 ≤ mgmt s 4 → clk + 50 ≤ clkCap s →
      ∃ t, exec .thermalThrottleStep s = .next t ∧ t.pwr.coreClk = clk + 50 ∧ (loop t 2).pinned = 0 ∧
        t = { s with pwr := t.pwr, clk := { s.clk with due := t.clk.due } }) ∧
    (s.pwr.logicT ≤ mgmt s 4 → mgmt s 4 < s.pwr.logicT + 2 →
      ∃ t, exec .thermalThrottleStep s = .next t ∧ t.pwr.coreClk = min clk (clkCap s)) := by
  subst hclk
  rw [exec_thermalThrottleStep hoff htrip hdue]
  have hcross' : (loop (setDue s .throttle 2500) 2).crossed = 0 := hcross
  refine ⟨fun ht hh hr => ?_, fun ht hh hr => ?_, fun ht hh hf hr => ?_, fun ht hr => ?_, fun hle hn => ?_⟩
  · exact ⟨_, congrArg _ (throttleStep_lower hcross' ht hh hr), rfl, rfl, pinned_setPinned .., rfl⟩
  · exact ⟨_, congrArg _ (throttleStep_pinned hcross' ht hh hr), rfl, pinned_setPinned .., rfl⟩
  · have hzero (c : Nat) : (loop (setPinned (setClk (setDue s .throttle 2500) c) 2 0) 2).crossed = 0 :=
      (crossed_setPinned ..).trans hcross
    refine ⟨_, congrArg _ (throttleStep_cross hcross' ht hh hf hr), ?_, ?_, ?_⟩
    · rw [setClk_coreClk, (ClockMoved.crossOn _ 2 1).clkCap]
      rfl
    · rw [loop_setClk, crossed_crossOn_of_zero 1 (hzero _)]
    · rw [setClk_evt]
      exact evt_crossOn_of_zero 1 (hzero _) rfl rfl rfl
  · exact ⟨_, congrArg _ (throttleStep_raise hcross' ht hr), min_eq_left hr, pinned_setPinned .., rfl⟩
  · exact ⟨_, congrArg _ (throttleStep_stay hcross' hle hn), rfl⟩

/-- Settles O35: each row has its clause, from what the clock and the loops' reports leave alone. -/
theorem clocksVoltageAndHeat : Obligations.ClocksVoltageAndHeat := by
  intro s hoff htrip
  refine ⟨dcoTrim_spec hoff htrip, fun d m => dcoTrim_override m, avsStep_spec hoff htrip, fun least hdue hst => ?_,
    ?_, fun sens logic h l => temperatureSample_spec hoff htrip sens logic h l, thermalThrottleStep_spec hoff htrip⟩
  · rw [exec_avsStep hoff htrip hdue, if_neg hst]
  · rintro acked a b rfl ha rfl hb
    exact ⟨avsRetry_core hoff acked ha, avsRetry_sram hoff acked hb⟩

end Sys2Proof.Machine
end

section
/-! Concrete inputs that meet the hypotheses of O35 and O38, with what the statements then say of them. -/

namespace Sys2Proof.Machine

/-- After reset CORE's target is 40,000 counts: a window 1% short raises the code by 10, and the loop crosses. -/
theorem dcoTrim_reset : ∃ t, exec (.dcoTrim 0 39600) State.reset = .next t ∧ lkD t.pwr.dcoCode 0 0 = 10 ∧
    (loop t 1).crossed ≠ 0 := by
  obtain ⟨htrim, -⟩ := clocksVoltageAndHeat State.reset rfl rfl
  obtain ⟨t, hexec, -, -, -, hcode, -, hcross, -⟩ :=
    htrim 0 39600 _ _ (.inl (by decide +kernel)) (by decide +kernel) (by decide +kernel) rfl rfl
  exact ⟨t, hexec, hcode 10 (by decide +kernel) (by decide), hcross (.inr (by decide +kernel))⟩

/-- No voltage up to 800 mV leaves margin: VDD_CORE goes to the bound, and the cap to 50 MHz below the clock. -/
theorem avsStep_reset : ∃ t, exec (.avsStep 801) State.reset = .next t ∧ t.pwr.vdd = 800 ∧ t.pwr.avsCap = 950 := by
  obtain ⟨-, -, havs, -⟩ := clocksVoltageAndHeat State.reset rfl rfl
  obtain ⟨t, hexec, hvdd, -, -, hdown, -⟩ :=
    havs 801 _ (by decide +kernel) (by decide +kernel) (by decide +kernel) rfl
  exact ⟨t, hexec, hvdd.trans (by decide +kernel), (hdown (by decide +kernel)).1.trans (by decide +kernel)⟩

/-- A device whose command of VDD_CORE has failed twice in a row. -/
def failedTwice : State := { State.reset with
  pwr := { State.reset.pwr with avs0 := { State.reset.pwr.avs0 with fails := 2 } } }

/-- The third failure is a fault. -/
theorem avsRetry_failedTwice : ∃ t, exec (.avsCommandRetry 0 false) failedTwice = .next t ∧ t.pwr.avs0.fault = true := by
  obtain ⟨-, -, -, -, hretry, -⟩ := clocksVoltageAndHeat failedTwice rfl rfl
  obtain ⟨⟨t, hexec, -, -, hfail, -⟩, -⟩ := hretry false _ _ rfl (.inl rfl) rfl (.inl rfl)
  exact ⟨t, hexec, (hfail rfl).2.2⟩

/-- A device whose last sample lay past the trip point. -/
def hotOnce : State := { State.reset with pwr := { State.reset.pwr with trip := true } }

/-- A second sample at 110 degrees trips. -/
theorem temperatureSample_hotOnce : ∃ t, exec (.temperatureSample (List.replicate 16 110) (List.replicate 16 60)) hotOnce =
    .next t ∧ t.pwr.thermtrip = true ∧ ∀ f < 33, lkD t.hif.held f false = true := by
  obtain ⟨-, -, -, -, -, htemp, -⟩ := clocksVoltageAndHeat hotOnce rfl rfl
  obtain ⟨t, hexec, -, -, hstep, htrip, htherm, -, hheld⟩ :=
    htemp (List.replicate 16 110) (List.replicate 16 60) 110 60 (by decide +kernel) (by decide +kernel)
      (by decide +kernel) (by decide +kernel)
  refine ⟨t, hexec, htherm.trans ?_, hheld (hstep.trans (by decide +kernel))⟩
  rw [htrip]; decide +kernel

/-- A device at 100 degrees, whose software holds the clock at 600 MHz and up. -/
def hotAtBound : State := { State.reset with
  pwr := { State.reset.pwr with logicT := 100, coreClk := 600 }
  cfg := { State.reset.cfg with mgmtEff := [(5, 600)] } }

/-- The throttle crosses that bound. -/
theorem thermalThrottle_hotAtBound : ∃ t, exec .thermalThrottleStep hotAtBound = .next t ∧ t.pwr.coreClk = 550 ∧
    (loop t 2).crossed = 1 := by
  obtain ⟨-, -, -, -, -, -, hthrottle⟩ := clocksVoltageAndHeat hotAtBound rfl rfl
  obtain ⟨-, -, hhot, -⟩ := hthrottle _ (by decide +kernel) rfl (by decide +kernel)
  obtain ⟨t, hexec, hclk, hcross, -⟩ :=
    hhot (by decide +kernel) (by decide +kernel) (by decide +kernel) (by decide +kernel)
  exact ⟨t, hexec, hclk.trans (by decide +kernel), hcross⟩

/-- A request of PF0 with these first bytes. -/
def pf0Req (l : List Byte) : MbxReq := ⟨slice l 0 2048, 1, 0⟩

/-- A device that PF0 has asked. -/
def pf0Asked (l : List Byte) : State :=
  { State.reset with mbx := put State.reset.mbx 0 { mbxOf State.reset 0 with latched := some (pf0Req l) } }

/-- SET_LOOP_BOUNDS of word 4, the thermal target, to 90 degrees. -/
def targetReq : List Byte := [0x01, 0x07, 0, 0, 0x10, 0, 0, 0, 4, 0, 0, 0, 90, 0, 0, 0]

theorem targetReq_ready : Ready (pf0Asked targetReq) 0 0x701 (reqBytes (pf0Req targetReq)) := by
  refine ⟨pf0Req targetReq, ⟨?_, ?_, ?_, ?_, ?_⟩, ?_, ?_, ?_⟩ <;> decide +kernel

/-- The target is committed. -/
theorem setLoopBounds_target : ∃ t u, exec (.setLoopBounds 0) (pf0Asked targetReq) = .next t ∧
    Replied u t 0 0 0 0 [] ∧ mgmtCommitted u 4 = 90 := by
  obtain ⟨-, hset, -, -⟩ := powerCommands (pf0Asked targetReq) 0 (reqBytes (pf0Req targetReq))
  obtain ⟨hok, -⟩ := hset targetReq_ready 4 90 (by decide +kernel) (by decide +kernel)
  obtain ⟨t, u, hexec, hrep, -, hcommitted, -⟩ := hok (by decide) rfl (by decide +kernel)
  exact ⟨t, u, hexec, hrep, hcommitted⟩

/-- SET_POWER_PERMIT of state 3. -/
def permitReq : List Byte := [0x00, 0x07, 0, 0, 0x0C, 0, 0, 0, 3, 0, 0, 0]

theorem permitReq_ready : Ready (pf0Asked permitReq) 0 0x700 (reqBytes (pf0Req permitReq)) := by
  refine ⟨pf0Req permitReq, ⟨?_, ?_, ?_, ?_, ?_⟩, ?_, ?_, ?_⟩ <;> decide +kernel

/-- The host permits DEEP; a device that runs stays where it is. -/
theorem setPowerPermit_deep : ∃ t, exec (.setPowerPermit 0) (pf0Asked permitReq) = .next t ∧
    Replied (fwCommit { pf0Asked permitReq with pwr := { (pf0Asked permitReq).pwr with permit := 3 } }) t 0 0 0 0 [] := by
  obtain ⟨hset, -⟩ := powerCommands (pf0Asked permitReq) 0 (reqBytes (pf0Req permitReq))
  obtain ⟨t, u, w, hexec, hrep, hw, -, hstay⟩ := (hset permitReq_ready 3 (by decide +kernel)).1 (by decide)
  refine ⟨t, hexec, ?_⟩
  rw [hstay (by rw [hw]; decide +kernel), hw] at hrep
  exact hrep

end Sys2Proof.Machine
end

section
/-! O6: a write of STR_TAIL (R81). -/

namespace Sys2Proof.Machine

/-- A host access that is served reaches its operation. -/
theorem exec_strTailWrite {s : State} {f : Fn} (h : Served s f.val) (slot : Fin 64) (v : W32) :
    exec (.strTailWrite f slot v) s = .next (tailWrite s f.val slot.val v) := by
  simp [exec, execStrTailWrite, h.1, h.2]

section
variable {s : State} {f k i : Nat} {v : W32} (hi : slotStream s f k = some i)
include hi

theorem tailWrite_same (h : v = (stream s i).tail) : tailWrite s f k v = s := by
  simp [tailWrite, hi, h]

theorem tailWrite_within (hne : v ≠ (stream s i).tail) (hle : (v - (stream s i).cpl).toNat ≤ ringN s i) :
    tailWrite s f k v =
      cntAdd (setStream s i { stream s i with tail := v, tailInvalid := false }) (rk f 0x3000) 1 := by
  simp only [tailWrite, hi]
  rw [if_neg hne, if_pos hle]

theorem tailWrite_beyond (hne : v ≠ (stream s i).tail) (hlt : ringN s i < (v - (stream s i).cpl).toNat) :
    tailWrite s f k v = setStream
      (postOne s (partOfFn f) { evRec 0x0102 2 (partOfFn f) (k + 2 ^ 32 * v.toNat) (stream s i).cpl.toNat 0 0 with
        stream := i })
      i { stream s i with tailInvalid := true } := by
  simp only [tailWrite, hi]
  rw [if_neg hne, if_neg (Nat.not_le.2 hlt)]

end

/-- Settles O6: a write of STR_TAIL comes to one of three outcomes, by the check of R81. -/
theorem tailWriteChecked : Obligations.TailWriteChecked := by
  intro s f slot v i hserved hi
  rw [exec_strTailWrite hserved]
  refine ⟨fun h => by rw [tailWrite_same hi h], fun hne hle => ?_, fun hne hlt => ?_⟩
  · refine ⟨_, rfl, ?_⟩
    rw [tailWrite_within hi hne hle]
    exact ⟨stream_setStream_self .., fun j hj => stream_setStream_ne _ _ hj, cnt_cntAdd_self ..,
      fun k hk => cnt_cntAdd_ne _ _ hk, rfl⟩
  · refine ⟨_, rfl, ?_⟩
    rw [tailWrite_beyond hi hne hlt, postOne_frame]
    exact ⟨stream_setStream_self .., fun j hj => stream_setStream_ne _ _ hj, rfl, rfl⟩

end Sys2Proof.Machine
end

section
/-! O12: refused accesses, and reads that stall (R74, R158 to R160, R563). -/

namespace Sys2Proof.Machine

/-! ### Refused accesses -/

section
variable (s : State) (f : Nat) (p0 : W64)

/-- A refused access changes the event log and what is kept of the function's refused accesses. -/
theorem barRefuse_eq : ∃ e b, barRefuse s f p0 =
    { s with evt := e, hif := { s.hif with barErr := put s.hif.barErr f b } } := by
  by_cases h : ∀ a, (lkD s.hif.barErr f ⟨none, 0, 0⟩).lastAt = some a → a + secT ≤ s.clk.aon
  · rw [barRefuse_first s f p0 h, postG_frame]
    exact ⟨_, _, rfl⟩
  · push Not at h
    obtain ⟨a, ha, h⟩ := h
    exact ⟨s.evt, _, barRefuse_again s f p0 a ha h⟩

end

section
variable {s : State} {f : Fn}

theorem exec_barAccessRefused (hserved : barServed s f.val = true) (bar2 write : Bool) {off : BitVec 24} {size : Nat}
    (hbad : ¬(size = 4 ∧ off.toNat % 4 = 0)) : exec (.barAccessRefused f bar2 write off size) s = .next
      (if write then barRefuse s f.val (barP0 f.val bar2 write false off.toNat)
       else busValue (barRefuse s f.val (barP0 f.val bar2 write false off.toNat)) f.val bar2 off.toNat 0xFFFFFFFF#32) := by
  simp [exec, execBarAccessRefused, hserved, hbad]

/-- The clause of BAR_ACCESS_REFUSED. -/
theorem barAccessRefused_spec (hserved : barServed s f.val = true) (bar2 write : Bool) {off : BitVec 24} {size : Nat}
    (hbad : ¬(size = 4 ∧ off.toNat % 4 = 0)) :
    ∃ t, exec (.barAccessRefused f bar2 write off size) s = .next t ∧
      (write = true → t.hif.bus = s.hif.bus) ∧
      (write = false → t.hif.bus = s.hif.bus ++ [.value f.val bar2 off.toNat 0xFFFFFFFF#32]) ∧
      ((∀ a, (lkD s.hif.barErr f.val ⟨none, 0, 0⟩).lastAt = some a → a + secT ≤ s.clk.aon) →
        t.evt = (postG s 0x0101 2 (barP0 f.val bar2 write false off.toNat).toNat 1 0 0).evt ∧
        lk t.hif.barErr f.val = some ⟨some s.clk.aon, 0, barP0 f.val bar2 write false off.toNat⟩) ∧
      (∀ a, (lkD s.hif.barErr f.val ⟨none, 0, 0⟩).lastAt = some a → s.clk.aon < a + secT →
        t.evt = s.evt ∧ lk t.hif.barErr f.val = some ⟨some a, (lkD s.hif.barErr f.val ⟨none, 0, 0⟩).count + 1,
          barP0 f.val bar2 write false off.toNat⟩) ∧
      (∀ g, g ≠ f.val → lk t.hif.barErr g = lk s.hif.barErr g) ∧
      t = { s with evt := t.evt, hif := { s.hif with barErr := t.hif.barErr, bus := t.hif.bus } } := by
  rw [exec_barAccessRefused hserved bar2 write hbad]
  generalize barP0 f.val bar2 write false off.toNat = p0
  generalize hv : barRefuse s f.val p0 = v
  obtain ⟨e, b, hframe⟩ := barRefuse_eq s f.val p0
  have hfirst : (∀ a, (lkD s.hif.barErr f.val ⟨none, 0, 0⟩).lastAt = some a → a + secT ≤ s.clk.aon) →
      v.evt = (postG s 0x0101 2 p0.toNat 1 0 0).evt ∧ lk v.hif.barErr f.val = some ⟨some s.clk.aon, 0, p0⟩ := by
    intro h
    rw [← hv, barRefuse_first s _ _ h]
    exact ⟨rfl, lk_put_self ..⟩
  have hagain : ∀ a, (lkD s.hif.barErr f.val ⟨none, 0, 0⟩).lastAt = some a → s.clk.aon < a + secT →
      v.evt = s.evt ∧
        lk v.hif.barErr f.val = some ⟨some a, (lkD s.hif.barErr f.val ⟨none, 0, 0⟩).count + 1, p0⟩ := by
    intro a ha h
    rw [← hv, barRefuse_again s _ _ a ha h]
    exact ⟨rfl, lk_put_self ..⟩
  rw [hv] at hframe
  have hbus : v.hif.bus = s.hif.bus := by rw [hframe]
  have hother : ∀ g, g ≠ f.val → lk v.hif.barErr g = lk s.hif.barErr g := by
    intro g hg
    rw [hframe]
    exact lk_put_ne _ _ hg
  cases write with
  | true => exact ⟨v, rfl, fun _ => hbus, nofun, hfirst, hagain, hother, by rw [hframe]⟩
  | false =>
    refine ⟨_, rfl, nofun, fun _ => ?_, hfirst, hagain, hother, ?_⟩
    · simp [busValue, hbus]
    · rw [hframe]; rfl

/-- The clause of BAR_ACCESS_SUMMARY. -/
theorem barAccessSummary_spec (hoff : s.pwr.off = false) {b : BarErr} {a : Nat}
    (hb : lk s.hif.barErr f.val = some b) (ha : b.lastAt = some a) :
    (s.clk.aon < a + secT → exec (.barAccessSummary f) s = .next s) ∧
    (a + secT ≤ s.clk.aon → b.count = 0 →
      exec (.barAccessSummary f) s = .next { s with hif := { s.hif with barErr := del s.hif.barErr f.val } }) ∧
    (a + secT ≤ s.clk.aon → b.count ≠ 0 →
      ∃ t, exec (.barAccessSummary f) s = .next t ∧
        t.evt = (postG s 0x0101 2 b.p0.toNat b.count 0 0).evt ∧
        t.hif.barErr = put s.hif.barErr f.val ⟨some s.clk.aon, 0, b.p0⟩ ∧
        t = { s with evt := t.evt, hif := { s.hif with barErr := t.hif.barErr } }) := by
  have hkept : lkD s.hif.barErr f.val ⟨none, 0, 0⟩ = b := by simp [lkD, hb]
  simp only [exec, execBarAccessSummary, hoff, hkept, ha, Bool.false_eq_true, if_false]
  refine ⟨fun h => by rw [if_pos h], fun h hn => ?_, fun h hn => ?_⟩
  · rw [if_neg (Nat.not_lt.2 h), if_pos hn]
  · rw [if_neg (Nat.not_lt.2 h), if_neg hn, postG_frame]
    exact ⟨_, rfl, rfl, rfl, rfl⟩

end

/-! ### Reads that stall -/

section
variable {s : State} {f : Nat}

/-- The reads of other functions are passed over. -/
theorem serveFn_append_of_others {l : List (Nat × Bool × Nat × Nat)} (h : ∀ r ∈ l, r.1 ≠ f)
    (l' : List (Nat × Bool × Nat × Nat)) : serveFn s f (l ++ l') = serveFn s f l' := by
  induction l with
  | nil => rfl
  | cons r l ih =>
    obtain ⟨hr, hl⟩ := List.forall_mem_cons.1 h
    rw [List.cons_append, serveFn, if_pos hr, ih hl]

/-- A lone read whose domain runs is delivered. -/
theorem serveFn_readable {bar2 : Bool} {o a : Nat} (h : readable s bar2 o = true) :
    serveFn s f [(f, bar2, o, a)] = busValue { (readReg s f bar2 o).2 with
      hif := { (readReg s f bar2 o).2.hif with stalled := (readReg s f bar2 o).2.hif.stalled.erase (f, bar2, o, a) } }
      f bar2 o (readReg s f bar2 o).1 := by
  simp [serveFn, h]

/-- A lone read whose domain does not run demands it. -/
theorem serveFn_unreadable {bar2 : Bool} {o a d : Nat} (h : readable s bar2 o = false) (hd : homeOf bar2 o = some d) :
    serveFn s f [(f, bar2, o, a)] = demandOn s d := by
  simp [serveFn, h, hd]

end

/-- A read joins its function's reads. -/
def joinRead (s : State) (f : Nat) (bar2 : Bool) (o : Nat) : State :=
  { s with hif := { s.hif with stalled := s.hif.stalled ++ [(f, bar2, o, s.clk.aon)] } }

section
variable {s : State} {f : Fn} {bar2 : Bool} {off : BitVec 24}

/-- The read of a function that has none waiting is served alone. -/
theorem exec_rlRead (hserved : barServed s f.val = true) (hpf0 : bar2 = true → f = 0) (hword : off.toNat % 4 = 0)
    (hrange : bar2 = false → off.toNat < 0x10000) (hnone : ∀ r ∈ s.hif.stalled, r.1 ≠ f.val) :
    exec (.rlRead f bar2 off) s = .next
      (serveFn (joinRead s f.val bar2 off.toNat) f.val [(f.val, bar2, off.toNat, s.clk.aon)]) := by
  have hguard : (!barServed s f.val || (bar2 && f.val != 0) || off.toNat % 4 != 0 ||
      (!bar2 && decide (0x10000 ≤ off.toNat))) = false := by
    rw [hserved, hword]
    cases bar2 with
    | true => simp [hpf0 rfl]
    | false => simp [hrange rfl]
  rw [← serveFn_append_of_others hnone]
  simp only [exec, execRlRead, hguard]
  rfl

/-- A read that is delivered leaves the reads that wait as they were. -/
theorem rlRead_delivered (hnone : ∀ r ∈ s.hif.stalled, r.1 ≠ f.val)
    (h : readable (joinRead s f.val bar2 off.toNat) bar2 off.toNat = true) {t : State}
    (ht : t = serveFn (joinRead s f.val bar2 off.toNat) f.val [(f.val, bar2, off.toNat, s.clk.aon)]) :
    t.hif.bus = s.hif.bus ++
        [.value f.val bar2 off.toNat (readReg (joinRead s f.val bar2 off.toNat) f.val bar2 off.toNat).1] ∧
      t.hif.stalled = s.hif.stalled ∧
      t = { s with hif := { s.hif with bus := t.hif.bus }, freeCtr := t.freeCtr } := by
  have hnew : (f.val, bar2, off.toNat, s.clk.aon) ∉ s.hif.stalled := fun hmem => hnone _ hmem rfl
  have herase : (joinRead s f.val bar2 off.toNat).hif.stalled.erase (f.val, bar2, off.toNat, s.clk.aon) =
      s.hif.stalled := by simp [joinRead, List.erase_append_right _ hnew]
  rw [ht, serveFn_readable h, readReg_frame]
  rw [busValue, herase]
  exact ⟨rfl, rfl, rfl⟩

/-- A read that has waited 800 us is ended, and the reads behind it are served. -/
theorem exec_rlLimit (hoff : s.pwr.off = false) {a : Nat} (hmem : (f.val, bar2, off.toNat, a) ∈ s.hif.stalled)
    (hlate : a + 800 * usT ≤ s.clk.aon) : ∃ l, exec (.rlLimit f bar2 off) s = .next
      (serveFn (postP (busValue { s with hif := { s.hif with stalled := l } } f.val bar2 off.toNat 0xFFFFFFFF)
        (partOfFn f.val) 0x0303 2 (off.toNat % 65536) 0 0 0) f.val l) := by
  simp only [exec, execRlLimit, hoff, Bool.false_eq_true, if_false]
  split
  · rename_i hfind
    exact absurd (List.find?_eq_none.1 hfind _ hmem) (by simp [hlate])
  · rename_i r _
    exact ⟨s.hif.stalled.erase r, by rw [postP_hif]; rfl⟩

end

/-- Settles O12: refused accesses by whether the function's last record is a second old, reads by whether their domain
runs. -/
theorem refusedAndStalledAccesses : Obligations.RefusedAndStalledAccesses := by
  intro s f bar2 off
  refine ⟨fun write size hserved hbad => barAccessRefused_spec hserved bar2 write hbad,
    fun b a hoff hb ha => barAccessSummary_spec hoff hb ha, ?_, ?_⟩
  · intro hserved hpf0 hword hrange hnone
    rw [exec_rlRead hserved hpf0 hword hrange hnone]
    refine ⟨fun hrun => ?_, fun d hd hstop => ?_⟩
    · obtain ⟨hbus, hstalled, hframe⟩ := rlRead_delivered hnone hrun rfl
      exact ⟨_, _, rfl, rfl, hbus, hstalled, hframe⟩
    · exact congrArg _ (serveFn_unreadable hstop hd)
  · intro a hoff hmem hlate
    obtain ⟨l, hexec⟩ := exec_rlLimit hoff hmem hlate
    rw [hexec]
    generalize hu : postP _ _ _ _ _ _ _ _ = u
    obtain ⟨⟨m, hbus⟩, hframe⟩ := serveFn_frame u f.val l
    refine ⟨_, m, rfl, ?_, ?_, ?_⟩
    · rw [hbus, ← hu, postP_hif]; rfl
    · rw [hframe, ← hu]
      exact postOne_evt s _ _ rfl rfl rfl
    · rw [hframe, ← hu, postP_frame]
      rfl

end Sys2Proof.Machine
end

section
/-! O14: the reset of a function (R73, R95 to R98, Table 3.11). -/

namespace Sys2Proof.Machine

/-! ### A function's own registers (Table 3.11, step 8) -/

/-- A function whose own registers are at reset but for its region of configuration registers. -/
def clearFn (s : State) (f : Nat) : State :=
  setMbx { s with
    cfg := { s.cfg with cnt := s.cfg.cnt.filter (fun e => !(decide (rk f 0x3000 ≤ e.1) && decide (e.1 < rk f 0x4000))) }
    hif := { s.hif with
      d3 := del s.hif.d3 f, held := del s.hif.held f, atsEnable := del s.hif.atsEnable f
      ats := s.hif.ats.filter (fun e => e.1 / 2 ^ 52 != f), atsAsked := s.hif.atsAsked.filter (fun e => e.1 != f)
      lckResult := del s.hif.lckResult f, snap := del s.hif.snap f }
    streams := s.streams.map (fun e => if (fnStreams s f).contains e.1 then (e.1, e.2.cleared) else e)
    stallRem := s.stallRem.filter (fun e => !(fnStreams s f).contains (e.1 / 8))
    ops := (s.ops.filter (fun o => !(o.fn == f && o.st != .running))).map
      (fun o => if o.fn = f then { o with id := 0 } else o) } f
  { Mbx.fresh with
    orphan := match (mbxOf s f).latched with | some r => some r | none => (mbxOf s f).orphan
    permitted := (mbxOf s f).permitted, deprecated := (mbxOf s f).deprecated }

theorem resetFnRegs_eq (s : State) (f : Nat) :
    resetFnRegs s f = if f = 0 then keepRegion (clearFn s f) else resetRegion (clearFn s f) f := rfl

/-- PF0's device region is kept in the registers of configuration alone, and no counter is among them. -/
theorem keepRegion_frame (s : State) :
    keepRegion s = { s with cfg := { (keepRegion s).cfg with cnt := s.cfg.cnt } } := by
  unfold keepRegion
  dsimp only
  generalize List.range 64 = l
  generalize hu : ({ s with cfg := _ } : State) = u
  have hframe : u = { s with cfg := { u.cfg with cnt := s.cfg.cnt } } := by rw [← hu]
  clear hu
  induction l generalizing u with
  | nil => exact hframe
  | cons k l ih =>
    rw [List.foldl_cons]
    refine ih _ ?_
    rw [hframe]
    rfl

/-- The last part of the reset changes registers of configuration alone, and no counter is among them. -/
theorem resetFnRegs_frame (s : State) (f : Nat) : resetFnRegs s f =
    { clearFn s f with cfg := { (resetFnRegs s f).cfg with cnt := (clearFn s f).cfg.cnt } } := by
  rw [resetFnRegs_eq]
  split
  · exact keepRegion_frame _
  · rfl

/-- A stream in a slot of the function is cleared, and stays in its slot. -/
theorem stream_clearFn {s : State} {f i k : Nat} (h : (stream (clearFn s f) i).slot = some (f, k)) :
    stream (clearFn s f) i = { Stream.idle with slot := some (f, k) } := by
  have hmap : (clearFn s f).streams =
      s.streams.map (fun e => (e.1, if (fnStreams s f).contains e.1 then e.2.cleared else e.2)) := by
    refine List.map_congr_left fun e _ => ?_
    split <;> rfl
  have hlk : stream (clearFn s f) i =
      ((lk s.streams i).map (fun x => if (fnStreams s f).contains i then x.cleared else x)).getD Stream.idle := by
    rw [stream, hmap, lkD, lk_map_val s.streams (fun j x => if (fnStreams s f).contains j then x.cleared else x)]
  rw [hlk] at h ⊢
  cases hx : lk s.streams i with
  | none => rw [hx] at h; exact absurd h nofun
  | some x =>
    have hslot : x.slot = some (f, k) := by
      rw [hx] at h
      simp only [Option.map_some, Option.getD_some] at h
      split at h
      · exact h
      · exact h
    have hmem : (fnStreams s f).contains i = true := by
      rw [List.contains_iff_mem]
      exact List.mem_map.2 ⟨(i, x), List.mem_filter.2 ⟨lk_mem _ _ _ hx, by simp [hslot]⟩, rfl⟩
    simp only [Option.map_some, Option.getD_some, hmem, if_true, Stream.cleared, hslot]

/-- A VF's partition region takes its reset image. -/
theorem regs_resetRegion (s : State) {f k : Nat} (h : keyRegion k = regionOfFn f) :
    staged (resetRegion s f) k = keyReset k ∧ committed (resetRegion s f) k = keyReset k ∧
      effective (resetRegion s f) k = keyReset k := by
  have hgone (t : Tab W32) : lkD (t.filter (fun e => keyRegion e.1 != regionOfFn f) : Tab W32) k (keyReset k) =
      keyReset k := by
    rw [lkD_filter_key t (fun k => keyRegion k != regionOfFn f)]
    simp [h]
  exact ⟨hgone _, hgone _, hgone _⟩

/-! ### The state of a function after its reset -/

/-- A function's own registers and streams are as its reset leaves them. -/
structure FnAtReset (t : State) (f : Nat) : Prop where
  mbx : ∃ m : Mbx, mbxOf t f = { Mbx.fresh with orphan := m.orphan, permitted := m.permitted, deprecated := m.deprecated }
  d3 : lk t.hif.d3 f = none
  held : lk t.hif.held f = none
  atsEnable : lk t.hif.atsEnable f = none
  lckResult : lk t.hif.lckResult f = none
  snap : lk t.hif.snap f = none
  ats : ∀ p, p < 2 ^ 52 → lk t.hif.ats (f * 2 ^ 52 + p) = none
  cnt : ∀ o, 0x3000 ≤ o → o < 0x4000 → Machine.cnt t (rk f o) = 0
  streams : ∀ i k, (stream t i).slot = some (f, k) → stream t i = { Stream.idle with slot := some (f, k) }
  regs : f ≠ 0 → ∀ k, keyRegion k = regionOfFn f →
    staged t k = keyReset k ∧ committed t k = keyReset k ∧ effective t k = keyReset k

theorem mbxOf_clearFn (s : State) (f : Nat) : ∃ m : Mbx, mbxOf (clearFn s f) f =
    { Mbx.fresh with orphan := m.orphan, permitted := m.permitted, deprecated := m.deprecated } := by
  refine ⟨mbxOf (clearFn s f) f, ?_⟩
  rw [show mbxOf (clearFn s f) f = _ from mbxOf_setMbx_self ..]

theorem lk_ats_clearFn (s : State) (f : Nat) {p : Nat} (h : p < 2 ^ 52) :
    lk (clearFn s f).hif.ats (f * 2 ^ 52 + p) = none := by
  have hfn : (f * 2 ^ 52 + p) / 2 ^ 52 = f := by omega
  refine (lk_filter_key s.hif.ats (fun k => k / 2 ^ 52 != f) _).trans ?_
  simp only [hfn, bne_self_eq_false]
  rfl

theorem cnt_clearFn (s : State) (f : Nat) {o : Nat} (h : 0x3000 ≤ o) (h' : o < 0x4000) :
    lkD (clearFn s f).cfg.cnt (rk f o) 0 = 0 := by
  have hown : (!(decide (rk f 0x3000 ≤ rk f o) && decide (rk f o < rk f 0x4000))) = false := by
    simp only [rk]
    simp [h, h']
  refine (lkD_filter_key s.cfg.cnt (fun k => !(decide (rk f 0x3000 ≤ k) && decide (k < rk f 0x4000))) _ _).trans ?_
  simp only [hown]
  rfl

theorem fnAtReset_resetFnRegs (s : State) (f : Nat) : FnAtReset (resetFnRegs s f) f := by
  have hregs : f ≠ 0 → ∀ k, keyRegion k = regionOfFn f → staged (resetFnRegs s f) k = keyReset k ∧
      committed (resetFnRegs s f) k = keyReset k ∧ effective (resetFnRegs s f) k = keyReset k := by
    intro hf k hk
    rw [resetFnRegs_eq, if_neg hf]
    exact regs_resetRegion _ hk
  rw [resetFnRegs_frame] at hregs ⊢
  exact {
    mbx := mbxOf_clearFn s f
    d3 := lk_del_self ..
    held := lk_del_self ..
    atsEnable := lk_del_self ..
    lckResult := lk_del_self ..
    snap := lk_del_self ..
    ats := fun p hp => lk_ats_clearFn s f hp
    cnt := fun o h h' => cnt_clearFn s f h h'
    streams := fun i k h => stream_clearFn h
    regs := hregs }

/-! ### The reset -/

/-- Whatever else it does, the reset of a function ends with its record and its registers. -/
theorem flrOne_eq (s : State) (f : Nat) :
    ∃ u tasks locks, flrOne s f = resetFnRegs (postG u 0x0104 2 f tasks locks 0) f := ⟨_, _, _, rfl⟩

/-- An FLR, of PF0 too, is a reset of its one function at its end. -/
theorem flr_eq (s : State) (f : Nat) : ∃ u, flr s f = flrOne u f := by
  unfold flr
  split
  · subst f; exact ⟨_, rfl⟩
  · exact ⟨_, rfl⟩

theorem exec_flr {s : State} {f : Fn} (hready : s.hif.pcieReady = true) (hoff : s.pwr.off = false)
    (hperst : s.jtag.perst = false) (hfn : fnExists s f.val = true) : exec (.flr f) s = .next (flr s f.val) := by
  simp [exec, execFlr, hready, hoff, hperst, hfn]

/-- Settles O14: the last act of a reset is that of the function's registers, whose every part has its law. -/
theorem functionResetLeavesResetValues : Obligations.FunctionResetLeavesResetValues := by
  refine ⟨?_, ?_, ?_⟩
  · intro s f hready hoff hperst hfn
    obtain ⟨v, hv⟩ := flr_eq s f.val
    obtain ⟨u, tasks, locks, hu⟩ := flrOne_eq v f.val
    rw [exec_flr hready hoff hperst hfn, hv, hu]
    obtain ⟨hmbx, hd3, hheld, henable, hlck, hsnap, hats, hcnt, hstreams, hregs⟩ :=
      fnAtReset_resetFnRegs (postG u 0x0104 2 f.val tasks locks 0) f.val
    refine ⟨_, rfl, hmbx, hd3, hheld, henable, hlck, hsnap, hats, hcnt, hstreams, fun hf => hregs ?_, u, tasks, locks, ?_⟩
    · exact fun h => hf (Fin.ext h)
    · rw [resetFnRegs_frame]; rfl
  · intro s hready hoff hperst
    refine ⟨flr s 0, exec_flr hready hoff hperst rfl, ?_⟩
    simp [exec, execHotReset, hready, hoff, hperst]
  · intro s hready hoff hvf
    refine ⟨_, _, ?_, rfl, rfl⟩
    simp [exec, execVfEnableClear, clearVfs, hready, hoff, hvf]

end Sys2Proof.Machine
end

section
/-! O15: VF Enable, D-states, configuration requests, translations, host read completions and the data link (R69, R71,
R72, R87, R531, R532). -/

namespace Sys2Proof.Machine

/-! ### D-states and admission -/

/-- Admission of a function that is held is closed. -/
theorem admitOpen_of_held {s : State} {f : Nat} (h : lk s.hif.held f = some true) : admitOpen s f = false := by
  simp [admitOpen, lkD, h]

/-- Holding one function holds it and leaves the others as they were. -/
theorem hold_one (s : State) (f : Nat) : lk (hold s [f]).hif.held f = some true ∧
    (∀ g, g ≠ f → lk (hold s [f]).hif.held g = lk s.hif.held g) :=
  ⟨lk_put_self .., fun _ hg => lk_put_ne _ _ hg⟩

/-! ### Translations -/

/-- Switching ATS off drops a function's translations, and no other's. -/
theorem lk_ats_setAts_off (s : State) (f k : Nat) :
    lk (setAts s f false).hif.ats k = if k / 2 ^ 52 = f then none else lk s.hif.ats k := by
  refine (lk_filter_key s.hif.ats (fun k => k / 2 ^ 52 != f) k).trans ?_
  by_cases h : k / 2 ^ 52 = f
  · simp only [h, bne_self_eq_false, if_true]; rfl
  · rw [if_neg h, if_pos (by simpa using h)]

theorem exec_atsTranslationCompletion_asked {s : State} {f : Fn} {page : BitVec 52} (granted : Bool)
    (hoff : s.pwr.off = false) (h : (f.val, page.toNat) ∈ s.hif.atsAsked) :
    exec (.atsTranslationCompletion f page granted) s = .next { s with hif := { s.hif with
      atsAsked := s.hif.atsAsked.erase (f.val, page.toNat)
      ats := put s.hif.ats (atsKey f.val page.toNat) granted } } := by
  simp only [exec, execAtsTranslationCompletion, hoff, List.contains_iff_mem.2 h]
  rfl

theorem exec_atsTranslationCompletion_ignored {s : State} {f : Fn} {page : BitVec 52} (granted : Bool)
    (h : (f.val, page.toNat) ∉ s.hif.atsAsked) : exec (.atsTranslationCompletion f page granted) s = .next s := by
  simp [exec, execAtsTranslationCompletion, h]

/-! ### Configuration requests -/

section
variable {s : State} {f : Fn} (hoff : s.pwr.off = false) (hfn : fnExists s f.val = true)
  (hserv : s.jtag.outOfService = false) (hperst : s.jtag.perst = false)
include hoff hfn hserv hperst

theorem exec_configRequest_retry (r : ConfigReq) (h : s.hif.pcieReady = false) :
    exec (.configRequest f r) s = .next { s with hif := { s.hif with bus := s.hif.bus ++ [.config f.val true] } } := by
  simp [exec, execConfigRequest, hoff, hfn, hserv, hperst, h]

theorem exec_configRequest_ready (r : ConfigReq) (h : s.hif.pcieReady = true) :
    exec (.configRequest f r) s = .next
      (let u := { s with hif := { s.hif with bus := s.hif.bus ++ [.config f.val false] } }
       match r with
       | .other _ => u
       | .atsEnable on => setAts u f.val on
       | .aspmL1 on => if f.val = 0 then { u with hif := { u.hif with aspmL1 := on } } else u) := by
  simp only [exec, execConfigRequest, hoff, hfn, hserv, hperst, h]
  rfl

/-- The clause of a request that sets ATS. -/
theorem configRequest_ats (on : Bool) (h : s.hif.pcieReady = true) :
    ∃ t, exec (.configRequest f (.atsEnable on)) s = .next t ∧ t.hif.bus = s.hif.bus ++ [.config f.val false] ∧
      lk t.hif.atsEnable f.val = some on ∧ (∀ g, g ≠ f.val → lk t.hif.atsEnable g = lk s.hif.atsEnable g) ∧
      (on = true → t.hif.ats = s.hif.ats) ∧
      (on = false → ∀ k, lk t.hif.ats k = if k / 2 ^ 52 = f.val then none else lk s.hif.ats k) ∧
      t = { s with hif := { s.hif with bus := t.hif.bus, atsEnable := t.hif.atsEnable, ats := t.hif.ats } } := by
  refine ⟨_, exec_configRequest_ready hoff hfn hserv hperst _ h, rfl, lk_put_self .., fun g hg => lk_put_ne _ _ hg,
    ?_, ?_, rfl⟩
  · rintro rfl; rfl
  · rintro rfl k; exact lk_ats_setAts_off _ f.val k

/-- The clause of a request that sets ASPM L1, which is PF0's. -/
theorem configRequest_aspm (on : Bool) (h : s.hif.pcieReady = true) :
    exec (.configRequest f (.aspmL1 on)) s = .next { s with hif := { s.hif with
      bus := s.hif.bus ++ [.config f.val false], aspmL1 := if f = 0 then on else s.hif.aspmL1 } } := by
  rw [exec_configRequest_ready hoff hfn hserv hperst _ h]
  by_cases hf : f = 0
  · subst hf; rfl
  · have hval : f.val ≠ 0 := fun h0 => hf (Fin.ext h0)
    simp [hf, hval]

end

/-! ### Host read completions -/

section
variable {s : State} {i a : Nat} {st : HostStatus}

/-- A completion lands in the task that asked for it (R87). -/
theorem streamLanded_asked {t : TaskRun} {k : Nat} (hfetch : (stream s i).fetchAsked = none)
    (htask : (stream s i).task = some t)
    (hk : t.asked.find? (fun k => k / 8192 == a && (match st with | .data b => b.length == k % 8192 | _ => true)) = some k) :
    streamLanded s i a st = setTask s i { t with
      land := put t.land k st, asked := t.asked.erase k
      stallAt := if (t.asked.erase k).isEmpty then none else some s.clk.timer } := by
  simp only [streamLanded, hfetch, htask]
  cases st <;> simp only [hk]

/-- A completion that no read of the stream answers is ignored. -/
theorem streamLanded_unasked (hfetch : (stream s i).fetchAsked = none)
    (h : (stream s i).task = none ∨ ∃ t, (stream s i).task = some t ∧ ∀ k ∈ t.asked, k / 8192 ≠ a) :
    streamLanded s i a st = s := by
  simp only [streamLanded, hfetch]
  rcases h with h | ⟨t, h, hnone⟩
  · simp only [h]
  · simp only [h]
    split
    · rfl
    · rename_i k hk
      have hkey := List.find?_some hk
      simp only [Bool.and_eq_true, beq_iff_eq] at hkey
      exact absurd hkey.1 (hnone k (List.mem_of_find?_eq_some hk))

/-- No read of a list answers a completion at another address. -/
theorem fitsRead_none {l : List Nat} (h : ∀ k ∈ l, k / 8192 ≠ a) : fitsRead l a st = none :=
  List.find?_eq_none.2 fun k hk => by simp [h k hk]

/-- A completion that no operation and no member's request answers is ignored. -/
theorem commandLanded_unasked (f : Nat) (hops : ∀ o ∈ s.ops, ∀ k ∈ o.asked, k / 8192 ≠ a)
    (hreqs : ∀ r ∈ s.pod.ownerReqs, ∀ k ∈ r.asked, k / 8192 ≠ a) : commandLanded s f a st = s := by
  have hop : s.ops.findIdx? (fun o => (o.fn == f || o.opcode == 0x605) && o.st == .running &&
      (fitsRead o.asked a st).isSome) = none :=
    List.findIdx?_eq_none_iff.2 fun o ho => by simp [fitsRead_none (hops o ho)]
  have hreq : s.pod.ownerReqs.findIdx? (fun r => ownerFn r == f && (fitsRead r.asked a st).isSome) = none :=
    List.findIdx?_eq_none_iff.2 fun r hr => by simp [fitsRead_none (hreqs r hr)]
  simp only [commandLanded, hop, hreq]

theorem exec_hostReadCompletion_stream (hoff : s.pwr.off = false) (i : SId) (addr : W64) :
    exec (.hostReadCompletion (.stream i) addr st) s = .next (streamLanded s i.val addr.toNat st) := by
  simp only [exec, execHostReadCompletion, hoff]
  rfl

theorem exec_hostReadCompletion_command (hoff : s.pwr.off = false) (f : Fn) (addr : W64) :
    exec (.hostReadCompletion (.command f) addr st) s = .next (commandLanded s f.val addr.toNat st) := by
  simp only [exec, execHostReadCompletion, hoff]
  rfl

end

/-- Settles O15: each row has its equation, and what a table reads afterwards follows from the laws of tables. -/
theorem functionStatesAndTranslations : Obligations.FunctionStatesAndTranslations := by
  intro s f hoff
  refine ⟨fun n hready => ?_, ?_, fun hd3 => ?_, fun page => ⟨?_, fun granted h => ?_, fun granted h => ?_⟩,
    fun hfn hserv hperst => ⟨fun r h => ?_, fun o h => ?_, fun on h => ?_, fun on h => ?_⟩,
    fun speed width reversed hperst => ?_, fun i addr st t k hfetch htask hk => ?_, fun i addr st hfetch hnone => ?_,
    fun addr st hops hreqs => ?_⟩
  · simp [exec, execVfEnableSet, hready, hoff]
  · refine ⟨hold { s with hif := { s.hif with d3 := put s.hif.d3 f.val true } } [f.val], ?_, lk_put_self ..,
      (hold_one ..).1, admitOpen_of_held (hold_one ..).1, fun g hg => ⟨lk_put_ne _ _ hg, (hold_one ..).2 g hg⟩, rfl⟩
    simp [exec, execD3hotEntry, hoff]
  · refine ⟨hold { s with hif := { s.hif with d3 := del s.hif.d3 f.val } } [f.val], ?_, lk_del_self ..,
      (hold_one ..).1, admitOpen_of_held (hold_one ..).1, fun g hg => ⟨lk_del_ne _ hg, (hold_one ..).2 g hg⟩, rfl⟩
    simp [exec, execD0Return, hoff, lkD, hd3]
  · refine ⟨{ s with hif := { s.hif with
        ats := del s.hif.ats (atsKey f.val page.toNat), bus := s.hif.bus ++ [.invalidated f.val page.toNat] } },
      ?_, lk_del_self .., fun k hk => lk_del_ne _ hk, rfl, rfl⟩
    simp [exec, execAtsInvalidate, hoff]
  · exact ⟨_, exec_atsTranslationCompletion_asked granted hoff h, lk_put_self .., fun k hk => lk_put_ne _ _ hk, rfl⟩
  · exact exec_atsTranslationCompletion_ignored granted h
  · exact exec_configRequest_retry hoff hfn hserv hperst r h
  · exact exec_configRequest_ready hoff hfn hserv hperst (.other o) h
  · exact configRequest_ats hoff hfn hserv hperst on h
  · exact configRequest_aspm hoff hfn hserv hperst on h
  · simp [exec, execPcieLinkUp, hoff, hperst]
  · rw [exec_hostReadCompletion_stream hoff, streamLanded_asked hfetch htask hk]
    exact ⟨_, _, rfl, congrArg Stream.task (stream_setStream_self ..), lk_put_self .., rfl, rfl, rfl,
      fun j hj => stream_setStream_ne _ _ hj, rfl⟩
  · rw [exec_hostReadCompletion_stream hoff, streamLanded_unasked hfetch hnone]
  · rw [exec_hostReadCompletion_command hoff, commandLanded_unasked f.val hops hreqs]

end Sys2Proof.Machine
end

section
/-! What a task boundary and the admission of a task may change (R80, R87, R133), for the rows of the streams below. -/

namespace Sys2Proof.Machine

section
variable (s : State) (i : Nat)

/-- A task boundary brings registers into effect and does nothing else. -/
theorem taskBoundary_frame : taskBoundary s i =
    { s with cfg := { s.cfg with effective := (taskBoundary s i).cfg.effective } } := by
  unfold taskBoundary
  split
  · rfl
  · split
    · rfl
    · dsimp only [applyKeys]
      rw [bringKeys_frame]
      rfl

theorem stream_taskBoundary (j : Nat) : stream (taskBoundary s i) j = stream s j := by rw [taskBoundary_frame]; rfl

/-- Admission is a task boundary, and at most the first fetched task of an idle stream becomes its task in flight. -/
theorem admitNext_cases : admitNext s i = taskBoundary s i ∨
    ∃ f rest t x l, (stream s i).fetched = f :: rest ∧ (stream s i).task = none ∧
      admitNext s i = { setStream (taskBoundary s i) i { stream s i with fetched := rest, task := some t, text := x } with
        unitWait := l } := by
  simp only [admitNext, stream_taskBoundary]
  split
  · rename_i f rest hfetched htask
    split
    · exact .inl rfl
    · split
      · exact .inr ⟨f, rest, _, _, _, hfetched, htask, rfl⟩
      · exact .inr ⟨f, rest, _, _, _, hfetched, htask, rfl⟩
  · exact .inl rfl

/-- With nothing fetched, admission is the task boundary alone. -/
theorem admitNext_of_fetched_nil {s : State} {i : Nat} (h : (stream s i).fetched = []) :
    admitNext s i = taskBoundary s i := by
  rcases admitNext_cases s i with ha | ⟨f, rest, t, x, l, hf, -, -⟩
  · exact ha
  · rw [h] at hf; exact absurd hf nofun

/-- Admission on a stream leaves the other streams alone. -/
theorem stream_admitNext_ne {j : Nat} (h : j ≠ i) : stream (admitNext s i) j = stream s j := by
  rcases admitNext_cases s i with ha | ⟨f, rest, t, x, l, -, -, ha⟩
  · rw [ha, stream_taskBoundary]
  · rw [ha]
    exact (stream_setStream_ne _ _ h).trans (stream_taskBoundary s i j)

/-- Of the stream itself it changes what is fetched, the task and the text state. -/
theorem stream_admitNext_self : ∃ l t x,
    stream (admitNext s i) i = { stream s i with fetched := l, task := t, text := x } := by
  rcases admitNext_cases s i with ha | ⟨f, rest, t, x, l, -, -, ha⟩
  · rw [ha, stream_taskBoundary]; exact ⟨_, _, _, rfl⟩
  · rw [ha]; exact ⟨_, _, _, stream_setStream_self ..⟩

@[simp] theorem admitNext_hif : (admitNext s i).hif = s.hif := by
  rcases admitNext_cases s i with ha | ⟨f, rest, t, x, l, -, -, ha⟩
  · rw [ha, taskBoundary_frame]
  · rw [ha, taskBoundary_frame]; rfl

@[simp] theorem cpl_admitNext (j : Nat) : (stream (admitNext s i) j).cpl = (stream s j).cpl := by
  by_cases h : j = i
  · subst h
    obtain ⟨l, t, x, hself⟩ := stream_admitNext_self s j
    rw [hself]
  · rw [stream_admitNext_ne s i h]

/-- Admission on every stream moves no STR_CPL_IDX and changes nothing of the host interface. -/
theorem admitAll_spec : (admitAll s).hif = s.hif ∧ ∀ j, (stream (admitAll s) j).cpl = (stream s j).cpl := by
  unfold admitAll
  generalize s.streams.map (·.1) = l
  induction l generalizing s with
  | nil => exact ⟨rfl, fun _ => rfl⟩
  | cons i l ih =>
    obtain ⟨hhif, hcpl⟩ := ih (admitNext s i)
    rw [List.foldl_cons]
    exact ⟨hhif.trans (admitNext_hif s i), fun j => (hcpl j).trans (cpl_admitNext s i j)⟩

end

end Sys2Proof.Machine
end

section
/-! O17: the fetcher (R79, R80). -/

namespace Sys2Proof.Machine

/-! ### What arrives -/

section
variable (s : State) (i : Nat)

/-- Bytes taken as free values leave the streams alone. -/
theorem streams_freshBytes (n : Nat) : (freshBytes n s).2.streams = s.streams := by
  induction n generalizing s with
  | zero => rfl
  | succ n ih => exact ih (freshByte s).2

/-- Bytes for descriptors that could not be read, and the state that has used them up. -/
def freeDescs (descs : List (List Byte)) : List (List Byte) × State :=
  descs.foldl (fun (l, s) _ => let (b, s) := freshBytes 64 s; (l ++ [b], s)) ([], s)

/-- They are as many, and the streams stay. -/
theorem freeDescs_spec (descs : List (List Byte)) :
    (freeDescs s descs).1.length = descs.length ∧ (freeDescs s descs).2.streams = s.streams := by
  unfold freeDescs
  suffices h : ∀ (l : List (List Byte)) (u : State),
      (descs.foldl (fun (l, s) _ => let (b, s) := freshBytes 64 s; (l ++ [b], s)) (l, u)).1.length =
        l.length + descs.length ∧
      (descs.foldl (fun (l, s) _ => let (b, s) := freshBytes 64 s; (l ++ [b], s)) (l, u)).2.streams = u.streams by
    simpa using h [] s
  induction descs with
  | nil => exact fun l u => ⟨rfl, rfl⟩
  | cons d descs ih =>
    intro l u
    obtain ⟨hlen, hstreams⟩ := ih (l ++ [(freshBytes 64 u).1]) (freshBytes 64 u).2
    rw [List.foldl_cons]
    refine ⟨hlen.trans ?_, hstreams.trans (streams_freshBytes u 64)⟩
    simp only [List.length_append, List.length_cons, List.length_nil]
    omega

theorem stream_freeDescs (descs : List (List Byte)) (j : Nat) : stream (freeDescs s descs).2 j = stream s j := by
  rw [stream, (freeDescs_spec s descs).2]
  rfl

/-- Descriptors that arrive, before the stream admits its next task. -/
def takeDescs (descs : List (List Byte)) (bad : Option (Nat × Nat)) : State :=
  let u := setStream s i { stream s i with
    head := (stream s i).head + BitVec.ofNat 32 descs.length
    fetched := (stream s i).fetched ++ descs.zipIdx.map (fun (b, k) =>
      (⟨((stream s i).head.toNat + k) % 2 ^ 32, b, bitOf (strEff s i 0x08) 1, bad⟩ : Fetched))
    fetchAsked := none }
  cntAdd u (rk (streamFn u i) 0x3008) descs.length

theorem gotDescs_read (descs : List (List Byte)) :
    gotDescs s i descs none = admitNext (takeDescs s i descs none) i := rfl

theorem gotDescs_unread (descs : List (List Byte)) (e : Nat × Nat) : gotDescs s i descs (some e) =
    admitNext (takeDescs (freeDescs s descs).2 i (freeDescs s descs).1 (some e)) i := rfl

/-- They move HEAD on by their number and end the read outstanding. -/
theorem admitNext_takeDescs (descs : List (List Byte)) (bad : Option (Nat × Nat)) :
    (stream (admitNext (takeDescs s i descs bad) i) i).fetchAsked = none ∧
    (stream (admitNext (takeDescs s i descs bad) i) i).head = (stream s i).head + BitVec.ofNat 32 descs.length ∧
    (∀ j, j ≠ i → stream (admitNext (takeDescs s i descs bad) i) j = stream s j) := by
  have hself : stream (takeDescs s i descs bad) i = _ := stream_setStream_self ..
  obtain ⟨l, t, x, hadmit⟩ := stream_admitNext_self (takeDescs s i descs bad) i
  rw [hadmit, hself]
  exact ⟨rfl, rfl, fun j hj => (stream_admitNext_ne _ i hj).trans (stream_setStream_ne _ _ hj)⟩

theorem gotDescs_spec (descs : List (List Byte)) (bad : Option (Nat × Nat)) :
    (stream (gotDescs s i descs bad) i).fetchAsked = none ∧
    (stream (gotDescs s i descs bad) i).head = (stream s i).head + BitVec.ofNat 32 descs.length ∧
    (∀ j, j ≠ i → stream (gotDescs s i descs bad) j = stream s j) := by
  cases bad with
  | none => rw [gotDescs_read]; exact admitNext_takeDescs ..
  | some e =>
    rw [gotDescs_unread]
    simpa only [(freeDescs_spec s descs).1, stream_freeDescs] using
      admitNext_takeDescs (freeDescs s descs).2 i (freeDescs s descs).1 (some e)

end

/-! ### What is asked for -/

/-- How many descriptors one read asks for: up to eight, as far as the tail, within the ring and within the page (R79). -/
def fetchCount (ahead toEnd inPage : Nat) : Nat := min (min 8 ahead) (min toEnd inPage)

section
variable {s : State} {i : SId} (hoff : s.pwr.off = false)
include hoff

theorem exec_descriptorFetch : exec (.descriptorFetch i) s = .next (admitNext (fetchRun s i.val) i.val) := by
  simp only [exec, execDescriptorFetch, hoff]
  rfl

/-- With nothing fetched, the row leaves the streams as the fetcher does. -/
theorem stream_descriptorFetch (h : (stream (fetchRun s i.val) i.val).fetched = []) :
    ∃ t, exec (.descriptorFetch i) s = .next t ∧ ∀ j, stream t j = stream (fetchRun s i.val) j := by
  refine ⟨_, exec_descriptorFetch hoff, fun j => ?_⟩
  rw [admitNext_of_fetched_nil h, stream_taskBoundary]

end

section
variable {s : State} {i f k n a : Nat} (hslot : (stream s i).slot = some (f, k))
  (hn : n = 2 ^ strEff s i 0x18)
  (ha : a = strEff s i 0x10 + 2 ^ 32 * strEff s i 0x14 + 64 * ((stream s i).head.toNat % n))
include hslot

/-- With ENABLE clear, or with the tail at the head, nothing is asked for. -/
theorem fetchRun_stays (h : bitOf (strEff s i 0x08) 0 = false ∨ (stream s i).tail = (stream s i).head) :
    fetchRun s i = s := by
  simp only [fetchRun, hslot]
  rw [if_pos]
  rcases h with h | h
  · simp [h]
  · simp [h]

include hn ha

/-- The fetcher asks for descriptors of host memory through a translation that is granted. -/
theorem fetchRun_asks (hrun : bitOf (strEff s i 0x08) 0 = true) (hhost : bitOf (strEff s i 0x08) 2 = false)
    (htail : (stream s i).tail ≠ (stream s i).head) (hopen : admitOpen s f = true) (hruns : runs s 3 = true)
    (hasked : (stream s i).fetchAsked = none) (hfetched : (stream s i).fetched = [])
    (hpage : hostPage ⟨s, 64, f, partOfFn f, [], []⟩ a = .ok () []) :
    fetchRun s i = setStream s i { stream s i with fetchAsked := some (a, 64 * fetchCount
      ((stream s i).tail - (stream s i).head).toNat (n - (stream s i).head.toNat % n) (64 - a / 64 % 64)) } := by
  subst hn ha
  simp only [fetchRun, hslot]
  rw [if_neg (by simp [hrun, htail, hopen, hruns, hasked, hfetched])]
  simp only [hhost, hpage]
  rfl

end

/-- A read of the fetcher asks for something, and stays behind the tail, in the ring and in the page. -/
theorem fetchCount_bounds {ahead toEnd inPage : Nat} (h : ahead ≠ 0) (h' : toEnd ≠ 0) (h'' : inPage ≠ 0) :
    1 ≤ fetchCount ahead toEnd inPage ∧ fetchCount ahead toEnd inPage ≤ 8 ∧ fetchCount ahead toEnd inPage ≤ ahead ∧
      fetchCount ahead toEnd inPage ≤ toEnd ∧ fetchCount ahead toEnd inPage ≤ inPage := by
  unfold fetchCount
  omega

/-- The descriptors of the current page, from an aligned address on, end with it. -/
theorem fetch_in_page {a m : Nat} (hm : m ≤ 64 - a / 64 % 64) (ha : a % 64 = 0) : a % 4096 + 64 * m ≤ 4096 := by
  omega

/-- Different indices lie a number of descriptors apart. -/
theorem ahead_ne_zero {a b : W32} (h : a ≠ b) : (a - b).toNat ≠ 0 := by
  bv_omega

/-- A completion of the fetcher's read brings its descriptors. -/
theorem streamLanded_fetch {s : State} {i a : Nat} {b : List Byte} (h : (stream s i).fetchAsked = some (a, b.length)) :
    streamLanded s i a (.data b) = gotDescs s i (chunks 64 b) none := by
  simp [streamLanded, h]

/-- Settles O17: what the fetcher asks for is the least of four bounds, and what arrives moves HEAD. -/
theorem fetcherReadsAhead : Obligations.FetcherReadsAhead := by
  intro s i f k n a hoff hslot hn ha
  refine ⟨?_, ?_, ?_⟩
  · intro hrun hhost htail hopen hruns hasked hfetched hpage
    have hfetch := fetchRun_asks hslot hn ha hrun hhost htail hopen hruns hasked hfetched hpage
    have hstream (j : Nat) := congrArg (stream · j) hfetch
    have hself := (hstream i.val).trans (stream_setStream_self ..)
    have hmod : (stream s i.val).head.toNat % n < n := Nat.mod_lt _ (hn ▸ Nat.two_pow_pos _)
    obtain ⟨hone, height, htl, hring, hpg⟩ := fetchCount_bounds (ahead_ne_zero htail)
      (Nat.sub_ne_zero_of_lt hmod) (show 64 - a / 64 % 64 ≠ 0 by omega)
    obtain ⟨t, hexec, hsame⟩ := stream_descriptorFetch hoff (by rw [hself]; exact hfetched)
    refine ⟨t, _, hexec, ?_, hone, height, htl, by omega, fetch_in_page hpg, ?_, ?_, ?_, fun j hj => ?_⟩
    · rw [hsame, hself]
    · rw [hsame, hself]
    · rw [hsame, hself]
    · rw [hsame, hself]; exact hfetched
    · rw [hsame, hfetch, stream_setStream_ne _ _ hj]
  · intro hstop hfetched
    have hstay := fetchRun_stays hslot hstop
    obtain ⟨t, hexec, hsame⟩ := stream_descriptorFetch hoff (i := i) (by rw [hstay]; exact hfetched)
    exact ⟨t, hexec, fun j => by rw [hsame, hstay]⟩
  · rintro m b hlt hasked rfl
    have haddr : (BitVec.ofNat 64 a).toNat = a := by rw [BitVec.toNat_ofNat, Nat.mod_eq_of_lt hlt]
    rw [exec_hostReadCompletion_stream hoff, haddr, streamLanded_fetch hasked]
    exact ⟨_, rfl, gotDescs_spec ..⟩

end Sys2Proof.Machine
end

section
/-! O16: the completion record (R77, R82, Table 3.4). -/

namespace Sys2Proof.Machine

/-! ### The bytes of a record -/

@[simp] theorem length_leBytes (n v : Nat) : (leBytes n v).length = n := by
  induction n generalizing v with
  | zero => rfl
  | succ n ih => simp [leBytes, ih]

theorem length_recBytes (t : TaskRun) (r : Rec) (n : Nat) : (recBytes t r n).length = 32 := by simp [recBytes]

/-- A descriptor's TYPE is a byte. -/
theorem type_lt (t : TaskRun) : t.type < 256 := by
  have hone : ∀ l : List Byte, l.length = 1 → leNat l < 256 := by
    intro l hl
    obtain ⟨x, rfl⟩ := List.length_eq_one_iff.1 hl
    simpa [leNat] using x.isLt
  refine hone _ ?_
  simp only [slice, List.length_append, List.length_replicate, List.length_take, List.length_drop]
  omega

/-- PHASE is bit 7 of the last byte, and tells the rounds of the ring apart (R77). -/
theorem phase_recBytes (t : TaskRun) (r : Rec) (n : Nat) :
    (recBytes t r n)[31]?.map (fun b => b.getLsbD 7) = some (decide (t.idx / n % 2 = 0)) := by
  have htype := type_lt t
  have hlast : (recBytes t r n)[31]? =
      some (BitVec.ofNat 8 ((t.idx % 65536 + 2 ^ 16 * t.type + 2 ^ 31 * b2n (t.idx / n % 2 == 0)) / 256 / 256 / 256)) := by
    rw [recBytes, List.getElem?_append_right (by simp)]
    simp [leBytes]
  have hidx : t.idx % 65536 < 65536 := Nat.mod_lt _ (by decide)
  rw [hlast, Option.map_some, BitVec.getLsbD_ofNat, Nat.testBit_eq_decide_div_mod_eq]
  generalize t.idx % 65536 = low at hidx
  by_cases h : t.idx / n % 2 = 0
  · simp only [h, b2n, beq_self_eq_true, if_true]
    simp only [decide_true, Option.some.injEq, Bool.and_eq_true, decide_eq_true_eq]
    omega
  · have hb : (t.idx / n % 2 == 0) = false := by simp [h]
    simp only [h, b2n, hb, Bool.false_eq_true, if_false]
    simp only [decide_false, Option.some.injEq, Bool.and_eq_false_iff, decide_eq_false_iff_not]
    omega

/-- A record in an aligned ring lies within 64 aligned bytes. -/
theorem record_in_line {base : Nat} (k : Nat) (h : base % 4096 = 0) : (base + 32 * k) % 64 + 32 ≤ 64 := by
  omega

/-! ### The write -/

section
variable {s u : State} (h : atEnd u = atEnd s)
include h

theorem writes_of_atEnd : u.hif.writes = s.hif.writes := congrArg AtEnd.writes h

theorem cpl_of_atEnd (j : Nat) : (stream u j).cpl = (stream s j).cpl :=
  congrArg Prod.fst (congrFun (congrArg AtEnd.cpls h) j)

theorem slot_of_atEnd (j : Nat) : (stream u j).slot = (stream s j).slot :=
  congrArg (fun c => c.2.1) (congrFun (congrArg AtEnd.cpls h) j)

theorem strEff_of_atEnd (i o : Nat) : strEff u i o = strEff s i o := by
  have heff : u.cfg.effective = s.cfg.effective := congrArg AtEnd.eff h
  simp only [strEff, slot_of_atEnd h, slotEff, effective, heff]

end

/-- The record of an ended task stands, and the stream has moved on. -/
def putRecord (s : State) (i f a : Nat) (r : Rec) (bytes : List Byte) : State :=
  setStream { s with hif := { s.hif with writes := s.hif.writes ++ [⟨f, a, bytes⟩] } } i { stream s i with
    task := none, cpl := (stream s i).cpl + 1, lastBad := decide (16 ≤ r.status), stallHold := false }

section
variable {s : State} {i f k : Nat} {t : TaskRun} {r : Rec} (hruns : runs s 3 = true)
  (hslot : (stream s i).slot = some (f, k)) (htask : (stream s i).task = some t) (hdone : t.done = some r)
include hruns hslot htask hdone

/-- The row gives back what the task holds, puts its record, counts, and goes on to the next admission. -/
theorem recordRun_ended : ∃ u, recordRun s i = admitNext u i ∧ atEnd u = atEnd (putRecord (closeTask s i t r) i f
    (strEff s i 0x1C + 2 ^ 32 * strEff s i 0x20 + 32 * (t.idx % 2 ^ strEff s i 0x18)) r
    (recBytes t r (2 ^ strEff s i 0x18))) := by
  have hclose := atEnd_closeTask s i t r
  have heff := strEff_of_atEnd hclose i
  simp only [recordRun, htask, hslot, hdone, hruns, Bool.not_true, Bool.false_eq_true, if_false]
  refine ⟨_, rfl, ?_⟩
  rw [← heff 0x1C, ← heff 0x20, ← heff 0x18]
  split
  · rw [atEnd_faultStream]
    split
    · simp only [atEnd_cntAdd]; rfl
    · simp only [atEnd_cntAdd]; rfl
  · split
    · simp only [atEnd_cntAdd]; rfl
    · simp only [atEnd_cntAdd]; rfl

end

/-- With no ended task the row puts no record. -/
theorem recordRun_idle {s : State} {i : Nat}
    (h : (stream s i).task = none ∨ ∃ t, (stream s i).task = some t ∧ t.done = none) : recordRun s i = s := by
  rcases h with h | ⟨t, h, hdone⟩
  · simp only [recordRun, h]
  · simp only [recordRun, h]
    split
    · rename_i heq _
      obtain rfl := Option.some.inj heq
      simp only [hdone]
    · rfl

theorem exec_completionRecord {s : State} (hoff : s.pwr.off = false) (i : SId) :
    exec (.completionRecord i) s = .next (admitAll (recordRun s i.val)) := by
  simp only [exec, execCompletionRecord, hoff]
  rfl

/-- Settles O16: the row puts one record, and neither what it gives back nor what it admits writes or moves an index. -/
theorem recordWrittenOnce : Obligations.RecordWrittenOnce := by
  intro s i hoff
  refine ⟨?_, fun hidle => ?_⟩
  · rintro f k n base t r hruns hslot htask hdone rfl rfl
    obtain ⟨u, hrun, hend⟩ := recordRun_ended hruns hslot htask hdone
    have hclose := atEnd_closeTask s i.val t r
    obtain ⟨hhif, hcpl⟩ := admitAll_spec (admitNext u i.val)
    rw [exec_completionRecord hoff, hrun]
    refine ⟨_, rfl, ?_, length_recBytes .., phase_recBytes .., record_in_line _, ?_, fun j hj => ?_⟩
    · rw [hhif, admitNext_hif, writes_of_atEnd hend, ← writes_of_atEnd hclose]
      rfl
    · rw [hcpl, cpl_admitNext, cpl_of_atEnd hend, ← cpl_of_atEnd hclose]
      exact congrArg Stream.cpl (stream_setStream_self ..)
    · rw [hcpl, cpl_admitNext, cpl_of_atEnd hend, ← cpl_of_atEnd hclose]
      exact congrArg Stream.cpl (stream_setStream_ne _ _ hj)
  · obtain ⟨hhif, hcpl⟩ := admitAll_spec s
    rw [exec_completionRecord hoff, recordRun_idle hidle]
    exact ⟨_, rfl, congrArg Hif.writes hhif, hcpl⟩

end Sys2Proof.Machine
end

section
/-! O26: host reads that stay out (R79, R87, Table 3.5). -/

namespace Sys2Proof.Machine

/-! ### How a task ends -/

/-- A stream's task has ended with a record of this status, detail and COUNT. -/
def EndedWith (u : State) (i status detail count : Nat) : Prop :=
  ∃ r, Ended u i r ∧ r.status = status ∧ r.detail = detail ∧ r.count = count

section
variable (s : State) (i : Nat) (t : TaskRun)

theorem ended_endTask (r : Rec) : Ended (endTask s i t r) i r :=
  ⟨_, congrArg Stream.task (stream_setStream_self ..), rfl, rfl, rfl⟩

/-- A SCATTER_ADD that aborts keeps what its record says of the abort. -/
theorem endedWith_endScatter {r : Rec} (h : r.status ≠ 0) :
    EndedWith (endScatter s i t r) i r.status r.detail r.count := by
  refine ⟨_, ended_endTask .., ?_⟩
  simp [h]

/-- So does a COPY. -/
theorem endedWith_endCopy {r : Rec} (h : r.status ≠ 0) : EndedWith (endCopy s i t r) i r.status r.detail r.count := by
  refine ⟨_, ended_endTask .., ?_⟩
  simp [h]

/-- The end of a task that aborts, by its type. -/
def abortTask (r : Rec) : State :=
  if t.type = 3 then endScatter s i t r else if t.type = 8 then endCopy s i t r else endTask s i t r

theorem endedWith_abortTask {r : Rec} (h : r.status ≠ 0) :
    EndedWith (abortTask s i t r) i r.status r.detail r.count := by
  unfold abortTask
  split
  · exact endedWith_endScatter s i t h
  · split
    · exact endedWith_endCopy s i t h
    · exact ⟨r, ended_endTask s i t r, rfl, rfl, rfl⟩

theorem atEnd_abortTask (r : Rec) : atEnd (abortTask s i t r) = atEnd s := by
  unfold abortTask
  split
  · exact atEnd_endScatter s i t r
  · split
    · exact atEnd_endCopy s i t r
    · exact atEnd_endTask s i t r

end

/-! ### The stall -/

section
variable {s : State} {i : Nat} {t : TaskRun} (htask : (stream s i).task = some t) (hdone : t.done = none)
include htask hdone

/-- A stalled task aborts with TS_HOST_STALL, and its stream holds. -/
theorem hostStall_eq (d : Nat) : ∃ k, hostStall s i d = cntAdd
    (setStream (abortTask s i t (Rec.abort 0x15 d t.progress 0 0)) i
      { stream (abortTask s i t (Rec.abort 0x15 d t.progress 0 0)) i with stallHold := true }) k 1 := by
  simp only [hostStall, htask, hdone]
  exact ⟨_, rfl⟩

theorem hostStall_spec (d : Nat) : ∃ r, Ended (hostStall s i d) i r ∧ r.status = 0x15 ∧ r.detail = d ∧
    r.count = t.progress ∧ (stream (hostStall s i d) i).stallHold = true ∧
    (stream (hostStall s i d) i).cpl = (stream s i).cpl ∧ (hostStall s i d).hif.writes = s.hif.writes := by
  obtain ⟨k, hstall⟩ := hostStall_eq htask hdone d
  have hended : EndedWith (abortTask s i t (Rec.abort 0x15 d t.progress 0 0)) i 0x15 d t.progress :=
    endedWith_abortTask s i t (r := Rec.abort 0x15 d t.progress 0 0) nofun
  have hend := atEnd_abortTask s i t (Rec.abort 0x15 d t.progress 0 0)
  generalize abortTask s i t (Rec.abort 0x15 d t.progress 0 0) = u at hstall hended hend
  have hself : stream (hostStall s i d) i = { stream u i with stallHold := true } := by
    rw [hstall]
    exact stream_setStream_self ..
  obtain ⟨r, ⟨x, hx, hrec⟩, hstatus, hdetail, hcount⟩ := hended
  refine ⟨r, ⟨x, ?_, hrec⟩, hstatus, hdetail, hcount, ?_, ?_, ?_⟩
  · rw [hself]; exact hx
  · rw [hself]
  · rw [hself]; exact cpl_of_atEnd hend i
  · rw [hstall]; exact (writes_of_atEnd hend :)

end

/-! ### The rows -/

section
variable {s : State} {i : SId} {t : TaskRun} (hoff : s.pwr.off = false) (htask : (stream s i.val).task = some t)
include hoff htask

/-- HOST_STALL_TIMEOUT acts once the limit of STR_HSTALL, of at least a millisecond, has passed. -/
theorem exec_hostStallTimeout_due {a : Nat} (hstall : t.stallAt = some a)
    (hdue : a + max 1 (strEff s i.val 0x2C % 1024) * msT ≤ s.clk.timer) :
    exec (.hostStallTimeout i) s = .next (hostStall s i.val 3) := by
  simp only [exec, execHostStallTimeout, hoff, htask, hstall]
  rw [if_neg (by decide), if_pos hdue]

theorem exec_hostStallTimeout_early (h : t.stallAt = none ∨
    ∃ a, t.stallAt = some a ∧ s.clk.timer < a + max 1 (strEff s i.val 0x2C % 1024) * msT) :
    exec (.hostStallTimeout i) s = .next s := by
  simp only [exec, execHostStallTimeout, hoff, htask]
  rw [if_neg (by decide)]
  rcases h with h | ⟨a, h, hearly⟩
  · simp only [h]
  · simp only [h]
    rw [if_neg (Nat.not_le.2 hearly)]

/-- HOST_COMPLETION_TIMEOUT acts where a read of the task is outstanding. -/
theorem exec_hostCompletionTimeout_task : exec (.hostCompletionTimeout i) s =
    .next (if t.asked.isEmpty then s else hostStall s i.val 3) := by
  simp only [exec, execHostCompletionTimeout, hoff, htask]
  rfl

end

/-- Without a task in flight, the read that timed out is the fetcher's. -/
theorem exec_hostCompletionTimeout_fetch {s : State} {i : SId} {a n : Nat} (hoff : s.pwr.off = false)
    (htask : (stream s i.val).task = none) (hasked : (stream s i.val).fetchAsked = some (a, n)) :
    exec (.hostCompletionTimeout i) s = .next (gotDescs s i.val (noDescs (n / 64)) (some (0x15, 3))) := by
  simp only [exec, execHostCompletionTimeout, hoff, htask, hasked]
  rfl

/-- Settles O26: both rows abort the task by one operation, and a descriptor read ends as one that could not be read. -/
theorem hostStalls : Obligations.HostStalls := by
  refine ⟨fun s i t hoff htask hdone => ⟨?_, exec_hostStallTimeout_early hoff htask, fun hasked => ?_⟩, ?_⟩
  · intro c hc
    have hexec : exec c s = .next (hostStall s i.val 3) := by
      rcases hc with ⟨a, rfl, hstall, hdue⟩ | ⟨rfl, hasked⟩
      · exact exec_hostStallTimeout_due hoff htask hstall hdue
      · rw [exec_hostCompletionTimeout_task hoff htask, if_neg (by simpa using hasked)]
    exact ⟨_, (hostStall_spec htask hdone 3).imp fun r h => ⟨hexec, h⟩⟩
  · rw [exec_hostCompletionTimeout_task hoff htask, hasked]
    rfl
  · intro s i a n hoff htask hasked
    obtain ⟨hfetch, hhead, hother⟩ := gotDescs_spec s i.val (noDescs n) (some (0x15, 3))
    rw [exec_hostCompletionTimeout_fetch hoff htask hasked, Nat.mul_div_cancel_left n (by decide)]
    rw [noDescs, List.length_replicate] at hhead
    exact ⟨_, rfl, hfetch, hhead, hother⟩

end Sys2Proof.Machine
end

section
/-! O37: the commands of discovery and of operation records (R99, R110 to R113, R117 to R120, R564). -/

namespace Sys2Proof.Machine

section
variable {s : State} {b : List Byte} (f : Nat)

/-! ### Capabilities -/

theorem getCaps_own (h : leAt b 8 1 = 0) : getCaps s f b =
    .ok (leBytes 32 definedCaps.toNat ++ leBytes 32 (permittedOf s f).toNat ++ leBytes 32 (mbxOf s f).enabled.toNat)
      s false := by
  simp [getCaps, h, checked_cons, checked_nil]

theorem getCaps_target (h : leAt b 8 1 ≠ 0) (h32 : leAt b 8 1 ≤ 32) : getCaps s 0 b =
    .ok (leBytes 32 definedCaps.toNat ++ leBytes 32 (mbxOf s (leAt b 8 1)).permitted.toNat ++
      leBytes 32 (mbxOf s (leAt b 8 1)).enabled.toNat) s false := by
  simp [getCaps, h, Nat.not_lt.2 h32, permittedOf, checked_cons, checked_nil]

/-- A VF names no target. -/
theorem getCaps_vf {f : Nat} (h : leAt b 8 1 ≠ 0) (hf : f ≠ 0) : getCaps s f b = .fail 0x14 1 :=
  checked_bad (by simp [h, hf]) _ _

/-- A VF sets no PERMITTED. -/
theorem enableCaps_vf {f : Nat} (h : leAt b 8 1 < 32) (hf : f ≠ 0) : enableCaps s f b = .fail 0x14 1 :=
  checked_bad (by simp [h, hf]) _ _

section
variable {m : BitVec 256} (hm : m = BitVec.ofNat 256 (leAt b 0x0C 32)) (hbase : m.getLsbD 0 = true)
  (hdef : m &&& ~~~definedCaps = 0)
include hm hbase hdef

/-- A mask that holds BASE and defined capabilities alone passes the checks of its field. -/
theorem enableCaps_mask (htgt : leAt b 8 1 = 0xFF ∨ leAt b 8 1 < 32 ∧ f = 0) : enableCaps s f b =
    checked [(leAt b 8 1 == 0xFF && m &&& ~~~(permittedOf s f) != 0, 0x14, 2)]
      (if leAt b 8 1 = 0xFF then .ok [] (setMbx s f { mbxOf s f with enabled := m }) true
       else .ok [] (setPermitted s (leAt b 8 1) m) true) := by
  have hvf : (leAt b 8 1 < 32 && f ≠ 0) = false := by rcases htgt with h | ⟨h, h'⟩ <;> simp [*]
  have hrange : (leAt b 8 1 ≠ 0xFF && 32 ≤ leAt b 8 1) = false := by rcases htgt with h | ⟨h, h'⟩ <;> simp [*]
  have hmask : (!m.getLsbD 0 || m &&& ~~~definedCaps != 0) = false := by simp [hbase, hdef]
  subst hm
  exact (checked_ok hvf _ _).trans ((checked_ok hrange _ _).trans (checked_ok hmask _ _))

theorem enableCaps_own (h : leAt b 8 1 = 0xFF) (hperm : m &&& ~~~(permittedOf s f) = 0) :
    enableCaps s f b = .ok [] (setMbx s f { mbxOf s f with enabled := m }) true := by
  rw [enableCaps_mask f hm hbase hdef (.inl h), checked_ok (by simp [hperm]), checked_nil, if_pos h]

theorem enableCaps_beyond (h : leAt b 8 1 = 0xFF) (hperm : m &&& ~~~(permittedOf s f) ≠ 0) :
    enableCaps s f b = .fail 0x14 2 := by
  rw [enableCaps_mask f hm hbase hdef (.inl h)]
  exact checked_bad (by simpa [h] using hperm) _ _

theorem enableCaps_target (h : leAt b 8 1 < 32) :
    enableCaps s 0 b = .ok [] (setPermitted s (leAt b 8 1) m) true := by
  have hne : leAt b 8 1 ≠ 0xFF := by omega
  rw [enableCaps_mask 0 hm hbase hdef (.inr ⟨h, rfl⟩), checked_ok (by simp [hne]), checked_nil, if_neg hne]

end

/-- The records of the bits removed change the event log alone. -/
theorem foldl_postP_frame (l : List Nat) (p : Nat) (v : State) :
    l.foldl (fun s n => postP s p 0x0204 2 n 0 0 0) v =
      { v with evt := (l.foldl (fun s n => postP s p 0x0204 2 n 0 0 0) v).evt } := by
  induction l generalizing v with
  | nil => rfl
  | cons n l ih => rw [List.foldl_cons, ih, postP_frame]

/-! ### Operation records -/

/-- The record that an ID names has that ID, and it is not 0. -/
theorem id_of_opById {f i : Nat} {o : Op} (h : opById s f i = some o) : o.id ≠ 0 := by
  have hid := List.find?_some h
  simp only [Bool.and_eq_true, beq_iff_eq, bne_iff_ne] at hid
  obtain ⟨⟨-, rfl⟩, hne⟩ := hid
  exact hne

theorem opStatus_some {o : Op} (h : opById s f (leAt b 8 2) = some o) : opStatus s f b =
    .ok (opRecord o) (if o.st = .running then s else { s with ops := s.ops.filter (fun x => x.key != o.key) }) false := by
  simp only [opStatus, h]

theorem opStatus_none (h : opById s f (leAt b 8 2) = none) : opStatus s f b = .fail 0x18 0 := by
  simp only [opStatus, h]

theorem opCancel_none (h : opById s f (leAt b 8 2) = none) : opCancel s f b = .fail 0x18 0 := by
  simp only [opCancel, h]

section
variable {o : Op} (h : opById s f (leAt b 8 2) = some o)
include h

theorem opCancel_final (hst : o.st ≠ .running) : opCancel s f b = .fail 0x19 2 := by
  simp only [opCancel, h]
  exact if_pos hst

/-- A map-out is never cancelled (R217). -/
theorem opCancel_mapOut (hst : o.st = .running) (hop : o.opcode = 0x601) : opCancel s f b = .fail 0x19 3 := by
  simp only [opCancel, h]
  rw [if_neg (not_not.2 hst), if_pos hop]

theorem opCancel_running (hst : o.st = .running) (hop : o.opcode ≠ 0x601) : opCancel s f b =
    .ok [] (setOp (opLeft s o) { o with
      st := .cancelled, finalMs := 0, finalDetail := 0, land := [], asked := [], ex := [] }) false := by
  simp only [opCancel, h]
  rw [if_neg (not_not.2 hst), if_neg hop]
  simp only [stopOp, finishOp, if_neg (id_of_opById h)]

end

/-- Of the long operations, four leave something on their objects. -/
theorem opLeft_of_not_mem {o : Op} (h : o.opcode ∉ [0x301, 0x308, 0x500, 0x502]) : opLeft s o = s := by
  simp only [List.mem_cons, List.not_mem_nil, or_false, not_or] at h
  obtain ⟨h1, h2, h3, h4⟩ := h
  simp [opLeft, h1, h2, h3, h4]

end

/-! ### What the rows come to -/

section
variable {s : State} {f : Fn} {b : List Byte}

/-- What GET_INTERFACE returns, its last word by the kind of function. -/
theorem getInterface_eq (s : State) (f : Nat) : getInterface s f =
    leBytes 4 ((runningSlot s).oil + 2 ^ 16 * b2n s.fw.recovery + 2 ^ 17 * b2n s.fw.fallback + 2 ^ 18 * s.fw.running) ++
    leBytes 4 (runningSlot s).ver.toNat ++
    leBytes 4 ((runningSlot s).svn + 2 ^ 8 * s.fw.rollback + 2 ^ 16 * (runningSlot s).handover) ++
    leBytes 4 (if f = 0 then 2 ^ 7 else f + 2 ^ 8 * (f - 1)) := by
  by_cases hf : f = 0
  · subst hf; rfl
  · simp [getInterface, runningOil, hf, b2n]

/-- The clause of ENABLE_CAPS of a partition by PF0. -/
theorem enableCaps_pf0 (h : Ready s 0 3 b) {tg : Nat} {m : BitVec 256} (htg : tg = leAt b 8 1)
    (hm : m = BitVec.ofNat 256 (leAt b 0x0C 32)) (hbase : m.getLsbD 0 = true) (hdef : m &&& ~~~definedCaps = 0)
    (hlt : tg < 32) : ∃ t u v, exec (.enableCaps 0) s = .next t ∧ Replied u t 0 0 0 0 [] ∧
      v = setMbx s (tg + 1) { mbxOf s (tg + 1) with permitted := m, enabled := (mbxOf s (tg + 1)).enabled &&& m } ∧
      u = fwCommit { v with evt := u.evt } ∧
      u.evt = (((List.range 256).filter (fun n => (mbxOf s (tg + 1)).permitted.getLsbD n && !m.getLsbD n)).foldl
        (fun s n => postP s tg 0x0204 2 n 0 0 0) v).evt := by
  subst htg
  have hframe : setPermitted s (leAt b 8 1) m = { setMbx s (leAt b 8 1 + 1) { mbxOf s (leAt b 8 1 + 1) with
      permitted := m, enabled := (mbxOf s (leAt b 8 1 + 1)).enabled &&& m } with
      evt := (setPermitted s (leAt b 8 1) m).evt } := foldl_postP_frame ..
  have hlatched : (mbxOf (setPermitted s (leAt b 8 1) m) 0).latched = (mbxOf s 0).latched := by
    rw [hframe]
    exact congrArg Mbx.latched (mbxOf_setMbx_ne s _ (Nat.succ_ne_zero _).symm)
  obtain ⟨t, hexec, hrep⟩ := ok_replied h (sel := fun _ => true) rfl (enableCaps_target hm hbase hdef hlt) hlatched
    (o := exec (.enableCaps 0) s) rfl
  refine ⟨t, _, _, hexec, hrep, rfl, ?_, rfl⟩
  exact congrArg fwCommit hframe

/-- The clause of GET_INTERFACE. -/
theorem getInterface_spec (h : Ready s f.val 1 b) : ∃ t, exec (.getInterface f) s = .next t ∧ ∃ x, x = runningSlot s ∧
    Replied s t f.val 0 0 0
      (leBytes 4 (x.oil + 2 ^ 16 * b2n s.fw.recovery + 2 ^ 17 * b2n s.fw.fallback + 2 ^ 18 * s.fw.running) ++
       leBytes 4 x.ver.toNat ++ leBytes 4 (x.svn + 2 ^ 8 * s.fw.rollback + 2 ^ 16 * x.handover) ++
       leBytes 4 (if f.val = 0 then 2 ^ 7 else f.val + 2 ^ 8 * (f.val - 1))) := by
  obtain ⟨t, hexec, hrep⟩ := ok_replied (u := s) (fw := false) h (sel := fun _ => true) rfl rfl rfl
    (o := exec (.getInterface f) s) rfl
  exact ⟨t, hexec, _, rfl, getInterface_eq s f.val ▸ hrep⟩

/-- The clause of GET_CAPS. -/
theorem getCaps_spec (h : Ready s f.val 2 b) (tg : Nat) (htg : tg = leAt b 8 1) :
    (tg ≠ 0 → f.val = 0 → tg ≤ 32 →
      ∃ t, exec (.getCaps f) s = .next t ∧ Replied s t f.val 0 0 0
        (leBytes 32 0x7FF ++ leBytes 32 (mbxOf s tg).permitted.toNat ++ leBytes 32 (mbxOf s tg).enabled.toNat)) ∧
    (tg = 0 → ∃ t, exec (.getCaps f) s = .next t ∧ Replied s t f.val 0 0 0
        (leBytes 32 0x7FF ++ leBytes 32 (if f.val = 0 then 0x7FF else (mbxOf s f.val).permitted.toNat) ++
         leBytes 32 (mbxOf s f.val).enabled.toNat)) ∧
    (tg ≠ 0 → f.val ≠ 0 → ∃ t, exec (.getCaps f) s = .next t ∧ Replied s t f.val 0x14 1 0 []) := by
  subst htg
  refine ⟨fun hne hf h32 => ?_, fun h0 => ?_, fun hne hf => short_fail rfl h (getCaps_vf hne hf)⟩
  · exact short_ok rfl h (hf ▸ getCaps_target hne h32) rfl
  · have hperm : (permittedOf s f.val).toNat = if f.val = 0 then 0x7FF else (mbxOf s f.val).permitted.toNat :=
      apply_ite BitVec.toNat ..
    rw [← hperm]
    exact short_ok rfl h (getCaps_own f.val h0) rfl

/-- The clause of ENABLE_CAPS. -/
theorem enableCaps_spec (h : Ready s f.val 3 b) (tg : Nat) (m : BitVec 256) (htg : tg = leAt b 8 1)
    (hm : m = BitVec.ofNat 256 (leAt b 0x0C 32)) (hbase : m.getLsbD 0 = true) (hdef : m &&& ~~~0x7FF#256 = 0) :
    (tg = 0xFF → (f.val ≠ 0 → m &&& ~~~(mbxOf s f.val).permitted = 0) →
      ∃ t u, exec (.enableCaps f) s = .next t ∧ Replied u t f.val 0 0 0 [] ∧
        u = fwCommit (setMbx s f.val { mbxOf s f.val with enabled := m })) ∧
    (tg = 0xFF → f.val ≠ 0 → m &&& ~~~(mbxOf s f.val).permitted ≠ 0 →
      ∃ t, exec (.enableCaps f) s = .next t ∧ Replied s t f.val 0x14 2 0 []) ∧
    (tg < 32 → f.val ≠ 0 → ∃ t, exec (.enableCaps f) s = .next t ∧ Replied s t f.val 0x14 1 0 []) ∧
    (tg < 32 → f.val = 0 → ∃ t u v, exec (.enableCaps f) s = .next t ∧ Replied u t 0 0 0 0 [] ∧
      v = setMbx s (tg + 1) { mbxOf s (tg + 1) with permitted := m, enabled := (mbxOf s (tg + 1)).enabled &&& m } ∧
      u = fwCommit { v with evt := u.evt } ∧
      u.evt = (((List.range 256).filter (fun n => (mbxOf s (tg + 1)).permitted.getLsbD n && !m.getLsbD n)).foldl
        (fun s n => postP s tg 0x0204 2 n 0 0 0) v).evt) := by
  refine ⟨fun h255 hperm => ?_, fun h255 hf hperm => ?_, fun hlt hf => ?_, fun hlt hf => ?_⟩
  · have hin : m &&& ~~~(permittedOf s f.val) = 0 := by
      by_cases hf : f.val = 0
      · rw [permittedOf, if_pos hf]; exact hdef
      · rw [permittedOf, if_neg hf]; exact hperm hf
    obtain ⟨t, hexec, hrep⟩ := ok_replied h (sel := fun _ => true) rfl
      (enableCaps_own f.val hm hbase hdef (htg ▸ h255) hin) (by rw [mbxOf_setMbx_self])
      (o := exec (.enableCaps f) s) rfl
    exact ⟨t, _, hexec, hrep, rfl⟩
  · refine short_fail rfl h (enableCaps_beyond f.val hm hbase hdef (htg ▸ h255) ?_)
    rwa [permittedOf, if_neg hf]
  · exact short_fail rfl h (enableCaps_vf (htg ▸ hlt) hf)
  · obtain rfl : f = 0 := Fin.ext hf
    exact enableCaps_pf0 h htg hm hbase hdef hlt

/-- The clause of GET_COMMAND_INFO. -/
theorem getCommandInfo_spec (h : Ready s f.val 4 b) : ∃ t, exec (.getCommandInfo f) s = .next t ∧
    (∀ c, cmdOf (leAt b 8 2) = some c → Replied s t f.val 0 0 0
      (leBytes 4 (1 + 4 * b2n c.long + 8 * b2n c.query) ++ leBytes 4 0x0100 ++ leBytes 8 0)) ∧
    (cmdOf (leAt b 8 2) = none → Replied s t f.val 0 0 0 (List.replicate 16 0)) := by
  have hexec : exec (.getCommandInfo f) s =
      .next (runShort s f.val 4 (fun s _ b => .ok (commandInfo b) s false)) := rfl
  obtain ⟨t, hexec, hrep⟩ := short_ok hexec h rfl rfl
  refine ⟨t, hexec, fun c hc => ?_, fun hc => ?_⟩
  · simp only [commandInfo, hc] at hrep; exact hrep
  · simp only [commandInfo, hc] at hrep; exact hrep

/-- A response holds every limit. -/
theorem getLimits_eq (s : State) (f : Nat) (b : List Byte) {l : List (Nat × Nat)}
    (hl : l = (limitsOf s f).filter (fun e => leAt b 8 2 ≤ e.1)) : getLimits s f b =
    leBytes 4 l.length ++ leBytes 4 0 ++ leBytes 8 0 ++ l.flatMap (fun e => leBytes 2 e.1 ++ leBytes 6 0 ++ leBytes 8 e.2) := by
  have hlen : l.length ≤ 126 := by
    have hall : (limitsOf s f).length = 14 := rfl
    have := List.length_filter_le (fun e => decide (leAt b 8 2 ≤ e.1)) (limitsOf s f)
    rw [hl]
    omega
  rw [getLimits, ← hl, List.take_of_length_le hlen]

/-- The clause of OP_STATUS. -/
theorem opStatus_spec (h : Ready s f.val 0x100 b) :
    (∀ o, opById s f.val (leAt b 8 2) = some o → ∃ t u, exec (.opStatus f) s = .next t ∧
      Replied u t f.val 0 0 0 (leBytes 2 o.id ++ leBytes 2 o.opcode ++
        leBytes 4 (o.st.num + 2 ^ 8 * o.finalMs + 2 ^ 16 * o.finalDetail) ++ leBytes 8 o.unitsDone ++ leBytes 8 o.unitsTotal) ∧
      (o.st = .running → u = s) ∧ (o.st ≠ .running → u = { s with ops := s.ops.filter (fun x => x.key != o.key) })) ∧
    (opById s f.val (leAt b 8 2) = none → ∃ t, exec (.opStatus f) s = .next t ∧ Replied s t f.val 0x18 0 0 []) := by
  refine ⟨fun o ho => ?_, fun ho => short_fail rfl h (opStatus_none f.val ho)⟩
  obtain ⟨t, hexec, hrep⟩ := short_ok (o := exec (.opStatus f) s) rfl h (opStatus_some f.val ho)
    (by split <;> rfl)
  exact ⟨t, _, hexec, hrep, fun hst => if_pos hst, fun hst => if_neg hst⟩

/-- The clause of OP_CANCEL. -/
theorem opCancel_spec (h : Ready s f.val 0x101 b) :
    (opById s f.val (leAt b 8 2) = none → ∃ t, exec (.opCancel f) s = .next t ∧ Replied s t f.val 0x18 0 0 []) ∧
    (∀ o, opById s f.val (leAt b 8 2) = some o →
      (o.st ≠ .running → ∃ t, exec (.opCancel f) s = .next t ∧ Replied s t f.val 0x19 2 0 []) ∧
      (o.st = .running → o.opcode = 0x601 → ∃ t, exec (.opCancel f) s = .next t ∧ Replied s t f.val 0x19 3 0 []) ∧
      (o.st = .running → o.opcode ≠ 0x601 → ∃ t u, exec (.opCancel f) s = .next t ∧ Replied u t f.val 0 0 0 [] ∧
        u = setOp (opLeft s o) { o with
              st := .cancelled, finalMs := 0, finalDetail := 0, land := [], asked := [], ex := [] } ∧
        (o.opcode ∉ [0x301, 0x308, 0x500, 0x502] → opLeft s o = s))) := by
  refine ⟨fun ho => short_fail rfl h (opCancel_none f.val ho), fun o ho => ⟨fun hst => ?_, fun hst hop => ?_,
    fun hst hop => ?_⟩⟩
  · exact short_fail rfl h (opCancel_final f.val ho hst)
  · exact short_fail rfl h (opCancel_mapOut f.val ho hst hop)
  · obtain ⟨t, hexec, hrep⟩ := short_ok (o := exec (.opCancel f) s) rfl h (opCancel_running f.val ho hst hop)
      (opLeft_mbx s o)
    exact ⟨t, _, hexec, hrep, rfl, opLeft_of_not_mem⟩

end

/-- Settles O37: each command comes to an answer with its results and its effect, or to that of the check that fails. -/
theorem discoveryCommands : Obligations.DiscoveryCommands := by
  intro s f b
  refine ⟨getInterface_spec, getCaps_spec, enableCaps_spec, getCommandInfo_spec, fun h l hl => ?_, opStatus_spec,
    opCancel_spec⟩
  have hexec : exec (.getLimits f) s =
      .next (runShort s f.val 5 (fun s f b => .ok (getLimits s f b) s false)) := rfl
  rw [← getLimits_eq s f.val b hl]
  exact short_ok hexec h rfl rfl

end Sys2Proof.Machine
end

section
/-! Concrete inputs that meet the hypotheses of O6, O12, O14 to O17, O26 and O37, with what the statements then say of
them. -/

namespace Sys2Proof.Machine

/-- A device with one stream, in slot 0 of PF0. -/
def withStream (x : Stream) : State :=
  { State.reset with streams := put State.reset.streams 0 { x with slot := some (0, 0) } }

/-- A ring of 16 that is full takes its tail; one more is refused. -/
theorem strTailWrite_full : ∃ t, exec (.strTailWrite 0 0 16) (withStream Stream.idle) = .next t ∧ (stream t 0).tail = 16 := by
  obtain ⟨-, hwithin, -⟩ := tailWriteChecked (withStream Stream.idle) 0 0 16 0 (by constructor <;> decide +kernel)
    (by decide +kernel)
  obtain ⟨t, hexec, hself, -⟩ := hwithin (by decide +kernel) (by decide +kernel)
  exact ⟨t, hexec, by rw [hself]⟩

theorem strTailWrite_overfull : ∃ t, exec (.strTailWrite 0 0 17) (withStream Stream.idle) = .next t ∧
    (stream t 0).tail = 0 ∧ (stream t 0).tailInvalid = true := by
  obtain ⟨-, -, hbeyond⟩ := tailWriteChecked (withStream Stream.idle) 0 0 17 0 (by constructor <;> decide +kernel)
    (by decide +kernel)
  obtain ⟨t, hexec, hself, -⟩ := hbeyond (by decide +kernel) (by decide +kernel)
  exact ⟨t, hexec, by rw [hself]; rfl, by rw [hself]⟩

/-- A read of one byte gets all ones, and the first such is recorded. -/
theorem barAccessRefused_byte : ∃ t, exec (.barAccessRefused 0 false false 4 1) State.reset = .next t ∧
    t.hif.bus = [.value 0 false 4 0xFFFFFFFF#32] ∧ t.evt.seq = 1 := by
  obtain ⟨hrefused, -⟩ := refusedAndStalledAccesses State.reset 0 false 4
  obtain ⟨t, hexec, -, hbus, hfirst, -⟩ := hrefused false 1 (by decide +kernel) (by decide)
  refine ⟨t, hexec, hbus rfl, ?_⟩
  rw [(hfirst nofun).1]
  exact postOne_seq ..

/-- A request that PF0's FLR meets is accepted no more. -/
theorem flr_pf0Asked (l : List Byte) : ∃ t, exec (.flr 0) (pf0Asked l) = .next t ∧ (mbxOf t 0).latched = none := by
  obtain ⟨hflr, -⟩ := functionResetLeavesResetValues
  obtain ⟨t, hexec, ⟨m, hmbx⟩, -⟩ := hflr (pf0Asked l) 0 rfl rfl rfl rfl
  exact ⟨t, hexec, congrArg Mbx.latched hmbx⟩

/-- PF0 enters D3hot, and admits nothing. -/
theorem d3hotEntry_reset : ∃ t, exec (.d3hotEntry 0) State.reset = .next t ∧ admitOpen t 0 = false := by
  obtain ⟨-, ⟨t, hexec, -, -, hclosed, -⟩, -⟩ := functionStatesAndTranslations State.reset 0 rfl
  exact ⟨t, hexec, hclosed⟩

/-- A stream whose 18th task of a ring of 16 is in flight. -/
def inFlight (asked : List Nat) (done : Option Rec) : State := withStream { Stream.idle with
  tail := 18, head := 18, cpl := 17
  task := some { TaskRun.start 17 (List.replicate 64 0) 0 none with asked := asked, done := done } }

/-- Its record goes to place 1 of the ring, in the second round. -/
theorem completionRecord_inFlight : ∃ u b, exec (.completionRecord 0) (inFlight [] (some (Rec.ok 1 2 3))) = .next u ∧
    u.hif.writes = [⟨0, 32, b⟩] ∧ b[31]?.map (fun x => x.getLsbD 7) = some false ∧ (stream u 0).cpl = 18 := by
  obtain ⟨hended, -⟩ := recordWrittenOnce (inFlight [] (some (Rec.ok 1 2 3))) 0 rfl
  obtain ⟨u, hexec, hwrites, -, hphase, -, hcpl, -⟩ := hended 0 0 16 0 _ _ (by decide +kernel) rfl rfl rfl
    (by decide +kernel) (by decide +kernel)
  exact ⟨u, _, hexec, hwrites, hphase, hcpl⟩

/-- A PCIe completion timeout of the read of 8 bytes at 4,096 ends the task. -/
theorem hostCompletionTimeout_inFlight : ∃ u r, exec (.hostCompletionTimeout 0) (inFlight [landKey 4096 8] none) = .next u ∧
    Ended u 0 r ∧ r.status = 0x15 ∧ r.detail = 3 := by
  obtain ⟨htask, -⟩ := hostStalls
  obtain ⟨htimeout, -⟩ := htask (inFlight [landKey 4096 8] none) 0 _ rfl rfl rfl
  obtain ⟨u, r, hexec, hended, hstatus, hdetail, -⟩ := htimeout _ (.inr ⟨rfl, by decide⟩)
  exact ⟨u, r, hexec, hended, hstatus, hdetail⟩

/-- A stream with ENABLE set, ten descriptors ahead of its head at place 10 of a ring of 16. -/
def tenAhead : State :=
  setEffective (withStream { Stream.idle with tail := 20, head := 10 }) (slotKey 0 0 0x08) 1

/-- The fetcher asks for those up to the end of the ring, at most. -/
theorem descriptorFetch_tenAhead : ∃ t m, exec (.descriptorFetch 0) tenAhead = .next t ∧
    (stream t 0).fetchAsked = some (640, 64 * m) ∧ 1 ≤ m ∧ m ≤ 6 := by
  obtain ⟨hfetch, -⟩ := fetcherReadsAhead tenAhead 0 0 0 16 640 rfl rfl (by decide +kernel) (by decide +kernel)
  obtain ⟨t, m, hexec, hasked, hone, -, -, hring, -⟩ := hfetch (by decide +kernel) (by decide +kernel)
    (by decide +kernel) (by decide +kernel) (by decide +kernel) rfl rfl rfl
  have hhead : (stream tenAhead 0).head.toNat % 16 = 10 := by decide +kernel
  exact ⟨t, m, hexec, hasked, hone, by rw [show ((0 : SId).val) = 0 from rfl, hhead] at hring; omega⟩

/-- GET_CAPS of function 3. -/
def capsReq : List Byte := [0x02, 0, 0, 0, 0x0C, 0, 0, 0, 3, 0, 0, 0]

theorem capsReq_ready : Ready (pf0Asked capsReq) 0 2 (reqBytes (pf0Req capsReq)) := by
  refine ⟨pf0Req capsReq, ⟨?_, ?_, ?_, ?_, ?_⟩, ?_, ?_, ?_⟩ <;> decide +kernel

/-- A VF to which nothing more was permitted has BASE. -/
theorem getCaps_vf3 : ∃ t, exec (.getCaps 0) (pf0Asked capsReq) = .next t ∧
    Replied (pf0Asked capsReq) t 0 0 0 0 (leBytes 32 0x7FF ++ leBytes 32 1 ++ leBytes 32 1) := by
  obtain ⟨-, hcaps, -⟩ := discoveryCommands (pf0Asked capsReq) 0 (reqBytes (pf0Req capsReq))
  exact (hcaps capsReq_ready 3 (by decide +kernel)).1 (by decide) rfl (by decide)

end Sys2Proof.Machine
end

section
/-! What the rows of long commands come to (R110, R114, R560), beside the lemmas about every mailbox row. -/

namespace Sys2Proof.Machine

/-- Range checks that all pass name no field. -/
theorem firstFail_eq_none {l : List (Nat × Bool)} (h : ∀ e ∈ l, e.2 = false) : firstFail l = none := by
  have hnone : l.filter (·.2) = [] := List.filter_eq_nil_iff.2 fun e he => by simp [h e he]
  rw [firstFail, hnone]
  rfl

theorem rangeBad_of_pass {l : List (Nat × Bool)} (h : ∀ e ∈ l, e.2 = false) : (rangeBad l).1 = false :=
  rangeBad_ok (firstFail_eq_none h)

section
variable {s t : State} {f op total : Nat} {b res : List Byte} {acc : List Nat} {o : Op}

/-- A request whose object a RUNNING operation holds is answered MS_CONFLICT 1 with the holder (R114). -/
theorem held_replied (h : Ready s f op b) {sel other body go} (hs : sel b = true) (hb : body s f b = .held o)
    {e : Host.Outcome State Fault Refusal} (he : e = .next (runCmd s f op sel other body go)) :
    ∃ t, e = .next t ∧ Replied s t f 0x19 1 (holderWord f o) [] := by
  obtain ⟨r, hr⟩ := ready_latched h
  refine ⟨_, he, ?_⟩
  rw [run_held h hs hb]
  exact replied_answer _ _ _ _ hr

/-- The start of an operation adds its record, and beside the answer changes nothing else. -/
theorem started_frame (h : Started s t f op total b acc res o) :
    t = { s with ops := s.ops ++ [o], opNext := s.opNext + 1, freeCtr := s.freeCtr + 1, mbx := t.mbx } := by
  obtain ⟨-, -, -, -, -, -, -, -, -, -, -, u, hops, hu, r, m, -, -, -, -, ht⟩ := h
  rw [ht, hu, hops]

theorem started_req (h : Started s t f op total b acc res o) : o.req = b := by
  obtain ⟨-, -, -, -, -, -, hreq, -⟩ := h
  exact hreq

/-- An operation that ends at once stands in the records with its final state. -/
theorem mem_ops_finishOp (hmem : o ∈ s.ops) (hid : o.id ≠ 0) {k n : Nat} (hk : k = n) (st : OpSt) (ms d : Nat) :
    { o with unitsDone := n, st := st, finalMs := ms, finalDetail := d, land := [], asked := [], ex := [] } ∈
      (finishOp s { o with unitsDone := k } st ms d).ops := by
  subst hk
  simp only [finishOp, if_neg hid, setOp]
  exact List.mem_map.2 ⟨o, hmem, by simp⟩

/-- The record of an operation that ends with k units done. -/
theorem opOf_finished (hrec : opOf s o.key = some o) (hid : o.id ≠ 0) (k : Nat) (st : OpSt) (ms d : Nat) :
    opOf (finishOp s { o with unitsDone := k } st ms d) o.key = some { o with
      unitsDone := k, st := st, finalMs := ms, finalDetail := d, land := [], asked := [], ex := [] } :=
  opOf_finishOp (o := { o with unitsDone := k }) hrec hid st ms d

end

/-! ### Views of the records, mailboxes and partitions -/

theorem mbxOf_of_mbx {s t : State} (h : t.mbx = s.mbx) (f : Nat) : mbxOf t f = mbxOf s f := by rw [mbxOf, h]; rfl

section
variable {s t : State} (h : opsd t = opsd s)
include h

theorem ops_of_opsd : t.ops = s.ops := congrArg Opsd.ops h

theorem mbx_of_opsd : t.mbx = s.mbx := congrArg Opsd.mbx h

theorem opOf_of_opsd (k : Nat) : opOf t k = opOf s k := by rw [opOf, ops_of_opsd h]; rfl

theorem mbxOf_of_opsd (f : Nat) : mbxOf t f = mbxOf s f := mbxOf_of_mbx (mbx_of_opsd h) f

theorem part_of_opsd (p : Nat) : part t p = part s p := by
  rw [part, show t.parts = s.parts from congrArg Opsd.parts h]; rfl

/-- The same update of both keeps them the same. -/
theorem opsd_setPart_congr (p : Nat) (x : Part) : opsd (setPart t p x) = opsd (setPart s p x) :=
  congrArg (fun d : Opsd => { d with parts := put d.parts p x }) h

theorem opsd_setMbx_congr (f : Nat) (m : Mbx) : opsd (setMbx t f m) = opsd (setMbx s f m) :=
  congrArg (fun d : Opsd => { d with mbx := put d.mbx f m }) h

end

end Sys2Proof.Machine
end

section
/-! O40: PARTITION_WIPE and PARTITION_DESTROY (R187, R188, Table 6.2). -/

namespace Sys2Proof.Machine

/-! ### The start -/

section
variable {s : State} {f : Nat} {b : List Byte}

/-- Where no RUNNING operation is selected, none is stopped. -/
theorem stopOps_eq_self {st : OpSt} {sel : Op → Bool} (h : ∀ o ∈ s.ops, o.st = .running → sel o = false) :
    stopOps s st sel = s := by
  have hnone : s.ops.filter (fun o => o.st == .running && sel o) = [] :=
    List.filter_eq_nil_iff.2 fun o ho => by
      by_cases hrun : o.st = .running
      · simp [h o ho hrun]
      · simp [hrun]
  simp only [stopOps, hnone, List.map_nil, List.foldl_nil]

/-- The checks of both commands: the partition's number, and that it is ACTIVE. -/
theorem wipeStart_inactive (hp : leAt b 8 1 < 32) (hst : (part s (leAt b 8 1)).st ≠ .active) :
    wipeStart s f b = .fail 0x19 3 :=
  (checked_ok (rangeBad_of_pass (by simp [hp])) _ _).trans (checked_bad (by simpa using hst) _ _)

/-- The partition in the state st, with its admission stopped. -/
def wiping (s : State) (p : Nat) (st : PartSt) : State := hold (setPart s p { part s p with st := st }) [p + 1]

theorem opsd_wiping (s : State) (p : Nat) (st : PartSt) :
    opsd (wiping s p st) = opsd (setPart s p { part s p with st := st }) := rfl

/-- With no RUNNING operation on its objects to cancel, an ACTIVE partition goes to its new state. -/
theorem wipeStart_active (hp : leAt b 8 1 < 32) (hst : (part s (leAt b 8 1)).st = .active)
    (hfree : ∀ o ∈ s.ops, o.st = .running → o.id ≠ 0 → opPart o ≠ leAt b 8 1) :
    wipeStart s f b = .start (part s (leAt b 8 1)).q.memPages []
      (wiping s (leAt b 8 1) (if reqOp b == 0x205 then .destroying else .wiping)) := by
  have hstop : stopOps s .cancelled (fun o => o.id != 0 && opPart o == leAt b 8 1) = s :=
    stopOps_eq_self fun o ho hrun => by
      by_cases hid : o.id = 0
      · simp [hid]
      · simp [hfree o ho hrun hid]
  refine (checked_ok (rangeBad_of_pass (by simp [hp])) _ _).trans
    ((checked_ok (by simp [hst]) _ _).trans ?_)
  rw [checked_nil, hstop]
  rfl

end

/-! ### The end -/

section
variable {s : State} {o : Op} {p : Nat}

/-- Steps 4 to 8 of Table 6.2: the locks, the queues and the objects go, every page is zeroed, and GENERATION rises. -/
def wiped (s : State) (p : Nat) (destroy : Bool) : State :=
  postWiped (zeroPages (destroyObjects (resetQueues (abandonFn s (p + 1)).2 p) p) p) p destroy

/-- Of the records, mailboxes and partitions, those steps change the GENERATION. -/
theorem opsd_wiped (s : State) (p : Nat) (destroy : Bool) :
    opsd (wiped s p destroy) = opsd (setPart s p { part s p with gen := ((part s p).gen + 1) % 2 ^ 32 }) := by
  have hkept : opsd (zeroPages (destroyObjects (resetQueues (abandonFn s (p + 1)).2 p) p) p) = opsd s := by
    rw [opsd_zeroPages, opsd_destroyObjects, opsd_resetQueues, opsd_abandonFn]
  unfold wiped postWiped
  rw [opsd_postG, opsd_postP, part_of_opsd hkept]
  exact opsd_setPart_congr hkept ..

/-- The end of a destroy, on a partition of any state. -/
theorem opsd_destroyEnd (s : State) (p : Nat) : opsd (destroyEnd s p) =
    opsd (setPart (capsToBase s (p + 1)) p ⟨.absent, Quota.none, (part s p).gen⟩) := by
  have hkept : opsd ((fnStreams s (p + 1)).foldl unassignIn s) = opsd s := opsd_foldl _ opsd_unassignIn _ _
  have hcaps : opsd (capsToBase (resetRegion ((fnStreams s (p + 1)).foldl unassignIn s) (p + 1)) (p + 1)) =
      opsd (capsToBase s (p + 1)) := by
    have hreset := (opsd_resetRegion ((fnStreams s (p + 1)).foldl unassignIn s) (p + 1)).trans hkept
    rw [capsToBase, mbxOf_of_opsd hreset]
    exact opsd_setMbx_congr hreset ..
  have hend : opsd (destroyEnd s p) = opsd (setPart (capsToBase (resetRegion ((fnStreams s (p + 1)).foldl unassignIn s)
      (p + 1)) (p + 1)) p ⟨.absent, Quota.none,
        (part (capsToBase (resetRegion ((fnStreams s (p + 1)).foldl unassignIn s) (p + 1)) (p + 1)) p).gen⟩) := rfl
  rw [hend, part_of_opsd hcaps, opsd_setPart_congr hcaps]
  rfl

/-- A task of the partition in flight holds the operation up (Table 6.2, step 3). -/
theorem wipeGo_waits (h : ∃ i ∈ fnStreams s (leAt o.req 8 1 + 1), (stream s i).task.isSome = true) : wipeGo s o = s :=
  if_pos (by simp only [List.any_eq_true.2 h, Bool.true_or])

section
variable (htask : ∀ i ∈ fnStreams s (leAt o.req 8 1 + 1), (stream s i).task = none)
  (hshort : shortRuns s (leAt o.req 8 1 + 1) = false) (hruns : runs s 1 = true)
include htask hshort hruns

/-- Where nothing of the partition is in flight, the operation runs to its end. -/
theorem wipeGo_runs {destroy : Bool} (hop : (o.opcode == 0x205) = destroy) : wipeGo s o =
    finishOp (fwCommit (if destroy = true then destroyEnd (wiped s (leAt o.req 8 1) destroy) (leAt o.req 8 1)
      else wiping (wiped s (leAt o.req 8 1) destroy) (leAt o.req 8 1) .active))
      { o with unitsDone := o.unitsTotal } .done 0 0 := by
  have hidle : (fnStreams s (leAt o.req 8 1 + 1)).any (fun i => (stream s i).task.isSome) = false :=
    List.any_eq_false.2 fun i hi => by simp [htask i hi]
  unfold wipeGo
  dsimp only
  rw [if_neg (by simp [hidle, hshort, hruns]), hop]
  rfl

theorem wipeGo_wipe (hop : o.opcode = 0x204) : wipeGo s o =
    finishOp (fwCommit (wiping (wiped s (leAt o.req 8 1) false) (leAt o.req 8 1) .active))
      { o with unitsDone := o.unitsTotal } .done 0 0 :=
  (wipeGo_runs htask hshort hruns (destroy := false) (by simp [hop])).trans (by rw [if_neg Bool.false_ne_true])

theorem wipeGo_destroy (hop : o.opcode = 0x205) : wipeGo s o =
    finishOp (fwCommit (destroyEnd (wiped s (leAt o.req 8 1) true) (leAt o.req 8 1)))
      { o with unitsDone := o.unitsTotal } .done 0 0 :=
  (wipeGo_runs htask hshort hruns (destroy := true) (by simp [hop])).trans (by rw [if_pos rfl])

end

/-- Beside its own record, the end of the operation leaves the records, the mailboxes and the partitions as its work did. -/
theorem opsd_finish {u v t : State} (hv : opsd v = opsd u) (hops : u.ops = s.ops) (hid : o.id ≠ 0)
    (ho : opOf s o.key = some o)
    (ht : t = finishOp (fwCommit v) { o with unitsDone := o.unitsTotal } .done 0 0) :
    opOf t o.key = some { o with
      unitsDone := o.unitsTotal, st := .done, finalMs := 0, finalDetail := 0, land := [], asked := [], ex := [] } ∧
    (∀ r, part t r = part u r) ∧ t.mbx = u.mbx := by
  have hrec : opOf (fwCommit v) o.key = some o := by
    rw [← ho]; exact (opOf_of_opsd hv o.key).trans (by rw [opOf, hops]; rfl)
  rw [ht]
  refine ⟨opOf_finished hrec hid .., fun r => ?_, ?_⟩
  · rw [finishOp_frame]; exact part_of_opsd hv r
  · rw [finishOp_frame]; exact mbx_of_opsd (t := v) hv

end

/-! ### The clauses -/

section
variable {s : State}

/-- The two rows, with their opcode and the state they put the partition in. -/
def WipeRow (c : Instr) (op : Nat) (st : PartSt) : Prop :=
  c = .partitionWipe 0 ∧ op = 0x204 ∧ st = .wiping ∨ c = .partitionDestroy 0 ∧ op = 0x205 ∧ st = .destroying

/-- A row of PARTITION_WIPE or PARTITION_DESTROY is one run of their shared body. -/
theorem exec_wipeRow {c : Instr} {op : Nat} {st : PartSt} (hc : WipeRow c op st) :
    exec c s = .next (runCmd s 0 op (fun _ => true) false wipeStart wipeGo) ∧
      (if op == 0x205 then .destroying else .wiping) = st := by
  obtain ⟨rfl, rfl, rfl⟩ | ⟨rfl, rfl, rfl⟩ := hc
  · exact ⟨rfl, rfl⟩
  · exact ⟨rfl, rfl⟩

/-- The clause of the start. -/
theorem wipe_starts {c : Instr} {op : Nat} {st : PartSt} {b : List Byte} (hc : WipeRow c op st)
    (h : Ready s 0 op b) (hp : leAt b 8 1 < 32) (hst : (part s (leAt b 8 1)).st = .active) (hheld : opsHeld s 0 < 16)
    (hfree : ∀ o ∈ s.ops, o.st = .running → o.id ≠ 0 → opPart o ≠ leAt b 8 1)
    (hbusy : ∃ i ∈ fnStreams s (leAt b 8 1 + 1), (stream s i).task.isSome = true) :
    ∃ t o, exec c s = .next t ∧
      Started (wiping s (leAt b 8 1) st) t 0 op (part s (leAt b 8 1)).q.memPages b [] [] o := by
  obtain ⟨hexec, hto⟩ := exec_wipeRow (s := s) hc
  have hbody := wipeStart_active (f := 0) hp hst hfree
  rw [ready_op h, hto] at hbody
  obtain ⟨t, o, u, ht, rfl, hstarted⟩ :=
    start_run (sel := fun _ => true) h rfl hbody rfl hheld hheld hexec
  have hwait : ∃ i ∈ fnStreams u (leAt o.req 8 1 + 1), (stream u i).task.isSome = true := by
    rw [started_frame hstarted, started_req hstarted]
    exact hbusy
  rw [wipeGo_waits hwait] at ht
  exact ⟨u, o, ht, hstarted⟩

/-- A RUNNING operation goes on by one run of the shared body. -/
theorem exec_wipe_works {o : Op} (h : Works s 0 0x204 o) : exec (.partitionWipe 0) s = .next (wipeGo s o) :=
  congrArg Host.Outcome.next (works_run h (sel := fun _ => true) rfl)

theorem exec_destroy_works {o : Op} (h : Works s 0 0x205 o) : exec (.partitionDestroy 0) s = .next (wipeGo s o) :=
  congrArg Host.Outcome.next (works_run h (sel := fun _ => true) rfl)

variable {o : Op} {p : Nat} (hid : o.id ≠ 0) (hp : p = leAt o.req 8 1)
  (htask : ∀ i ∈ fnStreams s (p + 1), (stream s i).task = none) (hshort : shortRuns s (p + 1) = false)
  (hruns : runs s 1 = true)
include hid hp htask hshort hruns

/-- The clause of a wipe's end. -/
theorem wipe_ends (h : Works s 0 0x204 o) : ∃ t, exec (.partitionWipe 0) s = .next t ∧
    opOf t o.key = some { o with
      unitsDone := o.unitsTotal, st := .done, finalMs := 0, finalDetail := 0, land := [], asked := [], ex := [] } ∧
    part t p = { part s p with gen := ((part s p).gen + 1) % 2 ^ 32, st := .active } ∧
    (∀ r, r ≠ p → part t r = part s r) ∧ t.mbx = s.mbx := by
  have hexec := exec_wipe_works h
  obtain ⟨-, -, -, hrec, -, hop, -⟩ := h
  rw [hp] at htask hshort
  rw [wipeGo_wipe htask hshort hruns hop, ← hp] at hexec
  have hw := opsd_wiped s p false
  generalize wiped s p false = w at hexec hw
  obtain ⟨hfin, hpart, hmbx⟩ :=
    opsd_finish ((opsd_wiping w p .active).trans (opsd_setPart_congr hw ..)) rfl hid hrec rfl
  refine ⟨_, hexec, hfin, ?_, fun r hr => ?_, hmbx⟩
  · rw [hpart, part_setPart_self, part_of_opsd hw, part_setPart_self]
  · rw [hpart, part_setPart_ne _ _ hr, part_setPart_ne _ _ hr]

/-- The clause of a destroy's end. -/
theorem destroy_ends (h : Works s 0 0x205 o) : ∃ t, exec (.partitionDestroy 0) s = .next t ∧
    opOf t o.key = some { o with
      unitsDone := o.unitsTotal, st := .done, finalMs := 0, finalDetail := 0, land := [], asked := [], ex := [] } ∧
    part t p = ⟨.absent, Quota.none, ((part s p).gen + 1) % 2 ^ 32⟩ ∧ (∀ r, r ≠ p → part t r = part s r) ∧
    (mbxOf t (p + 1)).permitted = 1 ∧ (mbxOf t (p + 1)).enabled = 1 ∧ (∀ g, g ≠ p + 1 → mbxOf t g = mbxOf s g) := by
  have hexec := exec_destroy_works h
  obtain ⟨-, -, -, hrec, -, hop, -⟩ := h
  rw [hp] at htask hshort
  rw [wipeGo_destroy htask hshort hruns hop, ← hp] at hexec
  have hw := opsd_wiped s p true
  generalize wiped s p true = w at hexec hw
  obtain ⟨hfin, hpart, hmbx⟩ := opsd_finish (opsd_destroyEnd w p) (ops_of_opsd (t := w) hw) hid hrec rfl
  refine ⟨_, hexec, hfin, ?_, fun r hr => ?_, ?_, ?_, fun g hg => ?_⟩
  · rw [hpart, part_setPart_self, part_of_opsd hw, part_setPart_self]
  · rw [hpart, part_setPart_ne _ _ hr]
    exact (part_of_opsd hw r).trans (part_setPart_ne _ _ hr)
  · rw [mbxOf_of_mbx hmbx]; exact congrArg Mbx.permitted (mbxOf_setMbx_self ..)
  · rw [mbxOf_of_mbx hmbx]; exact congrArg Mbx.enabled (mbxOf_setMbx_self ..)
  · rw [mbxOf_of_mbx hmbx]; exact (mbxOf_setMbx_ne _ _ hg).trans (mbxOf_of_opsd hw g)

end

/-- Settles O40: the shared body starts with the partition's new state and its admission stopped, waits for the tasks in
flight, and of the records, mailboxes and partitions its end changes what the statement names. -/
theorem partitionWipeAndDestroy : Obligations.PartitionWipeAndDestroy := by
  intro s f hf
  obtain rfl : f = 0 := Fin.ext hf
  refine ⟨?_, fun o p hid hp htask hshort hruns =>
    ⟨wipe_ends hid hp htask hshort hruns, destroy_ends hid hp htask hshort hruns⟩⟩
  rintro b p op st c hc h rfl hp
  refine ⟨fun hst hheld hfree hbusy => ?_, fun hst => ?_⟩
  · obtain ⟨t, o, hexec, hstarted⟩ := wipe_starts hc h hp hst hheld hfree hbusy
    exact ⟨t, o, _, hexec, hstarted, part_setPart_self .., fun r hr => part_setPart_ne _ _ hr, lkD_put_self .., rfl⟩
  · exact fail_replied (sel := fun _ => true) h rfl (wipeStart_inactive hp hst) (exec_wipeRow hc).1

end Sys2Proof.Machine
end

section
/-! What the table commands share: the table a command names (R109, R114, R178), the pages it gives
back (R177) and the bindings that go (R179). -/

namespace Sys2Proof.Machine

theorem b2n_le_one (b : Bool) : b2n b ≤ 1 := by cases b <;> decide

/-! ### The table a command names -/

section
variable {s : State} {f h : Nat} {t : Table} {k : Table → MOut}

theorem withTable_unreached (hr : reachTable s f h = none) : withTable s f h k = .fail 0x18 0 := by
  simp only [withTable, hr]

theorem withTable_foreign (hr : reachTable s f h = some t) (hf : foreign f t = true) : withTable s f h k = .fail 0x14 1 := by
  simp only [withTable, hr, if_pos hf]

theorem withTable_held (hr : reachTable s f h = some t) (hf : foreign f t = false) {o : Op} (ho : tableHolder s h = some o) :
    withTable s f h k = .held o := by
  simp only [withTable, hr, hf, Bool.false_eq_true, if_false, ho]

theorem withTable_go (hr : reachTable s f h = some t) (hf : foreign f t = false) (ho : tableHolder s h = none) :
    withTable s f h k = k t := by
  simp only [withTable, hr, hf, Bool.false_eq_true, if_false, ho]

end

/-! ### Pages and bindings -/

section
variable (s : State)

/-- A page that awaits zeroing does so whatever else is released. -/
theorem lk_releasePages_of_listed {owner p : Nat} (l : List Nat) {s : State} (h : lk s.pages p = some (.zeroing owner)) :
    lk (releasePages s owner l).pages p = some (.zeroing owner) := by
  induction l generalizing s with
  | nil => exact h
  | cons q l ih =>
    refine ih ?_
    by_cases hq : p = q
    · subst hq; exact lk_put_self ..
    · exact (lk_put_ne _ _ hq).trans h

/-- A released page awaits zeroing for its owner (R177). -/
theorem lk_releasePages (owner : Nat) {p : Nat} {l : List Nat} (h : p ∈ l) :
    lk (releasePages s owner l).pages p = some (.zeroing owner) := by
  induction l generalizing s with
  | nil => cases h
  | cons q l ih =>
    rcases List.mem_cons.1 h with rfl | hmem
    · exact lk_releasePages_of_listed l (lk_put_self ..)
    · exact ih _ hmem

/-- No binding of the table stays. -/
theorem not_bound_unbind_all {h : Nat} {e : Nat × Nat} (he : e ∈ (unbind s h none).bindings) : e.1 % 2 ^ 32 ≠ h := by
  have hkept := (List.mem_filter.1 he).2
  simpa using hkept

/-- No binding of the table for the partition stays. -/
theorem not_bound_unbind_one {h p : Nat} {e : Nat × Nat} (he : e ∈ (unbind s h (some p)).bindings)
    (hh : e.1 % 2 ^ 32 = h) : e.1 / 2 ^ 32 ≠ p := by
  have hkept := (List.mem_filter.1 he).2
  rw [hh] at hkept
  simpa using hkept

end

end Sys2Proof.Machine
end

section
/-! O41: the short commands of tables (R178, R179, R224 to R228, R235 to R237, R241, R242, Table 8.4). -/

namespace Sys2Proof.Machine

/-! ### TABLE_CREATE -/

/-- A descriptor that passes the checks of Tables 8.1 and 8.2 and needs no capability the function lacks. -/
structure WellDescribed (s : State) (f : Nat) (t : Table) : Prop where
  owner : t.owner = partOfFn f
  train : t.train ≠ 3
  nshard_pos : 1 ≤ t.nshard
  nshard_le : t.nshard ≤ 64
  rows : t.rows ≠ 0
  inference : t.train = 0 → t.frac = 0 ∧ t.ledgerLog2 = 0
  trained : t.train ≠ 0 → 8 ≤ t.frac ∧ t.frac ≤ 24 ∧ 10 ≤ t.ledgerLog2 ∧ t.ledgerLog2 ≤ 24
  rowfmt : t.rowfmt = 1
  shards : ∀ i, i < t.nshard → shardBad t i = false
  int4 : t.code = 1 → capOn s f 1 = true
  adagrad : t.train = 2 → capOn s f 2 = true
  pod : t.remote s = true → capOn s f 7 = true

section
variable {s : State} {f : Nat} {b : List Byte}

/-- Past the descriptor's checks stand that of the handle and that of the pool. -/
theorem tableCreate_wellDescribed (h : WellDescribed s f (parseTable b)) : tableCreate s f b =
    checked [(has s.tables (parseTable b).handle, 0x19, 3),
        (decide (tableLimit s (parseTable b).owner ≤ tablesOwned s (parseTable b).owner), 0x16, 4)]
      (.ok [] (setTable s (parseTable b)) true) := by
  unfold tableCreate
  generalize parseTable b = t at h
  have hfrac : (if t.train = 0 then t.frac != 0 else decide (t.frac < 8) || decide (24 < t.frac)) = false := by
    split
    · next h0 => simp [h.inference h0]
    · next h0 => have hin := h.trained h0; simp; omega
  have hledger : (if t.train = 0 then t.ledgerLog2 != 0 else decide (t.ledgerLog2 < 10) || decide (24 < t.ledgerLog2)) =
      false := by
    split
    · next h0 => simp [h.inference h0]
    · next h0 => have hin := h.trained h0; simp; omega
  refine (checked_ok (rangeBad_of_pass ?_) _ _).trans ((checked_ok ?_ _ _).trans ((checked_ok ?_ _ _).trans (checked_ok ?_ _ _)))
  · have hshard : 0 < t.nshard := h.nshard_pos
    simpa [h.owner, h.train, Nat.pos_iff_ne_zero.1 hshard, h.nshard_le, h.rows, h.rowfmt, hfrac, hledger] using h.shards
  · by_cases hc : t.code = 1
    · simp [h.int4 hc]
    · simp [hc]
  · by_cases hc : t.train = 2
    · simp [h.adagrad hc]
    · simp [hc]
  · by_cases hc : t.remote s = true
    · simp [h.pod hc]
    · simp [hc]

section
variable (h : WellDescribed s f (parseTable b))
include h

theorem tableCreate_exists (hex : (lk s.tables (parseTable b).handle).isSome = true) :
    tableCreate s f b = .fail 0x19 3 :=
  (tableCreate_wellDescribed h).trans (checked_bad hex _ _)

theorem tableCreate_full (hnew : lk s.tables (parseTable b).handle = none)
    (hfull : tableLimit s (parseTable b).owner ≤ tablesOwned s (parseTable b).owner) :
    tableCreate s f b = .fail 0x16 4 :=
  (tableCreate_wellDescribed h).trans ((checked_ok (by simp [has, hnew]) _ _).trans (checked_bad (decide_eq_true hfull) _ _))

theorem tableCreate_new (hnew : lk s.tables (parseTable b).handle = none)
    (hroom : tablesOwned s (parseTable b).owner < tableLimit s (parseTable b).owner) :
    tableCreate s f b = .ok [] (setTable s (parseTable b)) true :=
  (tableCreate_wellDescribed h).trans
    ((checked_ok (by simp [has, hnew]) _ _).trans (checked_ok (decide_eq_false (Nat.not_le.2 hroom)) _ _))

end

end

/-- The clause of TABLE_CREATE. -/
theorem tableCreate_spec {s : State} {f : Fn} {b : List Byte} (h : Ready s f.val 0x300 b) {t : Table} (ht : t = parseTable b)
    (hw : WellDescribed s f.val t) :
    (lk s.tables t.handle = none → tablesOwned s t.owner < tableLimit s t.owner →
      ∃ z u, exec (.tableCreate f) s = .next z ∧ Replied u z f.val 0 0 0 [] ∧ lk u.tables t.handle = some t ∧ t.placed = false ∧
        (∀ k, k ≠ t.handle → lk u.tables k = lk s.tables k) ∧ u = fwCommit { s with tables := u.tables }) ∧
    (lk s.tables t.handle = none → tableLimit s t.owner ≤ tablesOwned s t.owner →
      ∃ z, exec (.tableCreate f) s = .next z ∧ Replied s z f.val 0x16 4 0 []) ∧
    ((lk s.tables t.handle).isSome = true → ∃ z, exec (.tableCreate f) s = .next z ∧ Replied s z f.val 0x19 3 0 []) := by
  subst ht
  refine ⟨fun hnew hroom => ?_, fun hnew hfull => short_fail rfl h (tableCreate_full hw hnew hfull),
    fun hex => short_fail rfl h (tableCreate_exists hw hex)⟩
  obtain ⟨z, hexec, hrep⟩ := short_ok rfl h (tableCreate_new hw hnew hroom) rfl
  exact ⟨z, _, hexec, hrep, lk_put_self .., rfl, fun k hk => lk_put_ne _ _ hk, rfl⟩

/-! ### TABLE_DESTROY -/

section
variable {s : State} {t : Table}

/-- A table goes with its bindings, and every page of it awaits zeroing. -/
theorem dropTable_frame : dropTable s t = { s with
    tables := (dropTable s t).tables, bindings := (dropTable s t).bindings, pages := (dropTable s t).pages } := by
  unfold dropTable
  dsimp only
  rw [releasePages_frame]
  rfl

theorem tables_dropTable : (dropTable s t).tables = del s.tables t.handle := by
  unfold dropTable
  dsimp only
  rw [releasePages_frame]
  rfl

theorem lk_pages_dropTable {p : Nat} (hp : p ∈ devPages t.stores ++ t.ledger) :
    lk (dropTable s t).pages p = some (.zeroing t.owner) :=
  lk_releasePages _ _ (List.mem_append_left _ hp)

section
variable {f : Nat} {b : List Byte} (hr : reachTable s f (leAt b 8 4) = some t) (hf : foreign f t = false)
  (ho : tableHolder s (leAt b 8 4) = none)
include hr hf ho

theorem tableDestroy_used (hused : naming s t.handle ≠ [] ∨ t.mapped ≠ []) : tableDestroy s f b = .fail 0x19 3 :=
  (withTable_go hr hf ho).trans (if_pos (by simpa using hused))

theorem tableDestroy_unused (hnaming : naming s t.handle = []) (hmapped : t.mapped = []) :
    tableDestroy s f b = .ok [] (dropTable s t) true :=
  (withTable_go hr hf ho).trans (if_neg (by simp [hnaming, hmapped]))

end

/-- The clause of TABLE_DESTROY. -/
theorem tableDestroy_spec {f : Fn} {b : List Byte} (h : Ready s f.val 0x302 b) {n : Nat} (hn : n = leAt b 8 4) :
    (reachTable s f.val n = none → ∃ z, exec (.tableDestroy f) s = .next z ∧ Replied s z f.val 0x18 0 0 []) ∧
    (∀ t, reachTable s f.val n = some t →
      (foreign f.val t = true → ∃ z, exec (.tableDestroy f) s = .next z ∧ Replied s z f.val 0x14 1 0 []) ∧
      (foreign f.val t = false → ∀ o, tableHolder s n = some o →
        ∃ z, exec (.tableDestroy f) s = .next z ∧ Replied s z f.val 0x19 1 (holderWord f.val o) []) ∧
      (foreign f.val t = false → tableHolder s n = none → naming s t.handle ≠ [] ∨ t.mapped ≠ [] →
        ∃ z, exec (.tableDestroy f) s = .next z ∧ Replied s z f.val 0x19 3 0 []) ∧
      (foreign f.val t = false → tableHolder s n = none → naming s t.handle = [] → t.mapped = [] →
        ∃ z u, exec (.tableDestroy f) s = .next z ∧ Replied u z f.val 0 0 0 [] ∧ lk u.tables t.handle = none ∧
          (∀ k, k ≠ t.handle → lk u.tables k = lk s.tables k) ∧ (∀ e ∈ u.bindings, e.1 % 2 ^ 32 ≠ t.handle) ∧
          (∀ p ∈ devPages t.stores ++ t.ledger, lk u.pages p = some (.zeroing t.owner)) ∧
          u = fwCommit { s with tables := u.tables, bindings := u.bindings, pages := u.pages })) := by
  subst hn
  refine ⟨fun hr => short_fail rfl h (withTable_unreached hr), fun t hr => ⟨
    fun hf => short_fail rfl h (withTable_foreign hr hf),
    fun hf o ho => held_replied (sel := fun _ => true) h rfl (withTable_held hr hf ho) rfl,
    fun hf ho hused => short_fail rfl h (tableDestroy_used hr hf ho hused), fun hf ho hnaming hmapped => ?_⟩⟩
  · obtain ⟨z, hexec, hrep⟩ := short_ok rfl h (tableDestroy_unused hr hf ho hnaming hmapped) (by rw [dropTable_frame])
    refine ⟨z, fwCommit (dropTable s t), hexec, hrep, ?_, fun k hk => ?_, fun e he => not_bound_unbind_all _ he,
      fun p hp => lk_pages_dropTable hp, congrArg fwCommit dropTable_frame⟩
    · exact (congrArg (lk · t.handle) tables_dropTable).trans (lk_del_self ..)
    · exact (congrArg (lk · k) tables_dropTable).trans (lk_del_ne _ hk)

end

/-! ### TABLE_QUERY -/

section
variable {s : State} {f : Nat} {b : List Byte}

theorem tableQuery_unreached (hr : reachTable s f (leAt b 8 4) = none) : tableQuery s f b = .fail 0x18 0 := by
  simp only [tableQuery, hr]

theorem take_three_words (x y z : Nat) (l : List Byte) :
    (leBytes 4 x ++ (leBytes 4 y ++ (leBytes 4 z ++ l))).take 12 = leBytes 4 x ++ (leBytes 4 y ++ leBytes 4 z) := by
  rw [← List.append_assoc, ← List.append_assoc, ← List.append_assoc]
  exact List.take_left' (by simp)

/-- What TABLE_QUERY answers of a reached table: the state word, CHECK and the epoch come first (Table 8.4). -/
theorem tableQuery_reached {t : Table} (hr : reachTable s f (leAt b 8 4) = some t) :
    ∃ res w, tableQuery s f b = .ok res s false ∧
      res.take 12 = leBytes 4 w ++ leBytes 4 t.descCheck.toNat ++ leBytes 4 t.epoch ∧
      w % 2 = b2n t.placed ∧ w / 4 % 2 = b2n t.golden.isSome ∧ w / 16 % 2 = b2n (tableHolder s t.handle).isSome := by
  simp only [tableQuery, hr]
  refine ⟨_, ?word, rfl, ?bytes, ?bits⟩
  case bytes =>
    simp only [List.append_assoc]
    exact take_three_words ..
  case bits =>
    have hplaced := b2n_le_one t.placed
    have hmapped := b2n_le_one (!t.mapped.isEmpty)
    have hgolden := b2n_le_one t.golden.isSome
    have hincomplete := b2n_le_one t.incomplete.isSome
    have hheld := b2n_le_one (tableHolder s t.handle).isSome
    have hused := b2n_le_one (t.used != 0)
    omega

end

/-! ### TABLE_MAP_SHARED -/

section
variable {s : State} {f : Nat} {b : List Byte} {t : Table}

theorem tableMap_unlisted (hown : handleOwner (leAt b 8 4) = 32) (hlk : lk s.tables (leAt b 8 4) = none) :
    tableMap s f b = .fail 0x18 0 := by
  refine (checked_ok (rangeBad_of_pass (by simp [hown, hlk])) _ _).trans ?_
  rw [checked_nil, hlk]

section
variable (hown : handleOwner (leAt b 8 4) = 32) (hlk : lk s.tables (leAt b 8 4) = some t) (htrain : t.train = 0)
  (hst : (part s (leAt b 0x0C 4 % 32)).st = .active) (hfree : tableHolder s (leAt b 8 4) = none)
include hown hlk htrain hst hfree

/-- Past the checks, one bit of the request says which way the mapping goes. -/
theorem tableMap_active : tableMap s f b =
    if bitOf (leAt b 0x0C 4) 8 = true then
      .ok [] (setTable s { t with mapped := if t.mapped.contains (leAt b 0x0C 4 % 32) then t.mapped
        else t.mapped ++ [leAt b 0x0C 4 % 32] }) true
    else .ok [] (unmapFrom s (leAt b 8 4) (leAt b 0x0C 4 % 32)) true := by
  refine (checked_ok (rangeBad_of_pass (by simp [hown, hlk, htrain])) _ _).trans ?_
  rw [checked_nil, hlk]
  dsimp only
  rw [if_neg (not_not.2 hst), hfree]

end

/-- Beside its earlier views, a table that is kept for tasks in flight stays as it is. -/
theorem keepView_eq (t : Table) (l : List Nat) : keepView t l = { t with olds := (keepView t l).olds } := by
  unfold keepView
  dsimp only
  split <;> rfl

/-- A listed table loses the partition from its mapping, and the partition its bindings of the table. -/
theorem unmapFrom_listed {h p : Nat} (hlk : lk s.tables h = some t) : ∃ olds,
    unmapFrom s h p = unbind (setTable s { t with olds := olds, mapped := t.mapped.filter (· != p) }) h (some p) := by
  simp only [unmapFrom, hlk]
  rw [keepView_eq]
  exact ⟨_, rfl⟩

end

/-- The clauses of TABLE_MAP_SHARED. -/
theorem tableMap_spec {s : State} {f : Fn} {b : List Byte} (h : Ready s f.val 0x304 b) {n p : Nat} (hn : n = leAt b 8 4)
    (hp : p = leAt b 0x0C 4 % 32) (hown : handleOwner n = 32) :
    (lk s.tables n = none → ∀ c, (c = .tableMapShared f ∧ bitOf (leAt b 0x0C 4) 8 = true ∨
        c = .tableUnmapShared f ∧ bitOf (leAt b 0x0C 4) 8 = false) →
      ∃ z, exec c s = .next z ∧ Replied s z f.val 0x18 0 0 []) ∧
    (∀ t, lk s.tables n = some t → t.handle = n → t.train = 0 → (part s p).st = .active → tableHolder s n = none →
      (bitOf (leAt b 0x0C 4) 8 = true → ∃ z u, exec (.tableMapShared f) s = .next z ∧ Replied u z f.val 0 0 0 [] ∧
        lk u.tables n = some { t with mapped := if t.mapped.contains p then t.mapped else t.mapped ++ [p] } ∧
        (∀ k, k ≠ n → lk u.tables k = lk s.tables k) ∧ u = fwCommit { s with tables := u.tables }) ∧
      (bitOf (leAt b 0x0C 4) 8 = false → ∃ z u x, exec (.tableUnmapShared f) s = .next z ∧ Replied u z f.val 0 0 0 [] ∧
        lk u.tables n = some x ∧ x.mapped = t.mapped.filter (· != p) ∧ x.stores = t.stores ∧
        (∀ k, k ≠ n → lk u.tables k = lk s.tables k) ∧ (∀ e ∈ u.bindings, e.1 % 2 ^ 32 = n → e.1 / 2 ^ 32 ≠ p) ∧
        u = fwCommit { s with tables := u.tables, bindings := u.bindings })) := by
  subst hn hp
  refine ⟨fun hlk c hc => ?_, fun t hlk hh htrain hst hfree => ⟨fun hmap => ?_, fun hunmap => ?_⟩⟩
  · obtain ⟨rfl, hbit⟩ | ⟨rfl, hbit⟩ := hc
    · exact fail_replied h hbit (tableMap_unlisted hown hlk) rfl
    · exact fail_replied h (congrArg (!·) hbit) (tableMap_unlisted hown hlk) rfl
  · obtain ⟨z, hexec, hrep⟩ := ok_replied h hmap ((tableMap_active hown hlk htrain hst hfree).trans (if_pos hmap)) rfl
      (o := exec (.tableMapShared f) s) rfl
    refine ⟨z, _, hexec, hrep, ?_, fun k hk => ?_, rfl⟩
    · rw [← hh]; exact lk_put_self ..
    · rw [← hh] at hk; exact lk_put_ne _ _ hk
  · obtain ⟨olds, hun⟩ := unmapFrom_listed (p := leAt b 0x0C 4 % 32) hlk
    have hbody := (tableMap_active (f := f.val) hown hlk htrain hst hfree).trans (if_neg (by simp [hunmap]))
    rw [hun] at hbody
    obtain ⟨z, hexec, hrep⟩ := ok_replied h (congrArg (!·) hunmap) hbody rfl (o := exec (.tableUnmapShared f) s) rfl
    refine ⟨z, _, { t with olds := olds, mapped := t.mapped.filter (· != leAt b 0x0C 4 % 32) }, hexec, hrep, ?_, rfl, rfl,
      fun k hk => ?_, fun e he => not_bound_unbind_one _ he, rfl⟩
    · rw [← hh]; exact lk_put_self ..
    · rw [← hh] at hk; exact lk_put_ne _ _ hk

/-! ### TABLE_REGISTER_GOLDEN -/

/-- The range of source rows of a request lies in the table, and rows and the source itself are aligned (R238). -/
structure GoodSource (t : Table) (b : List Byte) : Prop where
  rows : leAt b 0x10 5 + leAt b 0x18 4 ≤ t.rows
  stride_aligned : leAt b 0x1C 4 % 4 = 0
  stride : leAt b 0x18 4 ≠ 0 → srcSize t (leAt b 0x0C 1 % 4) ≤ leAt b 0x1C 4
  source : badAddr (leAt b 0x20 8) 1 = false

section
variable {s : State} {f : Nat} {b : List Byte} {t : Table}

/-- The range checks of a source pass. -/
theorem srcRange_pass (hr : reachTable s f (leAt b 8 4) = some t) (hsrc : GoodSource t b) :
    ∀ e ∈ srcRange s f b, e.2 = false := by
  simpa [srcRange, hr, hsrc.rows, hsrc.stride_aligned, hsrc.source] using hsrc.stride

/-- The registration that a request names: none where it names no row. -/
def goldenOf (f : Nat) (b : List Byte) : Option Golden :=
  if leAt b 0x18 4 = 0 then none
  else some ⟨f, leAt b 0x10 5, leAt b 0x18 4, leAt b 0x20 8, leAt b 0x1C 4, leAt b 0x0C 1 % 4⟩

section
variable (hr : reachTable s f (leAt b 8 4) = some t) (hsrc : GoodSource t b)
include hr hsrc

/-- Another function than the owner's may not register. -/
theorem tableGolden_other (hown : t.owner ≠ partOfFn f) : tableGolden s f b = .fail 0x14 1 := by
  refine (checked_ok (rangeBad_of_pass (srcRange_pass hr hsrc)) _ _).trans ?_
  rw [checked_nil, hr]
  exact if_pos hown

/-- The owner's function sets or removes the registration. -/
theorem tableGolden_owner (hown : t.owner = partOfFn f) (ho : tableHolder s t.handle = none) :
    tableGolden s f b = .ok [] (setTable s { t with golden := goldenOf f b }) true := by
  refine (checked_ok (rangeBad_of_pass (srcRange_pass hr hsrc)) _ _).trans ?_
  rw [checked_nil, hr]
  dsimp only
  rw [if_neg (not_not.2 hown), ho]
  rfl

end

end

/-- The clause of TABLE_REGISTER_GOLDEN. -/
theorem tableGolden_spec {s : State} {f : Fn} {b : List Byte} (h : Ready s f.val 0x305 b) {t : Table} {n m : Nat}
    (hn : n = leAt b 8 4) (hr : reachTable s f.val n = some t) (hh : t.handle = n) (hm : m = leAt b 0x18 4)
    (hsrc : GoodSource t b) :
    (t.owner ≠ partOfFn f.val → ∃ z, exec (.tableRegisterGolden f) s = .next z ∧ Replied s z f.val 0x14 1 0 []) ∧
    (t.owner = partOfFn f.val → tableHolder s n = none →
      ∃ z u, exec (.tableRegisterGolden f) s = .next z ∧ Replied u z f.val 0 0 0 [] ∧
        (m = 0 → lk u.tables n = some { t with golden := none }) ∧
        (m ≠ 0 → lk u.tables n = some { t with
          golden := some ⟨f.val, leAt b 0x10 5, m, leAt b 0x20 8, leAt b 0x1C 4, leAt b 0x0C 1 % 4⟩ }) ∧
        (∀ k, k ≠ n → lk u.tables k = lk s.tables k) ∧ u = fwCommit { s with tables := u.tables }) := by
  rw [hn] at hr
  refine ⟨fun hown => short_fail rfl h (tableGolden_other hr hsrc hown), fun hown ho => ?_⟩
  rw [← hh] at ho ⊢
  obtain ⟨z, hexec, hrep⟩ := short_ok rfl h (tableGolden_owner hr hsrc hown ho) rfl
  have hset : lk (put s.tables t.handle { t with golden := goldenOf f.val b }) t.handle =
      some { t with golden := goldenOf f.val b } := lk_put_self ..
  refine ⟨z, _, hexec, hrep, fun h0 => ?_, fun h0 => ?_, fun k hk => lk_put_ne _ _ hk, rfl⟩
  · exact hset.trans (by rw [goldenOf, if_pos (hm ▸ h0)])
  · exact hset.trans (by rw [goldenOf, if_neg (hm ▸ h0), hm])

/-- Settles O41: each command comes to an answer with its effect on the table it names, or to that of the first check that
fails. -/
theorem tableCommands : Obligations.TableCommands := by
  intro s f b n hn
  refine ⟨fun h t ht howner htrain hpos hle hrows hinf htrained hfmt hshard hint4 hada hpod => ?_,
    fun h => tableDestroy_spec h hn, fun h => ?_, fun h hown p hp => tableMap_spec h hn hp hown,
    fun h t m hr hh hm hrange halign hstride hsrc => ?_⟩
  · exact tableCreate_spec h ht ⟨howner, htrain, hpos, hle, hrows, hinf, htrained, hfmt, hshard, hint4, hada, hpod⟩
  · subst hn
    refine ⟨fun hr => short_fail rfl h (tableQuery_unreached hr), fun t hr => ?_⟩
    obtain ⟨res, w, hbody, hres⟩ := tableQuery_reached hr
    obtain ⟨z, hexec, hrep⟩ := short_ok rfl h hbody rfl
    exact ⟨z, res, w, hexec, hrep, hres⟩
  · subst hm
    exact tableGolden_spec h hn hr hh rfl ⟨hrange, halign, hstride, hsrc⟩

end Sys2Proof.Machine
end

section
/-! O42: TABLE_LOAD and TABLE_REQUANTIZE (R228, R238 to R240, R250). -/

namespace Sys2Proof.Machine

theorem tables_of_tabd {s t : State} (h : tabd t = tabd s) : t.tables = s.tables := congrArg Tabd.tables h

/-! ### TABLE_LOAD: the start -/

section
variable {s : State} {f : Nat} {b : List Byte} {t : Table} (hr : reachTable s f (leAt b 8 4) = some t)
  (hn : leAt b 0x18 4 ≠ 0) (hsrc : GoodSource t b)
include hr hn hsrc

theorem loadRange_pass : (rangeBad ((0x18, leAt b 0x18 4 == 0) :: srcRange s f b)).1 = false :=
  rangeBad_of_pass (List.forall_mem_cons.2 ⟨beq_false_of_ne hn, srcRange_pass hr hsrc⟩)

variable (hf : foreign f t = false) (ho : tableHolder s (leAt b 8 4) = none)
include hf ho

/-- A table that is not PLACED, or whose ledger holds an entry, takes no load. -/
theorem tableLoad_unready (hun : t.placed = false ∨ t.used ≠ 0) : tableLoad s f b = .fail 0x19 3 :=
  (checked_ok (loadRange_pass hr hn hsrc) _ _).trans ((withTable_go hr hf ho).trans (if_pos (by simpa using hun)))

theorem tableLoad_ready (hplaced : t.placed = true) (hused : t.used = 0) : tableLoad s f b =
    .start (rowsHere t (leAt b 0x10 5) (leAt b 0x18 4)).length [] s :=
  (checked_ok (loadRange_pass hr hn hsrc) _ _).trans
    ((withTable_go hr hf ho).trans (if_neg (by simp [hplaced, hused])))

end

/-! ### TABLE_LOAD: the work -/

/-- The rows that a load writes leave operation records, mailboxes and partitions alone. -/
theorem opsd_loadRows (o : Op) (h : Nat) (l : List (Nat × Store × Nat)) (k : Nat) (s : State) :
    opsd (loadRows o h l k s).2.2.2 = opsd s := by
  induction l generalizing k s with
  | nil => rfl
  | cons e rest ih =>
    obtain ⟨r, x, i⟩ := e
    simp only [loadRows]
    split
    · rfl
    · split
      · rfl
      · rfl
      · split
        · exact opsd_noteTrace ..
        · split
          · exact opsd_noteTrace ..
          · split
            · exact opsd_noteTrace ..
            · exact opsd_noteTrace ..
            · exact (ih ..).trans ((opsd_doWrites ..).trans (opsd_noteTrace ..))

/-- A table after a load of its range: the EPOCH given, and INCOMPLETE cleared where the range covers it (R239, R240). -/
def loadedTable (b : List Byte) (t : Table) : Table :=
  { t with
    epoch := (if bitOf (leAt b 0x0C 4) 3 then some (leAt b 0x28 4) else none).getD t.epoch
    incomplete := match t.incomplete with
      | some (a, z) =>
        if leAt b 0x10 5 ≤ a && z ≤ leAt b 0x10 5 + leAt b 0x18 4 - 1 then none else some (a, z)
      | none => none }

theorem loadedTable_epoch (b : List Byte) (t : Table) :
    (loadedTable b t).epoch = if bitOf (leAt b 0x0C 4) 3 then leAt b 0x28 4 else t.epoch := by
  simp only [loadedTable]
  split <;> rfl

theorem loadedTable_complete {b : List Byte} {t : Table} (h : t.incomplete = none) :
    (loadedTable b t).incomplete = none := by simp only [loadedTable, h]

theorem loadedTable_covered {b : List Byte} {t : Table} {lo hi : Nat} (h : t.incomplete = some (lo, hi))
    (hlo : leAt b 0x10 5 ≤ lo) (hhi : hi ≤ leAt b 0x10 5 + leAt b 0x18 4 - 1) : (loadedTable b t).incomplete = none := by
  simp [loadedTable, h, hlo, hhi]

section
variable {s v : State} {o : Op} {k : Nat} {q : List Need} {st : Nat}
  (hrows : loadRows o (leAt o.req 8 4) ((loadList s o).drop o.unitsDone) o.unitsDone s = (k, st, q, v))
include hrows

theorem loadGo_waits (hst : st = 1) : loadGo s o = askOp v { o with unitsDone := k } q := by
  simp only [loadGo, hrows, hst, if_true]

theorem loadGo_fails (hst : st = 2) :
    loadGo s o = finishOp (loadLeft v { o with unitsDone := k }) { o with unitsDone := k } .failed 0x12 0x20 := by
  simp [loadGo, hrows, hst]

theorem loadGo_ends (hst : st = 0) : loadGo s o =
    finishOp { v with tables := adj v.tables (leAt o.req 8 4) (loadedTable o.req) } { o with unitsDone := k } .done 0 0 := by
  simp only [loadGo, hrows, hst]
  rfl

/-- The operation's own record stands while its rows are written. -/
theorem opOf_loadRows {x : Op} (hrec : opOf s o.key = some x) : opOf v o.key = some x := by
  have hkept := opsd_loadRows o (leAt o.req 8 4) ((loadList s o).drop o.unitsDone) o.unitsDone s
  rw [hrows] at hkept
  exact (opOf_of_opsd hkept o.key).trans hrec

end

/-- What a failed load leaves is a mark on the table. -/
theorem ops_loadLeft (s : State) (o : Op) : (loadLeft s o).ops = s.ops := by
  unfold loadLeft
  split <;> rfl

/-! ### TABLE_REQUANTIZE: the start -/

/-- What a TABLE_REQUANTIZE that passes the shared checks of its table comes to: a DEFINED table needs nothing, and a
PLACED one the pages of its stores under the new code. -/
def requantStart (s : State) (b : List Byte) (t : Table) : MOut :=
  if !t.placed then .start 0 [] s
  else if !(spilledOf t).isEmpty then .fail 0x19 3
  else if availPages s t.owner < (t.stores.map (fun x => (t.withCode (leAt b 0x0C 4 % 2)).storePages x.shard)).sum then
    .fail 0x16 1
  else
    match takePages s (fun _ => .object t.owner)
      (t.stores.map (fun x => (t.withCode (leAt b 0x0C 4 % 2)).storePages x.shard)).sum with
    | some (l, s) => .start (t.stores.map (fun x => t.heldRows x.shard)).sum l s
    | none => .fail 0x16 1

section
variable {s : State} {f : Nat} {b : List Byte} {t : Table}

theorem tableRequantize_go (hr : reachTable s f (leAt b 8 4) = some t) (hf : foreign f t = false)
    (ho : tableHolder s (leAt b 8 4) = none) (hcap : capOn s f 10 = true)
    (hint4 : leAt b 0x0C 4 % 2 = 1 ∨ t.code = 1 → capOn s f 1 = true) :
    tableRequantize s f b = requantStart s b t := by
  refine (checked_ok (by simp [hcap]) _ _).trans ((checked_ok ?_ _ _).trans ((withTable_go hr hf ho).trans rfl))
  by_cases hc : leAt b 0x0C 4 % 2 = 1 ∨ t.code = 1
  · simp [hint4 hc]
  · obtain ⟨hnew, hold⟩ := not_or.1 hc
    simp [hr, hnew, hold]

theorem requantStart_defined (hp : t.placed = false) : requantStart s b t = .start 0 [] s :=
  if_pos (by simp [hp])

section
variable (hp : t.placed = true)
include hp

theorem requantStart_spilled (hsp : spilledOf t ≠ []) : requantStart s b t = .fail 0x19 3 :=
  (if_neg (by simp [hp])).trans (if_pos (by simpa using hsp))

variable (hsp : spilledOf t = []) {n : Nat}
  (hn : n = (t.stores.map (fun x => (t.withCode (leAt b 0x0C 4 % 2)).storePages x.shard)).sum)
include hsp hn

theorem requantStart_short (hshort : availPages s t.owner < n) : requantStart s b t = .fail 0x16 1 :=
  (if_neg (by simp [hp])).trans ((if_neg (by simp [hsp])).trans (if_pos (hn ▸ hshort)))

theorem requantStart_placed {l : List Nat} {v : State} (hroom : n ≤ availPages s t.owner)
    (htake : takePages s (fun _ => .object t.owner) n = some (l, v)) :
    requantStart s b t = .start (t.stores.map (fun x => t.heldRows x.shard)).sum l v := by
  subst hn
  refine (if_neg (by simp [hp])).trans ((if_neg (by simp [hsp])).trans ((if_neg (Nat.not_lt.2 hroom)).trans ?_))
  rw [htake]

end

end

/-! ### TABLE_REQUANTIZE: the work -/

/-- While a table's rows are written afresh, its descriptor stays but for the count of clamped values. -/
def Requantizing (s : State) (t : Table) : Prop := ∃ c, lk s.tables t.handle = some { t with clamped := c }

section
variable {s : State} {t : Table}

/-- More values were clamped. -/
theorem requantizing_clamped {u : State} (n : Nat) (hu : u.tables = s.tables) (h : Requantizing s t) :
    Requantizing { u with tables := adj u.tables t.handle (fun t => { t with clamped := (t.clamped + n) % 2 ^ 64 }) } t := by
  obtain ⟨c, hc⟩ := h
  refine ⟨(c + n) % 2 ^ 64, (lk_adj_self ..).trans ?_⟩
  rw [hu, hc]
  rfl

theorem requantizing_row {code : Nat} (x y : Store) (l : Nat) (h : Requantizing s t) :
    Requantizing (requantRow code t x y l s) t := by
  unfold requantRow
  split
  · exact requantizing_clamped _ ((tables_of_tabd (tabd_memWrite ..)).trans (tables_of_tabd (tabd_noteTrace ..))) h
  · exact h

/-- Every row of the stores written afresh under a new code. -/
def requantRows (code : Nat) (t : Table) (stores : List (Store × Store)) (s : State) : State :=
  stores.foldl (fun s (x, y) => (List.range (t.heldRows x.shard)).foldl (fun s l => requantRow code t x y l s) s) s

theorem requantizing_rows {code : Nat} (stores : List (Store × Store)) (h : Requantizing s t) :
    Requantizing (requantRows code t stores s) t :=
  List.foldlRecOn (motive := (Requantizing · t)) stores _ h fun _ hu e _ =>
    List.foldlRecOn (motive := (Requantizing · t)) (List.range (t.heldRows e.1.shard)) _ hu fun _ hw l _ =>
      requantizing_row e.1 e.2 l hw

theorem opsd_requantRows (code : Nat) (stores : List (Store × Store)) : opsd (requantRows code t stores s) = opsd s :=
  opsd_foldl _ (fun _ _ => opsd_foldl _ (fun _ _ => opsd_requantRow ..) _ _) _ _

variable {o : Op}

/-- The EPOCH of a table after a requantize: that given, or its own (R250). -/
def requantEpoch (b : List Byte) (t : Table) : Nat := if bitOf (leAt b 0x0C 4) 3 then leAt b 0x10 4 else t.epoch

theorem requantGo_defined (hlk : lk s.tables (leAt o.req 8 4) = some t) (hp : t.placed = false) : requantGo s o =
    finishOp (setTable s { t with code := leAt o.req 0x0C 4 % 2, epoch := requantEpoch o.req t })
      { o with unitsDone := o.unitsTotal } .done 0 0 := by
  simp only [requantGo, hlk, hp]
  rfl

/-- A FOLD in flight holds the operation up (R250, log entry 25). -/
theorem requantGo_waits (hlk : lk s.tables (leAt o.req 8 4) = some t) (hp : t.placed = true)
    (hfold : t.fold.isSome = true) : requantGo s o = s := by
  simp [requantGo, hlk, hp, hfold]

/-- The switch of a listed table to stores that hold its rows (R250): the tasks in flight keep the old view, and the pages
that no view keeps go. -/
def requantSwitch (w : State) (o : Op) (epoch : Nat) (ys : List Store) : State :=
  match lk w.tables (leAt o.req 8 4) with
  | none => w
  | some x =>
    let y := keepView x (naming w (leAt o.req 8 4))
    let kept := y.olds.flatMap (fun o => devPages o.stores)
    finishOp (releasePages (setTable w { y with code := leAt o.req 0x0C 4 % 2, epoch := epoch, stores := ys }) y.owner
      ((devPages x.stores).filter (fun p => !kept.contains p))) { o with unitsDone := o.unitsTotal } .done 0 0

/-- With no FOLD in flight, the rows are written afresh and the table is switched. -/
theorem requantGo_goes (hlk : lk s.tables (leAt o.req 8 4) = some t) (hp : t.placed = true) (hfold : t.fold = none)
    {ys : List Store} (hys : ys = dealPages (t.withCode (leAt o.req 0x0C 4 % 2)) t.stores o.acc) : requantGo s o =
    requantSwitch (requantRows (leAt o.req 0x0C 4 % 2) t (t.stores.zip ys) s) o (requantEpoch o.req t) ys := by
  subst hys
  simp only [requantGo, hlk, hp, hfold]
  rfl

/-- Beside the operation's record, a switch changes the table and page uses. -/
theorem requantSwitch_listed {w : State} {epoch : Nat} {ys : List Store} {x : Table}
    (hlk : lk w.tables (leAt o.req 8 4) = some x) : ∃ olds v,
    requantSwitch w o epoch ys = finishOp v { o with unitsDone := o.unitsTotal } .done 0 0 ∧ opsd v = opsd w ∧
    lk v.tables x.handle = some { x with
      olds := olds, code := leAt o.req 0x0C 4 % 2, epoch := epoch, stores := ys } := by
  simp only [requantSwitch, hlk]
  rw [keepView_eq]
  refine ⟨(keepView x (naming w (leAt o.req 8 4))).olds, _, rfl, (opsd_releasePages ..).trans (opsd_setTable ..), ?_⟩
  rw [releasePages_frame]
  exact lk_put_self ..

/-- The end of a requantize: the table stands under the new code, on the pages taken. -/
theorem requantGo_ends (hlk : lk s.tables (leAt o.req 8 4) = some t) (hh : t.handle = leAt o.req 8 4)
    (hp : t.placed = true) (hfold : t.fold = none) : ∃ x v,
    requantGo s o = finishOp v { o with unitsDone := o.unitsTotal } .done 0 0 ∧ opsd v = opsd s ∧
    lk v.tables t.handle = some x ∧ x.code = leAt o.req 0x0C 4 % 2 ∧
    x.stores = dealPages (t.withCode (leAt o.req 0x0C 4 % 2)) t.stores o.acc ∧ x.placed = true ∧ x.rows = t.rows ∧
    x.epoch = requantEpoch o.req t := by
  have hstart : Requantizing s t := ⟨t.clamped, hlk.symm ▸ congrArg (lk s.tables) hh⟩
  obtain ⟨c, hc⟩ := requantizing_rows (code := leAt o.req 0x0C 4 % 2)
    (t.stores.zip (dealPages (t.withCode (leAt o.req 0x0C 4 % 2)) t.stores o.acc)) hstart
  obtain ⟨olds, v, hgo, hv, hlkv⟩ := requantSwitch_listed (o := o) (epoch := requantEpoch o.req t)
    (ys := dealPages (t.withCode (leAt o.req 0x0C 4 % 2)) t.stores o.acc) ((congrArg (lk _) hh).symm.trans hc)
  exact ⟨_, v, (requantGo_goes hlk hp hfold rfl).trans hgo, hv.trans (opsd_requantRows ..), hlkv, rfl, rfl, hp, rfl, rfl⟩

end

/-! ### The clauses -/

section
variable {s : State} {f : Fn}

theorem exec_tableLoad_works {o : Op} (h : Works s f.val 0x301 o) : exec (.tableLoad f) s = .next (loadGo s o) :=
  congrArg Host.Outcome.next (works_run h (sel := fun _ => true) rfl)

theorem exec_tableRequantize_works {o : Op} (h : Works s f.val 0x308 o) :
    exec (.tableRequantize f) s = .next (requantGo s o) :=
  congrArg Host.Outcome.next (works_run h (sel := fun _ => true) rfl)

/-- The clause of a load's end. -/
theorem load_ends {o : Op} (hw : Works s f.val 0x301 o) (hid : o.id ≠ 0) {k st : Nat} {q : List Need} {v : State}
    (hrows : loadRows o (leAt o.req 8 4) ((loadList s o).drop o.unitsDone) o.unitsDone s = (k, st, q, v)) (hst : st = 0) :
    ∃ z, exec (.tableLoad f) s = .next z ∧
      opOf z o.key = some { o with
        unitsDone := k, st := .done, finalMs := 0, finalDetail := 0, land := [], asked := [], ex := [] } ∧
      z = { v with ops := z.ops, tables := z.tables } ∧
      (∀ x, lk v.tables (leAt o.req 8 4) = some x → lk z.tables (leAt o.req 8 4) = some (loadedTable o.req x)) := by
  have hexec := exec_tableLoad_works hw
  rw [loadGo_ends hrows hst] at hexec
  obtain ⟨-, -, -, hrec, -⟩ := hw
  refine ⟨_, hexec, ?_, ?_, fun x hx => ?_⟩
  · have hkept : opOf { v with tables := adj v.tables (leAt o.req 8 4) (loadedTable o.req) } o.key = some o :=
      opOf_loadRows hrows hrec
    exact opOf_finished hkept hid ..
  · rw [finishOp_frame]
  · rw [finishOp_frame]
    exact (lk_adj_self ..).trans (by rw [hx]; rfl)

/-- The clause of a load that meets a damaged source row. -/
theorem load_fails {o : Op} (hw : Works s f.val 0x301 o) (hid : o.id ≠ 0) {k st : Nat} {q : List Need} {v : State}
    (hrows : loadRows o (leAt o.req 8 4) ((loadList s o).drop o.unitsDone) o.unitsDone s = (k, st, q, v)) (hst : st = 2) :
    ∃ z, exec (.tableLoad f) s = .next z ∧
      opOf z o.key = some { o with
        unitsDone := k, st := .failed, finalMs := 0x12, finalDetail := 0x20, land := [], asked := [], ex := [] } ∧
      z = { loadLeft v { o with unitsDone := k } with ops := z.ops } := by
  have hexec := exec_tableLoad_works hw
  rw [loadGo_fails hrows hst] at hexec
  obtain ⟨-, -, -, hrec, -⟩ := hw
  have hleft : opOf (loadLeft v { o with unitsDone := k }) o.key = some o := by
    rw [opOf, ops_loadLeft]; exact opOf_loadRows hrows hrec
  exact ⟨_, hexec, opOf_finished hleft hid .., finishOp_frame ..⟩

/-- The clause of a requantize of a DEFINED table: it ends in the step that starts it. -/
theorem requant_defined {b : List Byte} {t : Table} (h : Ready s f.val 0x308 b)
    (hbody : tableRequantize s f.val b = .start 0 [] s) (hlk : lk s.tables (leAt b 8 4) = some t)
    (hh : t.handle = leAt b 8 4) (hheld : opsHeld s f.val < 16) (hp : t.placed = false) :
    ∃ z o u, exec (.tableRequantize f) s = .next z ∧ Started s u f.val 0x308 0 b [] [] o ∧
      { o with unitsDone := 0, st := .done, finalMs := 0, finalDetail := 0, land := [], asked := [], ex := [] } ∈ z.ops ∧
      lk z.tables (leAt b 8 4) = some { t with code := leAt b 0x0C 4 % 2, epoch := requantEpoch b t } ∧
      (∀ k, k ≠ leAt b 8 4 → lk z.tables k = lk s.tables k) ∧ z = { u with ops := z.ops, tables := z.tables } := by
  obtain ⟨z, o, u, hexec, rfl, hst⟩ :=
    start_run (o := exec (.tableRequantize f) s) (sel := fun _ => true) h rfl hbody rfl hheld hheld rfl
  have hreq := started_req hst
  have hframe := started_frame hst
  have htables : u.tables = s.tables := by rw [hframe]
  have hgo : requantGo u o = _ := requantGo_defined (by rw [hreq, htables]; exact hlk) hp
  refine ⟨_, o, u, hexec, hst, ?_, ?_, fun k hk => ?_, ?_⟩
  · obtain ⟨-, -, -, -, -, htotal, -, -, -, hid, -⟩ := hst
    rw [hgo]
    exact mem_ops_finishOp (by rw [setTable_ops, hframe]; simp) hid htotal ..
  · rw [hgo, finishOp_frame, hreq, ← hh]; exact lk_put_self ..
  · rw [hgo, finishOp_frame]; exact (lk_put_ne _ _ (hh ▸ hk)).trans (by rw [htables])
  · rw [hgo, finishOp_frame]; rfl

/-- The clause of a requantize of a PLACED table that starts. -/
theorem requant_starts {b : List Byte} {t : Table} (h : Ready s f.val 0x308 b) {rows : Nat} {l : List Nat} {v : State}
    (hbody : tableRequantize s f.val b = .start rows l v) {n : Nat}
    (htake : takePages s (fun _ => .object t.owner) n = some (l, v)) (hheld : opsHeld s f.val < 16) :
    ∃ z o u, exec (.tableRequantize f) s = .next z ∧ z = requantGo u o ∧
      Started { s with pages := v.pages } u f.val 0x308 rows b l [] o := by
  obtain ⟨pages, rfl⟩ : ∃ pages, v = { s with pages := pages } := ⟨_, takePages_frame htake⟩
  exact start_run (sel := fun _ => true) h rfl hbody rfl hheld hheld rfl

/-- The clause of a requantize's end on a PLACED table. -/
theorem requant_ends {o : Op} {t : Table} (hw : Works s f.val 0x308 o) (hid : o.id ≠ 0)
    (hlk : lk s.tables (leAt o.req 8 4) = some t) (hh : t.handle = leAt o.req 8 4) (hp : t.placed = true) (hfold : t.fold = none) :
    ∃ z x, exec (.tableRequantize f) s = .next z ∧
      opOf z o.key = some { o with
        unitsDone := o.unitsTotal, st := .done, finalMs := 0, finalDetail := 0, land := [], asked := [], ex := [] } ∧
      lk z.tables (leAt o.req 8 4) = some x ∧ x.code = leAt o.req 0x0C 4 % 2 ∧
      x.stores = dealPages (t.withCode (leAt o.req 0x0C 4 % 2)) t.stores o.acc ∧ x.placed = true ∧ x.rows = t.rows ∧
      x.epoch = requantEpoch o.req t ∧ z.mbx = s.mbx := by
  obtain ⟨x, v, hgo, hv, hx, hcode, hstores, hplaced, hrows, hepoch⟩ := requantGo_ends hlk hh hp hfold
  have hexec := exec_tableRequantize_works hw
  rw [hgo] at hexec
  obtain ⟨-, -, -, hrec, -⟩ := hw
  refine ⟨_, x, hexec, opOf_finished ((opOf_of_opsd hv o.key).trans hrec) hid .., ?_⟩
  rw [finishOp_frame, ← hh]
  exact ⟨hx, hcode, hstores, hplaced, hrows, hepoch, mbx_of_opsd (t := v) hv⟩

end

/-- Settles O42: a load writes its rows from where it stands, and a requantize ends at once on a DEFINED table and waits for a
FOLD on a PLACED one. -/
theorem tableOperations : Obligations.TableOperations := by
  intro s f
  refine ⟨fun b t n hn h hr hf ho h0 hrange halign hstride hsrc => ?_, fun o n k st q v hw hid hn hrows => ?_,
    fun b t n code hn hcode h hr hlk hh hf ho hheld hcap hint4 => ?_, fun o t n code hw hid hn hcode hlk hh hp => ?_⟩
  · subst hn
    have hgood : GoodSource t b := ⟨hrange, halign, fun _ => hstride, hsrc⟩
    exact ⟨fun hun => fail_replied (sel := fun _ => true) h rfl (tableLoad_unready hr h0 hgood hf ho hun) rfl,
      fun hp hused hheld =>
        start_run (sel := fun _ => true) h rfl (tableLoad_ready hr h0 hgood hf ho hp hused) rfl hheld hheld rfl⟩
  · subst hn
    refine ⟨fun hst => ?_, load_fails hw hid hrows, fun hst => ?_⟩
    · obtain ⟨z, hexec, hrec, hz, htab⟩ := load_ends hw hid hrows hst
      refine ⟨z, hexec, hrec, hz, fun x hx => ⟨_, htab x hx, rfl, rfl, loadedTable_epoch .., loadedTable_complete, ?_⟩⟩
      exact fun lo hi hinc hlo hhi => loadedTable_covered hinc hlo hhi
    · rw [exec_tableLoad_works hw, loadGo_waits hrows hst]
  · subst hn hcode
    have hbody := tableRequantize_go hr hf ho hcap hint4
    refine ⟨fun hp => requant_defined h (hbody.trans (requantStart_defined hp)) hlk hh hheld hp, fun hp hsp => ?_,
      fun hp hsp n hn => ⟨fun hshort => ?_, fun l v hroom htake => ?_⟩⟩
    · exact fail_replied (sel := fun _ => true) h rfl (hbody.trans (requantStart_spilled hp hsp)) rfl
    · exact fail_replied (sel := fun _ => true) h rfl (hbody.trans (requantStart_short hp hsp hn hshort)) rfl
    · exact requant_starts h (hbody.trans (requantStart_placed hp hsp hn hroom htake)) htake hheld
  · subst hn hcode
    refine ⟨fun hfold => ?_, requant_ends hw hid hlk hh hp⟩
    rw [exec_tableRequantize_works hw, requantGo_waits hlk hp hfold]

end Sys2Proof.Machine
end

section
/-! O43: the placement planner (R243 to R248). -/

namespace Sys2Proof.Machine

/-! ### The checks of both commands -/

/-- The function may plan or commit for the request's target: remote shards need POD, a VF plans for its own partition, and
PF0's target partition is ACTIVE (R246). -/
structure MayPlace (s : State) (f : Nat) (b : List Byte) : Prop where
  pod : (placeTables s f b).any (Table.remote s) = true → capOn s f 7 = true
  own : f ≠ 0 → placeTarget b = partOfFn f
  active : f = 0 → placeTarget b < 32 → (part s (placeTarget b)).st = .active

section
variable {s : State} {f : Nat} {b : List Byte} {commit : Bool} {k : List Table → MOut}
  (hrange : firstFail (placeRange b commit) = none) (hmay : MayPlace s f b)
include hrange hmay

/-- Of these checks, that every listed table is reached comes last. -/
theorem placeChecks_mayPlace : placeChecks s f b commit k =
    checked [(decide ((placeTables s f b).length < placeNtab b), 0x18, 0)]
      (match (placeTables s f b).findSome? (fun t => tableHolder s t.handle) with
       | some o => .held o
       | none => k (placeTables s f b)) := by
  refine (checked_ok (rangeBad_ok hrange) _ _).trans ((checked_ok ?_ _ _).trans ((checked_ok ?_ _ _).trans (checked_ok ?_ _ _)))
  · by_cases hrem : (placeTables s f b).any (Table.remote s) = true
    · simp only [hmay.pod hrem, Bool.not_true, Bool.and_false]
    · simp only [hrem, Bool.false_and]
  · by_cases hf : f = 0
    · simp [hf]
    · simp [hmay.own hf]
  · by_cases hp : f = 0 ∧ placeTarget b < 32
    · simp [hmay.active hp.1 hp.2]
    · simpa using fun hf hlt => absurd ⟨hf, hlt⟩ hp

theorem placeChecks_unreached (hlen : (placeTables s f b).length < placeNtab b) :
    placeChecks s f b commit k = .fail 0x18 0 :=
  (placeChecks_mayPlace hrange hmay).trans (checked_bad (decide_eq_true hlen) _ _)

theorem placeChecks_free (hlen : placeNtab b ≤ (placeTables s f b).length)
    (hfree : ∀ t ∈ placeTables s f b, tableHolder s t.handle = none) :
    placeChecks s f b commit k = k (placeTables s f b) := by
  refine (placeChecks_mayPlace hrange hmay).trans ((checked_ok (decide_eq_false (Nat.not_lt.2 hlen)) _ _).trans ?_)
  rw [checked_nil, List.findSome?_eq_none_iff.2 hfree]

end

/-- A commit that does not fit names no wrong spill address. -/
theorem placeCommit_short {s : State} {f : Nat} {b : List Byte} (hrange : firstFail (placeRange b true) = none)
    (hmay : MayPlace s f b) (hlen : placeNtab b ≤ (placeTables s f b).length)
    (hfree : ∀ t ∈ placeTables s f b, tableHolder s t.handle = none) (hshort : (measureHere s f b).short ≠ 0) :
    placeCommit s f b = .start (measureHere s f b).need [] s := by
  refine (placeChecks_free hrange hmay hlen hfree).trans (checked_ok (rangeBad_of_pass fun e he => ?_) _ _)
  obtain ⟨x, -, rfl⟩ := List.mem_map.1 he
  simp [hshort]

/-! ### The work -/

/-- A plan whose devices are all measured writes its result and ends DONE (R245). -/
theorem planGo_measured {s v : State} {o x : Op} {ms : List Measure} (hv : v = askOp s o (planNeeds s o))
    (hx : opOf v o.key = some x) (hms : planMeasures v x = ms.map some) : planGo s o =
    writeResult v { x with unitsDone := ms.length } (resultSize ms.length (placeTables v x.fn x.req).length)
      (placeResult (placeTables v x.fn x.req) ms false) (fun w => finishOp w { x with unitsDone := ms.length } .done 0 0) := by
  have hcount : ((ms.map some).filter (·.isSome)).length = ms.length := by
    rw [List.filter_eq_self.2 (by simp), List.length_map]
  have hall : (ms.map some).any (·.isNone) = false := by simp
  have hback : (ms.map some).filterMap id = ms := by simp [List.filterMap_map]
  simp only [planGo, ← hv, hx, hms, hcount, hall, hback]
  rfl

section
variable {s : State} {o : Op} {ts : List Table} {m : Measure} (hts : ts = placeTables s o.fn o.req)
  (hm : m = measureHere s o.fn o.req)
include hts hm

/-- A commit that does not fit takes nothing (R247). -/
theorem commitGo_short (hshort : m.short ≠ 0) : commitGo s o = writeResult s o (resultSize 1 ts.length)
    (placeResult ts [m] false) (fun w => finishOp w o .failed 0x16 1) := by
  subst hts hm
  simp only [commitGo, if_neg hshort]

/-- A commit of one DEFINED table that fits takes its pages and places it. -/
theorem commitGo_fits {t : Table} (hfit : m.short = 0) (hone : ts = [t]) (hp : t.placed = false) {l : List Nat} {v : State}
    (htake : takePages s (fun _ => .object t.owner)
      (tableNeed t m.dev - (m.spill.filter (fun e => e.1 == t.handle)).length) = some (l, v)) :
    commitGo s o = writeResult s o (resultSize 1 ts.length) (placeResult ts [m] true) (fun w =>
      finishOp (placeTable { w with pages := v.pages } t m (fnOfPart (placeTarget o.req))
        (leAt o.req (placeSpillAt o.req 0) 8) l).1 { o with unitsDone := m.need } .done 0 0) := by
  have hdefined : ts.filter (fun t => !t.placed) = [t] := by simp [hone, hp]
  simp only [commitGo, ← hts, ← hm, if_pos hfit, hdefined, List.foldl_cons, List.foldl_nil, htake, Option.map_some,
    List.nil_append]
  subst hone
  rfl

end

/-- A table placed on this device is PLACED with an empty ledger, and nothing else of its descriptor changes. -/
theorem placeTable_listed {s : State} {t : Table} {m : Measure} (fn addr : Nat) (l : List Nat) (hp : t.placed = false)
    (hholds : t.holds m.dev ≠ []) : ∃ stores ledger, (placeTable s t m fn addr l).1 =
      setTable s { t with placed := true, stores := stores, ledger := ledger, foldCount := 0, used := 0 } := by
  unfold placeTable
  dsimp only
  rw [if_neg (by simp [hp, hholds])]
  exact ⟨_, _, rfl⟩

/-! ### The clauses -/

section
variable {s : State} {f : Fn}

theorem exec_placePlan_works {o : Op} (h : Works s f.val 0x306 o) : exec (.placePlan f) s = .next (planGo s o) :=
  congrArg Host.Outcome.next (works_run h (sel := fun _ => true) rfl)

theorem exec_placeCommit_works {o : Op} (h : Works s f.val 0x307 o) : exec (.placeCommit f) s = .next (commitGo s o) :=
  congrArg Host.Outcome.next (works_run h (sel := fun _ => true) rfl)

end

/-- Settles O43: both commands share their checks; a plan ends once it has every measure, and a commit fails whole or places
its table on the pages taken. -/
theorem placementOperations : Obligations.PlacementOperations := by
  intro s f
  refine ⟨fun b ts p hts hp hpod hown hact => ?_, fun o v x ms ts hw hv hx hts hms => ?_, fun o m ts n hw hts hm hn => ?_,
    fun t m fn addr l hp hholds => ?_⟩
  · subst hts hp
    have hmay : MayPlace s f.val b := ⟨hpod, hown, hact⟩
    refine ⟨fun h hrange => ⟨fun hlen => ?_, fun hlen hfree hheld => ?_⟩, fun h hrange => ⟨fun hlen => ?_,
      fun m hm hlen hfree hheld hshort => ?_⟩⟩
    · exact fail_replied (sel := fun _ => true) h rfl (placeChecks_unreached hrange hmay hlen) rfl
    · exact start_run (sel := fun _ => true) h rfl (placeChecks_free hrange hmay hlen hfree) rfl hheld hheld rfl
    · exact fail_replied (sel := fun _ => true) h rfl (placeChecks_unreached hrange hmay hlen) rfl
    · subst hm
      exact start_run (sel := fun _ => true) h rfl (placeCommit_short hrange hmay hlen hfree hshort) rfl hheld hheld rfl
  · subst hts
    rw [exec_placePlan_works hw, planGo_measured hv hx hms]
  · subst hn
    rw [exec_placeCommit_works hw]
    exact ⟨fun hshort => by rw [commitGo_short hts hm hshort],
      fun t hfit hone hp l v htake => by rw [commitGo_fits hts hm hfit hone hp htake]⟩
  · obtain ⟨stores, ledger, hplaced⟩ := placeTable_listed (s := s) fn addr l hp hholds
    rw [hplaced]
    exact ⟨_, lk_put_self .., rfl, rfl, rfl, rfl, rfl, fun k hk => lk_put_ne _ _ hk⟩

end Sys2Proof.Machine
end

section
/-! Concrete inputs that meet the hypotheses of O40 to O43, with what the statements then say of them. -/

namespace Sys2Proof.Machine

/-- A RUNNING operation of PF0 for the request with these first bytes. -/
def pf0Op (op : Nat) (l : List Byte) : Op :=
  { key := 0, id := 1, opcode := op, fn := 0, st := .running, finalMs := 0, finalDetail := 0, unitsDone := 0, unitsTotal := 1
    req := reqBytes (pf0Req l), at_ := 0, land := [], asked := [], ex := [], acc := [] }

/-! ### O40 -/

/-- PARTITION_WIPE of partition 0. -/
def wipeReq : List Byte := [0x04, 0x02, 0, 0, 0x0C, 0, 0, 0, 0, 0, 0, 0]

/-- Partition 0 with a quota of 16 pages. -/
def onePart : Tab Part := [(0, ⟨.active, { Quota.none with memPages := 16 }, 7⟩)]

/-- A device with partition 0, whose stream 0 has a task in flight, and this request of PF0. -/
def wipeAsked : State := { pf0Asked wipeReq with
  parts := onePart
  streams := [(0, { Stream.idle with slot := some (1, 0), task := some (TaskRun.start 0 (List.replicate 64 0) 0 none) })] }

theorem wipeAsked_ready : Ready wipeAsked 0 0x204 (reqBytes (pf0Req wipeReq)) := by
  refine ⟨pf0Req wipeReq, ⟨?_, ?_, ?_, ?_, ?_⟩, ?_, ?_, ?_⟩ <;> decide +kernel

/-- The wipe starts, and waits for the task. -/
theorem partitionWipe_starts : ∃ t o w, exec (.partitionWipe 0) wipeAsked = .next t ∧
    Started w t 0 0x204 16 (reqBytes (pf0Req wipeReq)) [] [] o ∧ (part w 0).st = .wiping := by
  obtain ⟨hrow, -⟩ := partitionWipeAndDestroy wipeAsked 0 rfl
  obtain ⟨hstart, -⟩ := hrow _ 0 0x204 .wiping _ (.inl ⟨rfl, rfl, rfl⟩) wipeAsked_ready (by decide +kernel) (by decide)
  obtain ⟨t, o, w, hexec, hstarted, hpart, -⟩ := hstart rfl (by decide +kernel) (by simp [wipeAsked, pf0Asked, State.reset])
    ⟨0, by decide +kernel, rfl⟩
  exact ⟨t, o, w, hexec, hstarted, congrArg Part.st hpart⟩

/-- A device that wipes partition 0, with no stream of it. -/
def wipeRunning : State := { State.reset with
  parts := [(0, ⟨.wiping, { Quota.none with memPages := 16 }, 7⟩)], ops := [pf0Op 0x204 wipeReq] }

theorem wipeRunning_works : Works wipeRunning 0 0x204 (pf0Op 0x204 wipeReq) := by
  refine ⟨?_, ?_, ?_, ?_, ?_, ?_, ?_, ?_⟩ <;> decide +kernel

/-- The wipe ends, and the partition is ACTIVE in its next generation. -/
theorem partitionWipe_ends : ∃ t, exec (.partitionWipe 0) wipeRunning = .next t ∧
    part t 0 = ⟨.active, { Quota.none with memPages := 16 }, 8⟩ := by
  obtain ⟨-, hend⟩ := partitionWipeAndDestroy wipeRunning 0 rfl
  obtain ⟨hwipe, -⟩ := hend (pf0Op 0x204 wipeReq) 0 (by decide) (by decide +kernel)
    (by simp [fnStreams, wipeRunning, State.reset]) (by decide +kernel) (by decide +kernel)
  obtain ⟨t, hexec, -, hpart, -⟩ := hwipe wipeRunning_works
  exact ⟨t, hexec, hpart⟩

/-! ### O41 -/

/-- TABLE_CREATE of table 0 of the driver domain: eight rows of 16 elements, one shard on this device. -/
def createTableReq : List Byte := [0x00, 0x03, 0, 0, 0x28, 0, 0, 0, 0, 0, 0, 0x80, 0, 0, 1, 0, 8, 0, 0, 0, 0, 0, 0, 1]

/-- That table. -/
def smallTable : Table := parseTable (reqBytes (pf0Req createTableReq))

theorem createTableReq_ready : Ready (pf0Asked createTableReq) 0 0x300 (reqBytes (pf0Req createTableReq)) := by
  refine ⟨pf0Req createTableReq, ⟨?_, ?_, ?_, ?_, ?_⟩, ?_, ?_, ?_⟩ <;> decide +kernel

/-- The table is listed, DEFINED. -/
theorem tableCreate_small : ∃ z u, exec (.tableCreate 0) (pf0Asked createTableReq) = .next z ∧ Replied u z 0 0 0 0 [] ∧
    lk u.tables 0x80000000 = some smallTable ∧ smallTable.placed = false := by
  obtain ⟨hcreate, -⟩ := tableCommands (pf0Asked createTableReq) 0 (reqBytes (pf0Req createTableReq)) _ rfl
  have hn : smallTable.nshard = 1 := by decide +kernel
  obtain ⟨hnew, -⟩ := hcreate createTableReq_ready smallTable rfl (by decide +kernel) (by decide +kernel) (by decide +kernel)
    (by decide +kernel) (by decide +kernel) (by decide +kernel) (by decide +kernel) (by decide +kernel)
    (fun i hi => by obtain rfl : i = 0 := by omega
                    decide +kernel) (by decide +kernel) (by decide +kernel) (by decide +kernel)
  obtain ⟨z, u, hexec, hrep, hlk, hplaced, -⟩ := hnew (by decide +kernel) (by decide +kernel)
  have hh : smallTable.handle = 0x80000000 := by decide +kernel
  exact ⟨z, u, hexec, hrep, hh ▸ hlk, hplaced⟩

/-- A device with that table and a request of PF0. -/
def withTable0 (t : Table) (l : List Byte) : State := { pf0Asked l with tables := [(0x80000000, t)] }

/-- TABLE_DESTROY of that table. -/
def destroyTableReq : List Byte := [0x02, 0x03, 0, 0, 0x0C, 0, 0, 0, 0, 0, 0, 0x80]

theorem destroyTableReq_ready :
    Ready (withTable0 smallTable destroyTableReq) 0 0x302 (reqBytes (pf0Req destroyTableReq)) := by
  refine ⟨pf0Req destroyTableReq, ⟨?_, ?_, ?_, ?_, ?_⟩, ?_, ?_, ?_⟩ <;> decide +kernel

/-- It goes. -/
theorem tableDestroy_small : ∃ z u, exec (.tableDestroy 0) (withTable0 smallTable destroyTableReq) = .next z ∧
    Replied u z 0 0 0 0 [] ∧ lk u.tables smallTable.handle = none := by
  obtain ⟨-, hdestroy, -⟩ := tableCommands (withTable0 smallTable destroyTableReq) 0 (reqBytes (pf0Req destroyTableReq)) _ rfl
  obtain ⟨-, hreached⟩ := hdestroy destroyTableReq_ready
  obtain ⟨-, -, -, hgone⟩ := hreached smallTable (by decide +kernel)
  obtain ⟨z, u, hexec, hrep, hlk, -⟩ := hgone (by decide +kernel) (by decide +kernel) (by decide +kernel) (by decide +kernel)
  exact ⟨z, u, hexec, hrep, hlk⟩

/-! ### O42 -/

/-- The table on page 2,000 of this device. -/
def placedTable : Table := { smallTable with placed := true, stores := [⟨0, false, [.dev 2000]⟩] }

/-- TABLE_LOAD of its eight rows, from host memory at 4,096. -/
def loadReq : List Byte := [0x01, 0x03, 0, 0, 0x2C, 0, 0, 0, 0, 0, 0, 0x80, 0, 0, 0, 0, 0, 0, 0, 0, 0, 0, 0, 0,
  8, 0, 0, 0, 64, 0, 0, 0, 0, 0x10, 0, 0]

theorem loadReq_ready : Ready (withTable0 placedTable loadReq) 0 0x301 (reqBytes (pf0Req loadReq)) := by
  refine ⟨pf0Req loadReq, ⟨?_, ?_, ?_, ?_, ?_⟩, ?_, ?_, ?_⟩ <;> decide +kernel

/-- The load starts with eight units. -/
theorem tableLoad_starts : ∃ z o u, exec (.tableLoad 0) (withTable0 placedTable loadReq) = .next z ∧
    Started (withTable0 placedTable loadReq) u 0 0x301 8 (reqBytes (pf0Req loadReq)) [] [] o := by
  obtain ⟨hstart, -⟩ := tableOperations (withTable0 placedTable loadReq) 0
  obtain ⟨-, hready⟩ := hstart (reqBytes (pf0Req loadReq)) placedTable _ rfl loadReq_ready (by decide +kernel)
    (by decide +kernel) (by decide +kernel) (by decide +kernel) (by decide +kernel) (by decide +kernel)
    (by decide +kernel) (by decide +kernel)
  obtain ⟨z, o, u, hexec, -, hstarted⟩ := hready rfl (by decide +kernel) (by decide +kernel)
  have hrows : (rowsHere placedTable (leAt (reqBytes (pf0Req loadReq)) 0x10 5)
    (leAt (reqBytes (pf0Req loadReq)) 0x18 4)).length = 8 := by decide +kernel
  exact ⟨z, o, u, hexec, hrows ▸ hstarted⟩

/-- A device that works on an operation of PF0 on this table. -/
def tableRunning (t : Table) (o : Op) : State := { State.reset with tables := [(0x80000000, t)], ops := [o] }

theorem load_works : Works (tableRunning placedTable (pf0Op 0x301 loadReq)) 0 0x301 (pf0Op 0x301 loadReq) := by
  refine ⟨?_, ?_, ?_, ?_, ?_, ?_, ?_, ?_⟩ <;> decide +kernel

/-- Its first source row has not landed: the load asks for it, and no row is done. -/
theorem tableLoad_asks : ∃ q v, exec (.tableLoad 0) (tableRunning placedTable (pf0Op 0x301 loadReq)) =
    .next (askOp v (pf0Op 0x301 loadReq) q) ∧ q ≠ [] := by
  obtain ⟨-, hwork, -⟩ := tableOperations (tableRunning placedTable (pf0Op 0x301 loadReq)) 0
  obtain ⟨-, -, hask⟩ := hwork (pf0Op 0x301 loadReq) _ _ _ _ _ load_works (by decide) rfl rfl
  exact ⟨_, _, hask (by decide +kernel), by decide +kernel⟩

/-- TABLE_REQUANTIZE of the table to INT4. -/
def requantReq : List Byte := [0x08, 0x03, 0, 0, 0x14, 0, 0, 0, 0, 0, 0, 0x80, 1, 0, 0, 0]

theorem requant_works : Works (tableRunning placedTable { pf0Op 0x308 requantReq with acc := [3000] }) 0 0x308
    { pf0Op 0x308 requantReq with acc := [3000] } := by
  refine ⟨?_, ?_, ?_, ?_, ?_, ?_, ?_, ?_⟩ <;> decide +kernel

/-- The table ends on the page taken, under the new code. -/
theorem tableRequantize_ends : ∃ z x,
    exec (.tableRequantize 0) (tableRunning placedTable { pf0Op 0x308 requantReq with acc := [3000] }) = .next z ∧
    lk z.tables 0x80000000 = some x ∧ x.code = 1 ∧ x.stores = [⟨0, false, [.dev 3000]⟩] := by
  obtain ⟨-, -, -, hwork⟩ := tableOperations (tableRunning placedTable { pf0Op 0x308 requantReq with acc := [3000] }) 0
  obtain ⟨-, hend⟩ := hwork { pf0Op 0x308 requantReq with acc := [3000] } placedTable 0x80000000 1 requant_works (by decide)
    (by decide +kernel) (by decide +kernel) (by decide +kernel) (by decide +kernel) rfl
  obtain ⟨z, x, hexec, -, hlk, hcode, hstores, -⟩ := hend rfl
  have hdealt : dealPages (placedTable.withCode 1) placedTable.stores [3000] = [⟨0, false, [.dev 3000]⟩] := by decide +kernel
  exact ⟨z, x, hexec, hlk, hcode, hstores.trans hdealt⟩

/-! ### O43 -/

/-- PLACE_PLAN of the table for the driver domain, with the result at 4,096. -/
def planReq : List Byte := [0x06, 0x03, 0, 0, 0x1C, 0, 0, 0, 0xFF, 0, 1, 0, 0, 0, 0, 0, 0, 0x10, 0, 0, 0, 0, 0, 0, 0, 0, 0, 0x80]

theorem planReq_ready : Ready (withTable0 smallTable planReq) 0 0x306 (reqBytes (pf0Req planReq)) := by
  refine ⟨pf0Req planReq, ⟨?_, ?_, ?_, ?_, ?_⟩, ?_, ?_, ?_⟩ <;> decide +kernel

/-- The plan starts with one device to measure. -/
theorem placePlan_starts : ∃ z o u, exec (.placePlan 0) (withTable0 smallTable planReq) = .next z ∧
    Started (withTable0 smallTable planReq) u 0 0x306 1 (reqBytes (pf0Req planReq)) [] [] o := by
  obtain ⟨hstart, -⟩ := placementOperations (withTable0 smallTable planReq) 0
  obtain ⟨hplan, -⟩ := hstart (reqBytes (pf0Req planReq)) [smallTable] 32 (by decide +kernel) (by decide +kernel)
    (by decide +kernel) (by decide) (by decide)
  obtain ⟨-, hreached⟩ := hplan planReq_ready (by decide +kernel)
  obtain ⟨z, o, u, hexec, -, hstarted⟩ := hreached (by decide +kernel) (by decide +kernel) (by decide +kernel)
  have hdevs : (placeDevs [smallTable]).length = 1 := by decide +kernel
  exact ⟨z, o, u, hexec, hdevs ▸ hstarted⟩

/-- PLACE_COMMIT of the same. -/
def commitReq : List Byte := [0x07, 0x03, 0, 0, 0x24, 0, 0, 0, 0xFF, 0, 1, 0, 0, 0, 0, 0, 0, 0x10, 0, 0, 0, 0, 0, 0, 0, 0, 0, 0x80]

/-- A device that commits that plan after its init sweep. -/
def committing : State :=
  { tableRunning smallTable (pf0Op 0x307 commitReq) with fw := { State.reset.fw with initDone := true } }

theorem commit_works : Works committing 0 0x307 (pf0Op 0x307 commitReq) := by
  refine ⟨?_, ?_, ?_, ?_, ?_, ?_, ?_, ?_⟩ <;> decide +kernel

/-- The table needs one page and takes the lowest free one; it is placed there once the result, of 56 bytes, is written. -/
theorem placeCommit_fits : ∃ v m, takePages committing (fun _ => .object 32) 1 = some ([1504], v) ∧
    exec (.placeCommit 0) committing = .next (writeResult committing (pf0Op 0x307 commitReq) 56
      (placeResult [smallTable] [m] true) (fun w => finishOp (placeTable { w with pages := v.pages } smallTable m
        (fnOfPart (placeTarget (pf0Op 0x307 commitReq).req))
        (leAt (pf0Op 0x307 commitReq).req (placeSpillAt (pf0Op 0x307 commitReq).req 0) 8) [1504]).1
        { pf0Op 0x307 commitReq with unitsDone := m.need } .done 0 0)) := by
  have hpage : (takePages committing (fun _ => .object 32) 1).map (·.1) = some [1504] := by decide +kernel
  obtain ⟨⟨l, v⟩, htake, rfl⟩ := Option.map_eq_some_iff.1 hpage
  obtain ⟨-, -, hwork, -⟩ := placementOperations committing 0
  obtain ⟨-, hfits⟩ := hwork (pf0Op 0x307 commitReq) _ [smallTable] 56 commit_works (by decide +kernel) rfl (by decide +kernel)
  have hneed : tableNeed smallTable (measureHere committing 0 (pf0Op 0x307 commitReq).req).dev -
      ((measureHere committing 0 (pf0Op 0x307 commitReq).req).spill.filter (fun e => e.1 == smallTable.handle)).length = 1 := by
    decide +kernel
  have howner : smallTable.owner = 32 := by decide +kernel
  exact ⟨v, _, htake, hfits smallTable (by decide +kernel) rfl (by decide +kernel) _ v
    ((congrArg₂ (fun n p => takePages committing (fun _ => .object p) n) hneed howner).trans htake)⟩

end Sys2Proof.Machine
end

section
/-! O8: snapshots (R141 to R145). -/

namespace Sys2Proof.Machine

variable {s : State} {f : Nat}

/-- A capture of one function leaves the other functions' engines alone. -/
theorem snapOf_setSnap_ne {g : Nat} (x : Snap) (h : g ≠ f) : snapOf (setSnap s f x) g = snapOf s g :=
  lkD_put_ne _ _ _ h

/-- SNAP_CMD takes a token where bits [31:16] are zero (R142, R145). -/
theorem exec_snapCmdWrite {f : Fn} (h : Served s f.val) (v : W32) : exec (.snapCmdWrite f v) s = .next
    (if v.toNat / 65536 = 0 then
      setSnap s f.val { snapOf s f.val with pending := some (BitVec.ofNat 16 v.toNat) }
    else s) := by
  obtain ⟨hserved, hboot⟩ := h
  simp [exec, execSnapCmdWrite, snapCmd, hserved, hboot]

/-- With supply, SNAPSHOT_CAPTURE reaches the function's engine. -/
theorem exec_snapshotCapture (hoff : s.pwr.off = false) (f : Fn) :
    exec (.snapshotCapture f) s = .next (snapCapture s f.val) := by
  simp [exec, execSnapshotCapture, hoff]

/-- What a capture puts into the holding registers: the words of the window that are not zero. -/
def windowHeld (s : State) (f : Nat) : Tab W32 :=
  ((List.range 1024).map (fun i => (4 * i, liveWord s f (0x3000 + 4 * i)))).filter (fun e => e.2 != 0)

theorem lkD_windowHeld {i : Nat} (h : i < 1024) : lkD (windowHeld s f) (4 * i) 0 = liveWord s f (0x3000 + 4 * i) :=
  lkD_map_filter _ (4 * ·) _ 0 i (fun a b hab => by omega) (List.mem_range.2 h)

/-- A pending capture is made where the HOSTIF engines run. -/
theorem snapCapture_pending (hrun : dom s 3 = 0) {tok : W16} (hp : (snapOf s f).pending = some tok) :
    ∃ d, snapCapture s f = setSnap s f ⟨none, tok, (snapOf s f).count + 1, s.clk.aon, d, windowHeld s f⟩ := by
  simp only [snapCapture, hp, hrun, ne_eq, not_true_eq_false, if_false]
  exact ⟨_, rfl⟩

/-- There is nothing to capture, or the engines sleep. -/
theorem snapCapture_idle (h : (snapOf s f).pending = none ∨ dom s 3 ≠ 0) : snapCapture s f = s := by
  rcases h with hp | hsleep
  · simp [snapCapture, hp]
  · simp only [snapCapture, if_pos hsleep]
    split <;> rfl

/-- Settles O8: a command replaces the function's token, and a capture its token, time, count and holding registers. -/
theorem snapshotCapturesTheWindow : Obligations.SnapshotCapturesTheWindow := by
  intro s f v
  refine ⟨fun hserved hv => ?_, fun hserved hv => ?_, fun tok hoff hrun hp => ?_, fun h => ?_⟩
  · rw [exec_snapCmdWrite hserved, if_pos hv]
    exact ⟨_, rfl, snapOf_setSnap_self .., fun g hg => snapOf_setSnap_ne _ hg, rfl⟩
  · rw [exec_snapCmdWrite hserved, if_neg hv]
  · obtain ⟨d, hcapture⟩ := snapCapture_pending hrun hp
    rw [exec_snapshotCapture hoff, hcapture]
    refine ⟨_, rfl, ?_⟩
    simp only [snapOf_setSnap_self, true_and]
    exact ⟨fun i hi => lkD_windowHeld hi, fun g hg => snapOf_setSnap_ne _ hg, rfl⟩
  · simp only [exec, execSnapshotCapture, snapCapture_idle h, ite_self]

end Sys2Proof.Machine
end

section
/-! O10: writes of configuration registers and of their aliases (R132, R134 to R137). -/

namespace Sys2Proof.Machine

section
variable {s : State} {f : Nat} {v : W32} {i : RegInfo}

/-- A write of a register of a slot: staged where a stream is assigned to the slot. -/
theorem configWrite_slot {off : Nat} (hlo : 0x2000 ≤ off) (hhi : off < 0x3000)
    (hi : slotReg ((off - 0x2000) % 0x40) = some i) : configWrite s f false off v =
      if (slotStream s f ((off - 0x2000) / 0x40)).isSome then setStaged s (rk f off) (v &&& i.mask) else s := by
  have hinfo : regInfo false off = some i := by simp [regInfo, hlo, hhi, hi]
  simp [configWrite, hinfo]

/-- A write of a register of PF0's BAR2. -/
theorem configWrite_bar2 {off : Nat} (hi : bar2Reg off = some i) :
    configWrite s 0 true off v = setStaged s (rk2 off) (v &&& i.mask) := by
  have hinfo : regInfo true off = some i := hi
  simp [configWrite, hinfo]

/-- STR_CTRL has three defined bits. -/
theorem slotReg_strCtrl : slotReg 8 = some ⟨0, 7, .task⟩ := rfl

/-- The indices of a slot's stream and its status are no configuration registers (Table 3.8). -/
theorem slotReg_offset_ne {o : Nat} (hi : slotReg o = some i) : o ≠ 0 ∧ o ≠ 4 ∧ o ≠ 0x24 ∧ o ≠ 0x28 := by
  refine ⟨?_, ?_, ?_, ?_⟩ <;> rintro rfl <;> simp [slotReg] at hi

/-- In the window of the slots a write of BAR0 that is not one of STR_TAIL is a configuration write. -/
theorem writeBar0_slot {off : Nat} (hlo : 0x2000 ≤ off) (hhi : off < 0x3000)
    (hi : slotReg ((off - 0x2000) % 0x40) = some i) : writeBar0 s f off v = configWrite s f false off v := by
  have htail : off % 64 ≠ 0 := by have := (slotReg_offset_ne hi).1; omega
  simp [writeBar0, hlo, hhi, htail, show off ≠ 0x400 by omega, show ¬off < 0x1000 by omega]

/-- A staged value is recorded; no other changes. -/
theorem setStaged_spec (s : State) (k : Nat) (w : W32) : staged (setStaged s k w) k = w ∧
    (∀ j, j ≠ k → staged (setStaged s k w) j = staged s j) ∧
    setStaged s k w = { s with cfg := { s.cfg with staged := (setStaged s k w).cfg.staged } } :=
  ⟨staged_setStaged_self .., fun _ hj => staged_setStaged_ne s _ hj, rfl⟩

end

section
variable {s : State} {f : Fn}

/-- REGISTER_WRITE of an aligned word reaches the write of its BAR. -/
theorem exec_registerWrite (h : Served s f.val) (bar2 : Bool) {off : BitVec 24} (hword : off.toNat % 4 = 0) (v : W32) :
    exec (.registerWrite f bar2 off v) s = .next (if bar2 then configWrite s f.val true off.toNat v
      else if off.toNat < 0x10000 then writeBar0 s f.val off.toNat v else s) := by
  obtain ⟨hserved, hboot⟩ := h
  simp [exec, execRegisterWrite, hserved, hboot, hword]

theorem exec_registerWrite_slot (h : Served s f.val) {off : BitVec 24} {i : RegInfo} (hlo : 0x2000 ≤ off.toNat)
    (hhi : off.toNat < 0x3000) (hword : off.toNat % 4 = 0) (hi : slotReg ((off.toNat - 0x2000) % 0x40) = some i) (v : W32) :
    exec (.registerWrite f false off v) s = .next
      (if (slotStream s f.val ((off.toNat - 0x2000) / 0x40)).isSome then setStaged s (rk f.val off.toNat) (v &&& i.mask)
       else s) := by
  rw [exec_registerWrite h false hword, if_neg Bool.false_ne_true, if_pos (by omega), writeBar0_slot hlo hhi hi,
    configWrite_slot hlo hhi hi]

/-- ALIAS_WRITE of a bit word reaches the write of its bit. -/
theorem exec_aliasWrite (h : Served s f.val) {slot bit : Nat} {off : BitVec 16} (hslot : slot < 64) (hbit : bit < 32)
    (hoff : off.toNat = 0x8000 + 0x80 * slot + 4 * bit) (v : W32) :
    exec (.aliasWrite f off v) s = .next (aliasWrite s f.val (0x8000 + 0x80 * slot + 4 * bit) v) := by
  obtain ⟨hserved, hboot⟩ := h
  simp [exec, execAliasWrite, hserved, hboot, hoff, show (0x8000 + 0x80 * slot + 4 * bit) % 4 = 0 by omega,
    show 0x8000 + 0x80 * slot + 4 * bit < 0xC000 by omega, show 0x8000 ≤ 0x8000 + 0x80 * slot + 4 * bit by omega]

end

section
variable {s : State} {f slot bit : Nat} {v : W32} (hslot : slot < 64) (hbit : bit < 32)
include hslot hbit

/-- What a bit word stands for (R135): the slot by 128 bytes, the bit by 4. -/
theorem aliasWrite_eq : aliasWrite s f (0x8000 + 0x80 * slot + 4 * bit) v =
    if v.toNat / 2 ≠ 0 then barRefuse s f (barP0 f false true true (0x8000 + 0x80 * slot + 4 * bit))
    else configWrite s f false (0x2008 + 0x40 * slot)
      (if v = 1 then staged s (slotKey f slot 8) ||| 1#32 <<< bit
       else staged s (slotKey f slot 8) &&& ~~~(1#32 <<< bit)) := by
  have hj : (0x8000 + 0x80 * slot + 4 * bit - 0x8000) / 0x80 = slot := by omega
  have hb : (0x8000 + 0x80 * slot + 4 * bit) % 0x80 / 4 = bit := by omega
  simp only [aliasWrite, hj, hb, if_neg (Nat.not_le.2 hslot)]

/-- A bit word takes 0 and 1 (R136), within the defined bits of STR_CTRL (Table 3.8). -/
theorem aliasWrite_bit (hs : (slotStream s f slot).isSome = true) (hv : v.toNat < 2) :
    aliasWrite s f (0x8000 + 0x80 * slot + 4 * bit) v = setStaged s (slotKey f slot 8)
      ((if v = 1 then staged s (slotKey f slot 8) ||| 1#32 <<< bit
        else staged s (slotKey f slot 8) &&& ~~~(1#32 <<< bit)) &&& 7) := by
  have hoff : (0x2008 + 0x40 * slot - 0x2000) % 0x40 = 8 := by omega
  have hk : (0x2008 + 0x40 * slot - 0x2000) / 0x40 = slot := by omega
  have hi : slotReg ((0x2008 + 0x40 * slot - 0x2000) % 0x40) = some ⟨0, 7, .task⟩ := by
    rw [hoff, slotReg_strCtrl]
  have hkey : rk f (0x2008 + 0x40 * slot) = slotKey f slot 8 := by simp only [slotKey, rk]; omega
  rw [aliasWrite_eq hslot hbit, if_neg (by omega), configWrite_slot (off := 0x2008 + 0x40 * slot) (by omega) (by omega) hi,
    hk, if_pos hs, hkey]

/-- Any other value is refused (R136). -/
theorem aliasWrite_refused (hv : 2 ≤ v.toNat) : aliasWrite s f (0x8000 + 0x80 * slot + 4 * bit) v =
    barRefuse s f (barP0 f false true true (0x8000 + 0x80 * slot + 4 * bit)) := by
  rw [aliasWrite_eq hslot hbit, if_pos (by omega)]

end

/-- Setting or clearing bit n of a word, of which the low three bits are kept, changes that bit alone. -/
theorem getLsbD_set_or_clear (x : W32) {c : Prop} [Decidable c] {b : Nat} (n : Nat) (hb : b < 3) :
    ((if c then x ||| 1#32 <<< n else x &&& ~~~(1#32 <<< n)) &&& 7).getLsbD b = if b = n then decide c else x.getLsbD b := by
  have h7 : (7 : W32).getLsbD b = true := by interval_cases b <;> rfl
  have hbit : (1#32 <<< n).getLsbD b = decide (b = n) := by
    simp only [BitVec.getLsbD_shiftLeft, BitVec.getLsbD_one]
    grind
  by_cases hc : c <;>
    simp only [hc, if_true, if_false, BitVec.getLsbD_and, BitVec.getLsbD_or, BitVec.getLsbD_not, hbit, h7] <;> grind

/-- Settles O10: the defined bits of a written register are staged, by the address or by the word of one bit.
That a read returns them is `registerWrite_reads_back`, below, for the registers of a slot. -/
theorem registerWritesAreStaged : Obligations.RegisterWritesAreStaged := by
  intro s f v hserved
  refine ⟨fun off i hlo hhi hword hi => ?_, fun off i hf hword hi => ?_, fun slot bit off hslot hbit hoff hs => ?_⟩
  · rw [exec_registerWrite_slot hserved hlo hhi hword hi]
    refine ⟨fun hs => ?_, fun hs => ?_⟩
    · rw [if_pos hs]
      exact ⟨_, rfl, setStaged_spec ..⟩
    · rw [hs]; rfl
  · subst hf
    rw [exec_registerWrite hserved true hword, if_pos rfl]
    exact ⟨_, rfl, configWrite_bar2 (s := s) (v := v) hi ▸ setStaged_spec ..⟩
  · rw [exec_aliasWrite hserved hslot hbit hoff]
    refine ⟨fun hv => ?_, fun hv hfirst => ?_⟩
    · rw [aliasWrite_bit hslot hbit hs hv]
      obtain ⟨hself, hother, hframe⟩ := setStaged_spec s (slotKey f.val slot 8) _
      exact ⟨_, rfl, fun b hb => by rw [hself, getLsbD_set_or_clear _ _ hb], hother, hframe⟩
    · rw [aliasWrite_refused hslot hbit hv, ← hoff,
        barRefuse_first s _ _ (fun a ha => nomatch hfirst.symm.trans ha), postG_frame]
      exact ⟨_, rfl, rfl, rfl⟩

/-- The registers of a slot that are not its indices and status read as they were last written (R132). -/
theorem readReg_slot {s : State} {f off : Nat} {i : RegInfo} (hboot : s.fw.haltCause = 0) (hlo : 0x2000 ≤ off)
    (hhi : off < 0x3000) (hi : slotReg ((off - 0x2000) % 0x40) = some i)
    (hs : (slotStream s f ((off - 0x2000) / 0x40)).isSome = true) : readReg s f false off = (staged s (rk f off), s) := by
  obtain ⟨j, hj⟩ := Option.isSome_iff_exists.1 hs
  have hmod : (off - 0x2000) % 0x40 = off % 64 := by omega
  have hkey : slotKey f ((off - 0x2000) / 64) (off % 64) = rk f off := by simp only [slotKey, rk]; omega
  rw [hmod] at hi
  obtain ⟨h0, h4, h24, h28⟩ := slotReg_offset_ne hi
  have hslot : readSlot s f ((off - 0x2000) / 64) (off % 64) = staged s (rk f off) := by
    simp [readSlot, hj, h0, h4, h24, h28, hi, hkey]
  have hbar0 : readBar0 s f off = readSlot s f ((off - 0x2000) / 64) (off % 64) := by
    simp only [readBar0]
    iterate 8 rw [if_neg (by omega)]
    rw [if_pos hhi]
  simp [readReg, hboot, hbar0, hslot, show ¬off < 0x1800 by omega]

/-- A register of a slot, once written, reads as its defined bits were written. -/
theorem registerWrite_reads_back {s : State} {f : Fn} (h : Served s f.val) {off : BitVec 24} {i : RegInfo}
    (hlo : 0x2000 ≤ off.toNat) (hhi : off.toNat < 0x3000) (hword : off.toNat % 4 = 0)
    (hi : slotReg ((off.toNat - 0x2000) % 0x40) = some i)
    (hs : (slotStream s f.val ((off.toNat - 0x2000) / 0x40)).isSome = true) (v : W32) :
    ∃ t, exec (.registerWrite f false off v) s = .next t ∧ readReg t f.val false off.toNat = (v &&& i.mask, t) := by
  rw [exec_registerWrite_slot h hlo hhi hword hi, if_pos hs]
  refine ⟨_, rfl, ?_⟩
  rw [readReg_slot (s := setStaged s _ _) h.2 hlo hhi hi hs, staged_setStaged_self]

end Sys2Proof.Machine
end

section
/-! O5: the state after reset. Every table of it lists nothing, so that each view reads what an unlisted key reads as. -/

namespace Sys2Proof.Machine

/-- Every configuration register is at its Reset value in all three copies (R132, R147). -/
theorem registers_reset (k : Nat) :
    staged State.reset k = keyReset k ∧ committed State.reset k = keyReset k ∧ effective State.reset k = keyReset k :=
  ⟨lkD_nil .., lkD_nil .., lkD_nil ..⟩

/-- Every mailbox is as after the reset of its function (R102, Table 4.1). -/
theorem mbxOf_reset (f : Nat) : mbxOf State.reset f = Mbx.fresh := lkD_nil ..

theorem mailbox_reset (f : Nat) :
    mbxState State.reset f = 0 ∧ (mbxOf State.reset f).rspSeq = 0 ∧ (mbxOf State.reset f).latched = none := by
  simp only [mbxState, mbxOf_reset]
  exact ⟨rfl, rfl, rfl⟩

/-- Settles O5, part by part: the registers, the mailboxes, and the views of the other empty tables. -/
theorem resetState : Obligations.ResetState := by
  exact ⟨rfl, rfl, registers_reset, fun k => lkD_nil .., rfl, rfl, mailbox_reset, fun i => lkD_nil ..,
    fun j => lkD_nil .., rfl, rfl, rfl, rfl, rfl, fun k => lkD_nil .., rfl, rfl, fun d => lkD_nil .., rfl, rfl⟩

end Sys2Proof.Machine
end

section
/-! Concrete inputs that meet the hypotheses of O8 and O10, with what the statements then say of them. -/

namespace Sys2Proof.Machine

theorem served_reset : Served State.reset 0 := by constructor <;> decide +kernel

theorem served_withStream (x : Stream) : Served (withStream x) 0 := served_reset

/-- A device that has counted five tail writes of PF0, with a capture of PF0 pending. -/
def fiveCounted : State :=
  setSnap (cntAdd State.reset (rk 0 0x3000) 5) 0 { Snap.zero with pending := some 7 }

/-- The capture holds the five, under its token. -/
theorem snapshotCapture_five : ∃ t, exec (.snapshotCapture 0) fiveCounted = .next t ∧ (snapOf t 0).token = 7 ∧
    (snapOf t 0).count = 1 ∧ lkD (snapOf t 0).hold 0 0 = 5 := by
  obtain ⟨-, -, hcapture, -⟩ := snapshotCapturesTheWindow fiveCounted 0 0
  obtain ⟨t, hexec, -, htoken, hcount, -, hhold, -⟩ := hcapture 7 rfl rfl rfl
  exact ⟨t, hexec, htoken, hcount, (hhold 0 (by decide)).trans (by decide +kernel)⟩

/-- A command with bit 16 set is none. -/
theorem snapCmdWrite_bit16 : exec (.snapCmdWrite 0 0x10000) State.reset = .next State.reset := by
  obtain ⟨-, hother, -⟩ := snapshotCapturesTheWindow State.reset 0 0x10000
  exact hother served_reset (by decide)

/-- All ones written to STR_CTRL of slot 0 are staged in its three defined bits, and not in effect. -/
theorem registerWrite_strCtrl : ∃ t, exec (.registerWrite 0 false 0x2008 0xFFFFFFFF) (withStream Stream.idle) = .next t ∧
    staged t (slotKey 0 0 8) = 7 ∧ effective t (slotKey 0 0 8) = 0 := by
  obtain ⟨hslot, -⟩ := registerWritesAreStaged (withStream Stream.idle) 0 0xFFFFFFFF (served_withStream _)
  obtain ⟨hassigned, -⟩ := hslot 0x2008 _ (by decide) (by decide) (by decide) slotReg_strCtrl
  obtain ⟨t, hexec, hself, -, hframe⟩ := hassigned (by decide +kernel)
  obtain ⟨-, -, heffective⟩ := registers_reset (slotKey 0 0 8)
  exact ⟨t, hexec, hself.trans (by decide), by rw [hframe]; exact heffective.trans (by decide +kernel)⟩

/-- They read back at once. -/
theorem registerWrite_strCtrl_reads : ∃ t,
    exec (.registerWrite 0 false 0x2008 0xFFFFFFFF) (withStream Stream.idle) = .next t ∧
    readReg t 0 false 0x2008 = (7, t) := by
  obtain ⟨t, hexec, hread⟩ := registerWrite_reads_back (f := 0) (served_withStream Stream.idle) (off := 0x2008)
    (by decide) (by decide) (by decide) slotReg_strCtrl (by decide +kernel) 0xFFFFFFFF
  exact ⟨t, hexec, hread⟩

/-- Without the stream the write is dropped. -/
theorem registerWrite_no_stream : exec (.registerWrite 0 false 0x2008 1) State.reset = .next State.reset := by
  obtain ⟨hslot, -⟩ := registerWritesAreStaged State.reset 0 1 served_reset
  exact (hslot 0x2008 _ (by decide) (by decide) (by decide) slotReg_strCtrl).2 rfl

/-- PWR_HOLD_IDLE, of BAR2, takes its twelve bits. -/
theorem registerWrite_holdIdle : ∃ t, exec (.registerWrite 0 true 0x30008 0x12345) State.reset = .next t ∧
    staged t (rk2 0x30008) = 0x345 := by
  obtain ⟨-, hbar2, -⟩ := registerWritesAreStaged State.reset 0 0x12345 served_reset
  obtain ⟨t, hexec, hself, -⟩ := hbar2 0x30008 ⟨0x19, 0xFFF, .quoin⟩ rfl (by decide) (by decide +kernel)
  exact ⟨t, hexec, hself.trans (by decide)⟩

/-- The bit word of CANCEL sets bit 1 of STR_CTRL and leaves ENABLE. -/
theorem aliasWrite_cancel : ∃ t, exec (.aliasWrite 0 0x8004 1) (withStream Stream.idle) = .next t ∧
    (staged t (slotKey 0 0 8)).getLsbD 1 = true ∧ (staged t (slotKey 0 0 8)).getLsbD 0 = false := by
  obtain ⟨-, -, halias⟩ := registerWritesAreStaged (withStream Stream.idle) 0 1 (served_withStream _)
  obtain ⟨hbit, -⟩ := halias 0 1 0x8004 (by decide) (by decide) (by decide) (by decide +kernel)
  obtain ⟨t, hexec, hbits, -⟩ := hbit (by decide)
  exact ⟨t, hexec, hbits 1 (by decide), (hbits 0 (by decide)).trans (by decide +kernel)⟩

/-- A 2 written there is refused, and recorded. -/
theorem aliasWrite_two : ∃ t, exec (.aliasWrite 0 0x8004 2) (withStream Stream.idle) = .next t ∧ t.evt.seq = 1 := by
  obtain ⟨-, -, halias⟩ := registerWritesAreStaged (withStream Stream.idle) 0 2 (served_withStream _)
  obtain ⟨-, hrefused⟩ := halias 0 1 0x8004 (by decide) (by decide) (by decide) (by decide +kernel)
  obtain ⟨t, hexec, hevt, -⟩ := hrefused (by decide) (by decide +kernel)
  exact ⟨t, hexec, by rw [hevt]; exact postOne_seq ..⟩

end Sys2Proof.Machine
end

section
/-! O31: what the memory tier does of itself (R177, R201, R203, R207 to R209, R214). -/

namespace Sys2Proof.Machine

/-! ### The burst cap (R210) -/

section
variable {s : State} {c n : Nat}

/-- A channel with n more bursts issued in this quoin period. -/
def issuedMore (s : State) (c n : Nat) : State :=
  { s with mem := { s.mem with issued := put s.mem.issued c (lkD s.mem.issued c 0 + n) } }

/-- Where the cap leaves room, the bursts are issued and the work is done. -/
theorem capped_within (h : s.mem.burstCap = 0 ∨ lkD s.mem.issued c 0 + n ≤ s.mem.burstCap) (k : State → State) :
    capped s c n k = k (issuedMore s c n) := by
  have hroom : ¬(s.mem.burstCap != 0 && decide (s.mem.burstCap < lkD s.mem.issued c 0 + n)) = true := by
    obtain h | h := h
    · simp [h]
    · simp [Nat.not_lt.2 h]
  rw [capped, issueBursts, if_neg hroom]
  rfl

end

/-! ### READ_DATA_RETURN (R201, R203) -/

/-- A burst that reads clean is delivered without a count or a record. -/
theorem noteBurst_clean {s : State} {p i j c l : Nat} (src : RdSrc) (hloc : slugLoc s p i = .at_ c l)
    (hclean : (burstRead s ⟨c, l, j⟩).kind = .clean) : noteBurst s p i j src = s := by
  simp only [noteBurst, hloc, hclean]

theorem noteRead_clean {s : State} {pa n c : Nat} (src : RdSrc) (h : ∀ b ∈ touched pa n,
    ∃ l, slugLoc s b.1 b.2.1 = .at_ c l ∧ (burstRead s ⟨c, l, b.2.2⟩).kind = .clean) : noteRead s pa n src = s := by
  unfold noteRead
  generalize touched pa n = bs at h
  induction bs with
  | nil => rfl
  | cons b bs ih =>
    obtain ⟨p, i, j⟩ := b
    obtain ⟨l, hloc, hclean⟩ := h (p, i, j) List.mem_cons_self
    rw [List.foldl_cons]
    dsimp only
    rw [noteBurst_clean src hloc hclean]
    exact ih fun x hx => h x (List.mem_cons_of_mem _ hx)

/-- A read's data goes to its task, where that still waits for it. -/
def giveBack (s : State) (r : Reorder) : State :=
  match (stream s r.stream).task with
  | some t =>
    if t.done.isNone && decide (r.seqNo < t.issued) then setTask s r.stream { t with returned := t.returned ++ [r.seqNo] }
    else s
  | none => s

theorem giveBack_eq (s : State) (r : Reorder) : giveBack s r = (match (stream s r.stream).task with
    | some t => if t.done = none ∧ r.seqNo < t.issued
        then setTask s r.stream { t with returned := t.returned ++ [r.seqNo] } else s
    | none => s) := by
  unfold giveBack
  cases (stream s r.stream).task with
  | none => rfl
  | some t => exact if_congr (by simp) rfl rfl

theorem readReturn_empty {s : State} {c : Nat} (h : lkD s.mem.reorder c [] = []) (errs : List SymErr) :
    readReturn s c errs = s := by
  simp only [readReturn, h]

section
variable {s : State} {c : Nat} {r : Reorder} {rest : List Reorder} (hq : lkD s.mem.reorder c [] = r :: rest)
include hq

/-- Received without a symbol in error, the oldest read leaves the queue as the channel noted it. -/
theorem readReturn_oldest : readReturn s c [] = capped s c (r.bursts + 1) (fun v =>
    giveBack (noteRead { v with mem := { v.mem with reorder := setD v.mem.reorder c rest [] } } r.pa
      (64 * r.bursts - r.pa % 64) .task) r) := by
  unfold readReturn
  split
  case h_1 hnil => rw [hq] at hnil; exact absurd hnil (List.cons_ne_nil _ _)
  case h_2 x xs hcons =>
    rw [hq] at hcons
    obtain ⟨rfl, rfl⟩ := List.cons_eq_cons.1 hcons
    rfl

/-- Where every burst reads clean, nothing is noted. -/
theorem readReturn_clean (hcap : s.mem.burstCap = 0 ∨ lkD s.mem.issued c 0 + (r.bursts + 1) ≤ s.mem.burstCap) {u : State}
    (hu : u = { s with mem := { s.mem with
      issued := put s.mem.issued c (lkD s.mem.issued c 0 + (r.bursts + 1))
      reorder := setD s.mem.reorder c rest [] } })
    (hclean : ∀ b ∈ touched r.pa (64 * r.bursts - r.pa % 64), ∃ l, slugLoc u b.1 b.2.1 = .at_ c l ∧
      (burstRead u ⟨c, l, b.2.2⟩).kind = .clean) : readReturn s c [] = giveBack u r := by
  have hread : noteRead u r.pa (64 * r.bursts - r.pa % 64) .task = u := noteRead_clean .task hclean
  rw [readReturn_oldest hq, capped_within hcap, ← hread, hu]
  rfl

end

theorem exec_readDataReturn_runs {s : State} (c : Ch) (errs : List SymErr) (hruns : runs s 1 = true) :
    exec (.readDataReturn c errs) s = .next (readReturn s c.val errs) := by
  simp [exec, execReadDataReturn, hruns]

/-! ### Write-backs (R203, R207, R208) -/

theorem exec_ceWriteBack_runs {s : State} {c : Ch} (hruns : runs s 1 = true) (hon : chOn s c.val = true) :
    exec (.ceWriteBack c) s = .next (ceWriteBack s c.val) := by
  simp [exec, execCeWriteBack, hruns, hon]

/-- The oldest repair of a channel stores the burst's corrected bytes, or is dropped. -/
theorem ceWriteBack_oldest {s : State} {c k d : Nat}
    (hfind : s.mem.ceBack.find? (fun e => (BRef.ofKey e.1).ch == c) = some (k, d))
    (hcap : s.mem.burstCap = 0 ∨ lkD s.mem.issued c 0 + 2 ≤ s.mem.burstCap) {u : State}
    (hu : u = { s with mem := { s.mem with
      issued := put s.mem.issued c (lkD s.mem.issued c 0 + 2), ceBack := s.mem.ceBack.filter (fun e => e.1 != k) } }) :
    ceWriteBack s c = if (dramRead u (BRef.ofKey k)).kind = .corrected
      then burstStore u (BRef.ofKey k) (dramRead u (BRef.ofKey k)).bytes false else u := by
  subst hu
  simp only [ceWriteBack, hfind, capped_within hcap]
  rfl

/-- An entry whose burst reads clean is merged into it without a count, and its mark stands. -/
theorem wcbMerge_clean {s u : State} {c : Nat} {w : Wcb}
    (hu : u = setWcb s c ((lkD s.mem.wcb c []).filter (fun e => e.burst != w.burst)))
    (hclean : (dramRead u (BRef.ofKey w.burst)).kind = .clean) : wcbMerge s c w =
      burstStore u (BRef.ofKey w.burst) (overlay (dramRead u (BRef.ofKey w.burst)).bytes w.bytes) w.poison := by
  subst hu
  simp only [wcbMerge, hclean, BKind.bad, Bool.or_false]

/-- With one entry in the buffer, whose wait has ended, the row merges it. -/
theorem exec_wcbWriteBack_one {s : State} {c : Ch} {w : Wcb} (hruns : runs s 1 = true)
    (hone : lkD s.mem.wcb c.val [] = [w]) (hdue : w.due ≤ s.clk.aon)
    (hcap : s.mem.burstCap = 0 ∨ lkD s.mem.issued c.val 0 + 2 ≤ s.mem.burstCap) :
    exec (.wcbWriteBack c) s = .next (wcbMerge (issuedMore s c.val 2) c.val w) := by
  simp [exec, execWcbWriteBack, hruns, hone, hdue, capped_within hcap]

/-! ### Ranks (R209) -/

/-- An event that has happened is not due before its period ends. -/
theorem isDue_setDue (s : State) (p : Per) {period : Nat} (h : 0 < period) : isDue (setDue s p period) p = false := by
  have hlater : s.clk.aon < (s.clk.aon / period + 1) * period := by
    rw [Nat.mul_comm]; exact Nat.lt_mul_div_succ _ h
  simp [isDue, setDue, hlater]

theorem exec_mr4Read_due {s : State} {c : Ch} {rank : Fin 3} (temp : Byte) (m : Fin 3)
    (hdue : isDue s (.mr4 c.val rank.val) = true) (hruns : runs s 1 = true) (hon : chOn s c.val = true)
    (hrank : rank.val < ranks s) : exec (.mr4Read c rank temp m) s =
      .next { setDue s (.mr4 c.val rank.val) (100 * usT) with mem := { s.mem with
        mr4Temp := put s.mem.mr4Temp c.val temp.toNat
        mr4Mult := put s.mem.mr4Mult (4 * c.val + rank.val) m.val } } := by
  simp [exec, execMr4Read, hdue, hruns, hon, hrank]

theorem exec_perBankRefresh_runs {s : State} {c : Ch} {rank : Fin 3} (hruns : runs s 1 = true)
    (hon : chOn s c.val = true) (hrank : rank.val < ranks s) : exec (.perBankRefresh c rank) s =
      .next (if 3906 ≤ (s.clk.aon - lkD s.mem.refreshAt (4 * c.val + rank.val) 0) * 40 *
          2 ^ max (min s.pwr.step 2) (lkD s.mem.mr4Mult (4 * c.val + rank.val) 0)
        then { s with mem := { s.mem with refreshAt := put s.mem.refreshAt (4 * c.val + rank.val) s.clk.aon } } else s) := by
  refine congrArg Host.Outcome.next (if_congr ?_ rfl rfl)
  simp only [hruns, hon, hrank, decide_true, Bool.true_and]
  exact decide_eq_true_iff

/-! ### PAGE_ZEROED (R177) -/

theorem pages_of_tabd {s t : State} (h : tabd t = tabd s) : t.pages = s.pages := congrArg Tabd.pages h

/-- From a state with the pages of s, giving page p a use leaves every other page's. -/
theorem setPage_spec {s t : State} (h : t.pages = s.pages) (p : Nat) (u : PageUse) :
    pageUse (setPage t p u) p = u ∧ (∀ k, k ≠ p → lk (setPage t p u).pages k = lk s.pages k) ∧
      setPage t p u = { t with pages := (setPage t p u).pages } :=
  ⟨pageUse_setPage_self .., fun _ hk => (lk_put_ne _ _ hk).trans (by rw [h]), rfl⟩

theorem exec_pageZeroed_waiting {s : State} {p q : Nat} (huse : pageUse s p = .zeroing q) (hruns : runs s 1 = true) :
    exec (.pageZeroed p) s = .next (setPage (zeroPage s p) p .free) := by
  simp [exec, execPageZeroed, huse, hruns]

/-! ### Summaries once a second (R203, R214) -/

/-- The end of a second with n events counted: for none the summary is due again, and else there is one record, and the
memory tier's count begins anew. -/
def secondSummed (s : State) (p : Per) (n type sev p0 p2 : Nat) (m : Mem) : State :=
  if n = 0 then setDue s p secT else { postG (setDue s p secT) type sev p0 n p2 0 with mem := m }

section
variable (s : State) (p : Per) (n type sev p0 p2 : Nat) (m : Mem)

theorem secondSummed_frame : secondSummed s p n type sev p0 p2 m = { s with
    clk := (setDue s p secT).clk, evt := (secondSummed s p n type sev p0 p2 m).evt, mem := if n = 0 then s.mem else m } := by
  unfold secondSummed
  split
  · rfl
  · rw [postG_frame]; rfl

theorem evt_secondSummed : (secondSummed s p n type sev p0 p2 m).evt =
    if n = 0 then s.evt else (postG s type sev p0 n p2 0).evt := by
  unfold secondSummed
  split
  · rfl
  · exact postG_evt_congr (s := s) (t := setDue s p secT) rfl rfl rfl ..

/-- A count that m clears reads 0 after the second in any case. -/
theorem count_secondSummed {p : Per} {type sev p0 p2 : Nat} {m : Mem} {g : Mem → Nat} (hm : g m = 0) :
    g (secondSummed s p (g s.mem) type sev p0 p2 m).mem = 0 := by
  rw [secondSummed_frame]
  dsimp only
  split
  case isTrue hnone => exact hnone
  case isFalse => exact hm

theorem isDue_secondSummed : isDue (secondSummed s p n type sev p0 p2 m) p = false := by
  rw [secondSummed_frame]
  exact isDue_setDue s p (by decide)

end

section
variable {s : State} {c : Ch} (hoff : s.pwr.off = false)
include hoff

theorem exec_memCeSummary_due (hdue : isDue s (.ceSum c.val) = true) : exec (.memCeSummary c) s =
    .next (secondSummed s (.ceSum c.val) (lkD s.mem.ceRun c.val 0) 0x0402 1 c.val (lkD s.mem.ceLast c.val 0)
      { s.mem with ceRun := del s.mem.ceRun c.val }) := by
  simp [exec, execMemCeSummary, secondSummed, hoff, hdue]

theorem exec_channelDropSummary_due (hdue : isDue s (.drop c.val) = true) : exec (.channelDropSummary c) s =
    .next (secondSummed s (.drop c.val) (lkD s.mem.dropRun c.val 0) 0x0405 4 c.val 0
      { s.mem with dropRun := del s.mem.dropRun c.val }) := by
  simp [exec, execChannelDropSummary, secondSummed, hoff, hdue]

end

/-! ### The clauses -/

section
variable {s : State} {c : Ch}

/-- The clause of MR4_READ. -/
theorem mr4Read_spec {rank : Fin 3} (temp : Byte) (m : Fin 3) (hdue : isDue s (.mr4 c.val rank.val) = true)
    (hruns : runs s 1 = true) (hon : chOn s c.val = true) (hrank : rank.val < ranks s) :
    ∃ t, exec (.mr4Read c rank temp m) s = .next t ∧ lkD t.mem.mr4Temp c.val 0 = temp.toNat ∧
      lkD t.mem.mr4Mult (4 * c.val + rank.val) 0 = m.val ∧ isDue t (.mr4 c.val rank.val) = false ∧
      t = { s with clk := { s.clk with due := t.clk.due },
                   mem := { s.mem with mr4Temp := t.mem.mr4Temp, mr4Mult := t.mem.mr4Mult } } :=
  ⟨_, exec_mr4Read_due temp m hdue hruns hon hrank, lkD_put_self .., lkD_put_self ..,
    isDue_setDue s _ (by decide), rfl⟩

/-- The clause of PAGE_ZEROED. -/
theorem pageZeroed_spec {p q : Nat} (huse : pageUse s p = .zeroing q) (hruns : runs s 1 = true) :
    ∃ t, exec (.pageZeroed p) s = .next t ∧ pageUse t p = .free ∧ (∀ k, k ≠ p → lk t.pages k = lk s.pages k) ∧
      t = { zeroPage s p with pages := t.pages } :=
  ⟨_, exec_pageZeroed_waiting huse hruns, setPage_spec (pages_of_tabd (tabd_zeroPage s p)) p .free⟩

/-- The clause of MEM_CE_SUMMARY. -/
theorem memCeSummary_spec (hdue : isDue s (.ceSum c.val) = true) (hoff : s.pwr.off = false) :
    ∃ t, exec (.memCeSummary c) s = .next t ∧ lkD t.mem.ceRun c.val 0 = 0 ∧ isDue t (.ceSum c.val) = false ∧
      t.evt = (if lkD s.mem.ceRun c.val 0 = 0 then s.evt
        else (postG s 0x0402 1 c.val (lkD s.mem.ceRun c.val 0) (lkD s.mem.ceLast c.val 0) 0).evt) ∧
      t = { s with clk := { s.clk with due := t.clk.due }, evt := t.evt, mem := { s.mem with ceRun := t.mem.ceRun } } := by
  refine ⟨_, exec_memCeSummary_due hoff hdue,
    count_secondSummed s (g := fun m => lkD m.ceRun c.val 0) (lkD_del_self ..), isDue_secondSummed ..,
    evt_secondSummed .., ?_⟩
  rw [secondSummed_frame]
  split <;> rfl

/-- The clause of CHANNEL_DROP_SUMMARY. -/
theorem channelDropSummary_spec (hdue : isDue s (.drop c.val) = true) (hoff : s.pwr.off = false) :
    ∃ t, exec (.channelDropSummary c) s = .next t ∧ lkD t.mem.dropRun c.val 0 = 0 ∧ isDue t (.drop c.val) = false ∧
      t.evt = (if lkD s.mem.dropRun c.val 0 = 0 then s.evt
        else (postG s 0x0405 4 c.val (lkD s.mem.dropRun c.val 0) 0 0).evt) ∧
      t = { s with clk := { s.clk with due := t.clk.due }, evt := t.evt, mem := { s.mem with dropRun := t.mem.dropRun } } := by
  refine ⟨_, exec_channelDropSummary_due hoff hdue,
    count_secondSummed s (g := fun m => lkD m.dropRun c.val 0) (lkD_del_self ..), isDue_secondSummed ..,
    evt_secondSummed .., ?_⟩
  rw [secondSummed_frame]
  split <;> rfl

end

/-- Settles O31: each row has its clause, from what its operation comes to once its hypotheses hold. -/
theorem memoryRows : Obligations.MemoryRows := by
  intro s c
  refine ⟨fun r rest hruns hq hcap u hu hclean => ?_, fun hruns hq errs => ?_, fun k d hruns hon hfind hcap u hu => ?_,
    fun w hruns hone hdue hcap u hu hclean => ?_,
    fun rank temp m hdue hruns hon hrank => mr4Read_spec temp m hdue hruns hon hrank,
    fun rank hruns hon hrank => exec_perBankRefresh_runs hruns hon hrank,
    fun p q huse hruns => pageZeroed_spec huse hruns, memCeSummary_spec, channelDropSummary_spec⟩
  · rw [exec_readDataReturn_runs c [] hruns, readReturn_clean hq hcap hu hclean]
    exact congrArg Host.Outcome.next (giveBack_eq u r)
  · rw [exec_readDataReturn_runs c errs hruns, readReturn_empty hq]
  · rw [exec_ceWriteBack_runs hruns hon, ceWriteBack_oldest hfind hcap hu]
  · rw [exec_wcbWriteBack_one hruns hone hdue hcap, wcbMerge_clean (u := u) ?_ hclean]
    rw [hu, issuedMore, setWcb, hone, List.filter_singleton, bne_self_eq_false]
    rfl

end Sys2Proof.Machine
end

section
/-! O39: PARTITION_CREATE, SET_QUOTA, ASSIGN_STREAM, RELEASE_STREAM and QUERY (R169 to R172, R183 to R186, R190). -/

namespace Sys2Proof.Machine

/-! ### The checks of a quota block (R169, R170, Table 6.1) -/

/-- The target and the block lie within the ranges of Table 6.1. -/
structure QuotaInRange (p : Nat) (q : Quota) : Prop where
  target : p < 32
  bufPages : q.bufPages ≤ q.memPages
  galRes : q.galRes ≤ q.galMax
  galMax : q.galMax ≤ 65536
  maxTables : q.maxTables ≤ 4096
  rateMin : 1 ≤ q.quoRate
  rateMax : q.quoRate ≤ 5333
  burst : q.quoRate ≤ q.quoBurst
  linkShare : q.linkShare ≤ 256
  locks : ∀ r ∈ q.locks, r.base + r.count ≤ 1024

/-- Beside what the other partitions reserve, the pools hold the block. -/
structure QuotaInPools (s : State) (p : Nat) (q : Quota) : Prop where
  mem : othersHold s p (·.memPages) + q.memPages ≤ memPool s
  gal : othersHold s p (·.galRes) + q.galRes ≤ galPool
  link : othersHold s p (·.linkShare) + q.linkShare ≤ linkPool
  tables : othersHold s p (·.maxTables) + q.maxTables ≤ tablePool s

theorem quotaRange_pass {p : Nat} {q : Quota} (h : QuotaInRange p q) : (quotaRange p q).1 = false := by
  have hrate : q.quoRate ≠ 0 := Nat.ne_of_gt h.rateMin
  have hlocks : ∀ e ∈ q.locks.zipIdx.map (fun (r, n) => (0x2A + 4 * n, decide (1024 < r.base + r.count))),
      e.2 = false := by
    intro e he
    obtain ⟨x, hx, rfl⟩ := List.mem_map.1 he
    exact decide_eq_false (Nat.not_lt.2 (h.locks _ (List.fst_mem_of_mem_zipIdx hx)))
  refine rangeBad_of_pass fun e he => (List.mem_append.1 he).elim (fun he => ?_) (hlocks e)
  revert e
  simp [h.target, h.bufPages, h.galRes, h.galMax, h.maxTables, h.rateMax, h.burst, h.linkShare, hrate]

theorem checked_of_pass {l : List (Bool × Nat × Nat)} (h : ∀ x ∈ l, x.1 = false) (k : MOut) : checked l k = k := by
  induction l with
  | nil => exact checked_nil k
  | cons x l ih =>
    rw [checked_ok (h x List.mem_cons_self)]
    exact ih fun y hy => h y (List.mem_cons_of_mem _ hy)

theorem poolChecks_pass {s : State} {p : Nat} {q : Quota} (h : QuotaInPools s p q) (k : MOut) :
    checked (poolChecks s p q) k = k :=
  checked_of_pass (by simp [poolChecks, h.mem, h.gal, h.link, h.tables]) k

/-! ### The buffer window -/

/-- A command ends with the window's pages taken, or short of them. -/
def windowGrown : Option State → MOut
  | some s => .ok [] s true
  | none => .fail 0x16 1

theorem opsd_growWindow {s v : State} {p n k : Nat} (h : growWindow s p n k = some v) : opsd v = opsd s := by
  rw [growWindow_frame h]
  rfl

theorem opsd_fwCommit (s : State) : opsd (fwCommit s) = opsd s := rfl

/-! ### PARTITION_CREATE (R183) -/

/-- An ABSENT partition made ACTIVE with a block, before its window gets its pages. -/
def partCreated (s : State) (p : Nat) (q : Quota) : State :=
  { resetRegion (capsToBase (setPart s p ⟨.active, q, ((part s p).gen + 1) % 2 ^ 32⟩) (p + 1)) (p + 1) with
    quo := put s.quo p ⟨q.quoRate, q.quoBurst, q.quoBurst, false⟩ }

section
variable {s : State} {f p : Nat} {b : List Byte} {q : Quota}

theorem part_partCreated_self : part (partCreated s p q) p = ⟨.active, q, ((part s p).gen + 1) % 2 ^ 32⟩ :=
  part_setPart_self ..

theorem part_partCreated_ne {r : Nat} (h : r ≠ p) : part (partCreated s p q) r = part s r :=
  part_setPart_ne _ _ h

/-- The capabilities of the new partition's function hold BASE alone. -/
theorem mbxOf_partCreated_self :
    mbxOf (partCreated s p q) (p + 1) = { mbxOf s (p + 1) with permitted := 1, enabled := 1 } :=
  mbxOf_setMbx_self ..

theorem mbxOf_partCreated_ne {g : Nat} (h : g ≠ p + 1) : mbxOf (partCreated s p q) g = mbxOf s g :=
  mbxOf_setMbx_ne _ _ h

variable (hp : p = leAt b 8 1) (hq : q = parseQuota b) (hrange : QuotaInRange p q)
include hp hq hrange

theorem partCreate_present (hst : (part s p).st ≠ .absent) : partCreate s f b = .fail 0x19 3 := by
  subst hp hq
  exact (checked_ok (quotaRange_pass hrange) _ _).trans (checked_bad (by simpa using hst) _ _)

theorem partCreate_absent (hpools : QuotaInPools s p q) (hst : (part s p).st = .absent) {v : State}
    (hgrow : growWindow (partCreated s p q) p 0 q.bufPages = some v) : partCreate s f b = .ok [] v true := by
  have hgoes : partCreate s f b = windowGrown (growWindow (partCreated s p q) p 0 q.bufPages) := by
    subst hp hq
    exact (checked_ok (quotaRange_pass hrange) _ _).trans ((checked_ok (by simp [hst]) _ _).trans
      (poolChecks_pass hpools _))
  rw [hgoes, hgrow]
  rfl

end

/-! ### PARTITION_SET_QUOTA (R171, R184) -/

section
variable {s : State} {f p : Nat} {b : List Byte} {q : Quota}

/-- A block covers what its partition uses. -/
structure QuotaCoversUse (s : State) (p : Nat) (q : Quota) : Prop where
  pages : objectPages s p + q.bufPages ≤ q.memPages
  cells : lkD s.gal.held p 0 ≤ q.galMax
  tables : tablesOwned s p ≤ q.maxTables

variable (hp : p = leAt b 8 1) (hq : q = parseQuota b) (hrange : QuotaInRange p q)
include hp hq hrange

theorem partSetQuota_inactive (hst : (part s p).st ≠ .active) : partSetQuota s f b = .fail 0x19 3 := by
  subst hp hq
  exact (checked_ok (quotaRange_pass hrange) _ _).trans (checked_bad (by simpa using hst) _ _)

variable (hpools : QuotaInPools s p q) (hst : (part s p).st = .active) (huse : QuotaCoversUse s p q)
include hpools hst huse

/-- Past its checks the block stands, and the window is lowered or grown to it. -/
theorem partSetQuota_active : partSetQuota s f b =
    if q.bufPages ≤ (part s p).q.bufPages then .ok [] (lowerWindow (setQuota s p q) p q.bufPages) true
    else windowGrown (growWindow (setQuota s p q) p (part s p).q.bufPages (q.bufPages - (part s p).q.bufPages)) := by
  subst hp hq
  refine (checked_ok (quotaRange_pass hrange) _ _).trans ((checked_ok (by simp [hst]) _ _).trans
    ((checked_ok (by simp [huse.pages, huse.cells, huse.tables]) _ _).trans (poolChecks_pass hpools _)))

theorem partSetQuota_lowers (hle : q.bufPages ≤ (part s p).q.bufPages) :
    partSetQuota s f b = .ok [] (lowerWindow (setQuota s p q) p q.bufPages) true :=
  (partSetQuota_active hp hq hrange hpools hst huse).trans (if_pos hle)

theorem partSetQuota_grows (hlt : (part s p).q.bufPages < q.bufPages) {v : State}
    (hgrow : growWindow (setQuota s p q) p (part s p).q.bufPages (q.bufPages - (part s p).q.bufPages) = some v) :
    partSetQuota s f b = .ok [] v true := by
  rw [partSetQuota_active hp hq hrange hpools hst huse, if_neg (Nat.not_le.2 hlt), hgrow]
  rfl

end

/-! ### PARTITION_ASSIGN_STREAM and PARTITION_RELEASE_STREAM (R185, R186) -/

section
variable {s : State} {f i k g : Nat} {b : List Byte}

/-- The target is PF0 or an ACTIVE partition. -/
def TargetActive (s : State) (t : Nat) : Prop := t = 0xFF ∨ t < 32 ∧ (part s t).st = .active

/-- For such a target, the stream and the slot alone decide. -/
theorem assignStream_target (ht : TargetActive s (leAt b 8 4 % 256)) (hi : i = bits (leAt b 8 4) 13 8)
    (hk : k = bits (leAt b 8 4) 21 16) (hg : g = targetFn (leAt b 8 4 % 256)) : assignStream s f b =
    if ((stream s i).slot.isSome || (slotStream s g k).isSome) = true then .fail 0x19 3
    else .ok [] (setStream (resetSlot s g k) i { Stream.idle with slot := some (g, k) }) true := by
  subst hi hk hg
  have hrange : (rangeBad [(0x08, decide (32 ≤ leAt b 8 4 % 256) && leAt b 8 4 % 256 != 0xFF)]).1 = false :=
    rangeBad_of_pass (by
      obtain h | ⟨h, -⟩ := ht
      · simp [h]
      · simp [h])
  have hactive : (leAt b 8 4 % 256 != 0xFF && (part s (leAt b 8 4 % 256)).st != .active) = false := by
    obtain h | ⟨-, h⟩ := ht
    · simp [h]
    · simp [h]
  exact (checked_ok hrange _ _).trans ((checked_ok hactive _ _).trans (checked_cons ..))

theorem releaseStream_unassigned (hi : i = leAt b 8 1 % 64) (h : (stream s i).slot = none) :
    releaseStream s f b = .fail 0x18 0 := by
  subst hi
  simp only [releaseStream, h]

theorem releaseStream_assigned (hi : i = leAt b 8 1 % 64) (h : (stream s i).slot = some (g, k)) :
    releaseStream s f b = if releasable s i g k then .ok [] (unassign s i g k) true else .fail 0x19 3 := by
  subst hi
  simp only [releaseStream, h]

theorem stream_unassign_self (s : State) (i g k : Nat) : stream (unassign s i g k) i = Stream.idle := lkD_del_self ..

end

/-! ### The clauses -/

/-- A short command of PF0 that changes the firmware region is answered MS_OK from the committed effect. -/
theorem short_commit {s u : State} {op : Nat} {b : List Byte} {body : State → Nat → List Byte → MOut}
    {o : Host.Outcome State Fault Refusal} (ho : o = .next (runShort s 0 op body)) (h : Ready s 0 op b)
    (hb : body s 0 b = .ok [] u true) (hm : mbxOf u 0 = mbxOf s 0) :
    ∃ t, o = .next t ∧ Replied (fwCommit u) t 0 0 0 0 [] :=
  ok_replied (sel := fun _ => true) h rfl hb (congrArg Mbx.latched hm) ho

section
variable {s : State} {b : List Byte} {p : Nat} {q : Quota}

section
variable (hp : p = leAt b 8 1) (hq : q = parseQuota b) (hrange : QuotaInRange p q) (hpools : QuotaInPools s p q)
include hp hq hrange hpools

/-- The clause of a PARTITION_CREATE that takes effect. -/
theorem partitionCreate_absent (h : Ready s 0 0x200 b) (hst : (part s p).st = .absent) {v : State}
    (hgrow : growWindow (partCreated s p q) p 0 q.bufPages = some v) :
    ∃ t u, exec (.partitionCreate 0) s = .next t ∧ Replied u t 0 0 0 0 [] ∧
      part u p = ⟨.active, q, ((part s p).gen + 1) % 2 ^ 32⟩ ∧ (∀ r, r ≠ p → part u r = part s r) ∧
      (mbxOf u (p + 1)).permitted = 1 ∧ (mbxOf u (p + 1)).enabled = 1 ∧
      u = fwCommit { partCreated s p q with pages := v.pages } := by
  have hkept : opsd (fwCommit v) = opsd (partCreated s p q) :=
    (opsd_fwCommit v).trans (opsd_growWindow hgrow)
  obtain ⟨t, hexec, hrep⟩ := short_commit rfl h (partCreate_absent hp hq hrange hpools hst hgrow)
    ((mbxOf_of_opsd hkept 0).trans (mbxOf_partCreated_ne (Nat.succ_ne_zero p).symm))
  have hcaps := (mbxOf_of_opsd hkept (p + 1)).trans mbxOf_partCreated_self
  exact ⟨t, fwCommit v, hexec, hrep, (part_of_opsd hkept p).trans part_partCreated_self,
    fun r hr => (part_of_opsd hkept r).trans (part_partCreated_ne hr), by rw [hcaps], by rw [hcaps],
    congrArg fwCommit (growWindow_frame hgrow)⟩

variable (h : Ready s 0 0x201 b) (hst : (part s p).st = .active) (huse : QuotaCoversUse s p q)
include h hst huse

/-- The clause of a PARTITION_SET_QUOTA that keeps or lowers the window. -/
theorem partitionSetQuota_lowers (hle : q.bufPages ≤ (part s p).q.bufPages) :
    ∃ t u, exec (.partitionSetQuota 0) s = .next t ∧ Replied u t 0 0 0 0 [] ∧
      part u p = { part s p with q := q } ∧ (∀ r, r ≠ p → part u r = part s r) ∧
      u = fwCommit (lowerWindow (setQuota s p q) p q.bufPages) := by
  obtain ⟨t, hexec, hrep⟩ := short_commit rfl h (partSetQuota_lowers hp hq hrange hpools hst huse hle) rfl
  exact ⟨t, _, hexec, hrep, part_setPart_self .., fun r hr => part_setPart_ne _ _ hr, rfl⟩

/-- The clause of a PARTITION_SET_QUOTA that grows the window. -/
theorem partitionSetQuota_grows (hlt : (part s p).q.bufPages < q.bufPages) {v : State}
    (hgrow : growWindow (setQuota s p q) p (part s p).q.bufPages (q.bufPages - (part s p).q.bufPages) = some v) :
    ∃ t u, exec (.partitionSetQuota 0) s = .next t ∧ Replied u t 0 0 0 0 [] ∧
      part u p = { part s p with q := q } ∧ (∀ r, r ≠ p → part u r = part s r) ∧ u = fwCommit v := by
  have hkept : opsd (fwCommit v) = opsd (setQuota s p q) :=
    (opsd_fwCommit v).trans (opsd_growWindow hgrow)
  obtain ⟨t, hexec, hrep⟩ := short_commit rfl h (partSetQuota_grows hp hq hrange hpools hst huse hlt hgrow)
    (mbxOf_of_opsd hkept 0)
  exact ⟨t, _, hexec, hrep, (part_of_opsd hkept p).trans (part_setPart_self ..),
    fun r hr => (part_of_opsd hkept r).trans (part_setPart_ne _ _ hr), rfl⟩

end

/-- The clause of PARTITION_ASSIGN_STREAM. -/
theorem partitionAssignStream_spec (h : Ready s 0 0x202 b) {i k g : Nat} (hi : i = bits (leAt b 8 4) 13 8)
    (hk : k = bits (leAt b 8 4) 21 16) (hg : g = targetFn (leAt b 8 4 % 256)) (ht : TargetActive s (leAt b 8 4 % 256)) :
    ((stream s i).slot = none → slotStream s g k = none →
      ∃ t u, exec (.partitionAssignStream 0) s = .next t ∧ Replied u t 0 0 0 0 [] ∧
        stream u i = { Stream.idle with slot := some (g, k) } ∧ (∀ j, j ≠ i → stream u j = stream s j) ∧
        u = fwCommit { resetSlot s g k with streams := u.streams }) ∧
    ((stream s i).slot.isSome = true ∨ (slotStream s g k).isSome = true →
      ∃ t, exec (.partitionAssignStream 0) s = .next t ∧ Replied s t 0 0x19 3 0 []) := by
  have hbody := assignStream_target (f := 0) ht hi hk hg
  refine ⟨fun hidle hfree => ?_, fun htaken => ?_⟩
  · rw [if_neg (by simp [hidle, hfree])] at hbody
    obtain ⟨t, hexec, hrep⟩ := short_commit rfl h hbody rfl
    exact ⟨t, _, hexec, hrep, stream_setStream_self .., fun j hj => stream_setStream_ne (resetSlot s g k) _ hj, rfl⟩
  · rw [if_pos (by simpa using htaken)] at hbody
    exact short_fail rfl h hbody

/-- The clause of PARTITION_RELEASE_STREAM. -/
theorem partitionReleaseStream_spec (h : Ready s 0 0x203 b) {i : Nat} (hi : i = leAt b 8 1 % 64) :
    ((stream s i).slot = none → ∃ t, exec (.partitionReleaseStream 0) s = .next t ∧ Replied s t 0 0x18 0 0 []) ∧
    (∀ g k, (stream s i).slot = some (g, k) →
      (releasable s i g k = true → ∃ t u, exec (.partitionReleaseStream 0) s = .next t ∧ Replied u t 0 0 0 0 [] ∧
        stream u i = Stream.idle ∧ u = fwCommit (unassign s i g k)) ∧
      (releasable s i g k = false →
        ∃ t, exec (.partitionReleaseStream 0) s = .next t ∧ Replied s t 0 0x19 3 0 [])) := by
  refine ⟨fun hslot => short_fail rfl h (releaseStream_unassigned hi hslot), fun g k hslot => ?_⟩
  have hbody := releaseStream_assigned (f := 0) hi hslot
  refine ⟨fun hrel => ?_, fun hrel => ?_⟩
  · rw [if_pos hrel] at hbody
    obtain ⟨t, hexec, hrep⟩ := short_commit rfl h hbody (mbxOf_of_opsd (opsd_unassign ..) 0)
    exact ⟨t, _, hexec, hrep, stream_unassign_self s i g k, rfl⟩
  · rw [if_neg (by simp [hrel])] at hbody
    exact short_fail rfl h hbody

end

/-- A partition's state as PARTITION_QUERY gives it (Table 6.4). -/
def partStCode : PartSt → Nat
  | .absent => 0
  | .active => 1
  | .wiping => 2
  | .destroying => 3

/-- PF0 and the partition's own function get its state, block and use (R190). -/
theorem partQuery_partition {s : State} {g p : Nat} {b : List Byte} (hp : p = leAt b 8 1) (hlt : p < 32)
    (hg : g = 0 ∨ g = p + 1) {st : Nat} (hst : st = partStCode (part s p).st) : partQuery s g b = .ok
      (leBytes 4 (st + 2 ^ 8 * p + 2 ^ 16 * streamCount s (p + 1)) ++ quotaBytes (part s p).q ++
        leBytes 4 (objectPages s p) ++ leBytes 4 (cellsHeld s p) ++ leBytes 4 (tablesOwned s p) ++
        leBytes 4 (locksHeld s p) ++ leBytes 4 (if g = 0 then pendingZero s (· == p) else 0) ++
        leBytes 4 (part s p).gen) s false := by
  have hreach : ¬(g ≠ 0 ∧ p ≠ g - 1) := by omega
  have hrange : ¬(32 ≤ p ∧ p ≠ 0xFF) := by omega
  have hall : p ≠ 0xFF := by omega
  have hdriver : p ≠ 32 := by omega
  subst hst
  unfold partQuery
  rw [← hp]
  simp only [if_neg hreach, if_neg hrange, if_neg hall, if_neg hdriver, fnOfPart, beq_false_of_ne hdriver,
    Bool.false_or, ite_not]
  rfl

/-- Settles O39: each command comes to the answer of its first failing check, or to MS_OK with its effect. -/
theorem partitionCommands : Obligations.PartitionCommands := by
  intro s f b p q hf hp hq
  obtain rfl : f = 0 := Fin.ext hf
  refine ⟨fun x hx hlt hbuf hres hmax htab hrmin hrmax hburst hlink hlocks => ?_,
    fun h i k g hi hk hg ht => partitionAssignStream_spec h hi hk hg ht,
    fun h i hi => partitionReleaseStream_spec h hi,
    fun g h hlt hg st hst => short_ok (o := exec (.partitionQuery g) s) rfl h (partQuery_partition hp hlt hg hst) rfl⟩
  subst hx
  have hrange : QuotaInRange p q := ⟨hlt, hbuf, hres, hmax, htab, hrmin, hrmax, hburst, hlink, hlocks⟩
  refine ⟨fun h hst => short_fail rfl h (partCreate_present hp hq hrange hst),
    fun h hst => short_fail rfl h (partSetQuota_inactive hp hq hrange hst), fun hmem hgal hshare htables => ?_⟩
  have hpools : QuotaInPools s p q := ⟨hmem, hgal, hshare, htables⟩
  refine ⟨fun h hst w v hw hgrow => ?_, fun h hst hpages hcells howned => ?_⟩
  · subst hw
    exact partitionCreate_absent hp hq hrange hpools h hst hgrow
  · have huse : QuotaCoversUse s p q := ⟨hpages, hcells, howned⟩
    exact ⟨partitionSetQuota_lowers hp hq hrange hpools h hst huse,
      fun hbelow v => partitionSetQuota_grows hp hq hrange hpools h hst huse hbelow⟩

end Sys2Proof.Machine
end

section
/-! Concrete inputs that meet the hypotheses of O31 and O39, with what the statements then say of them. -/

namespace Sys2Proof.Machine

/-! ### O31 -/

/-- A task of stream 0 with one read issued. -/
def oneIssued : TaskRun := { TaskRun.start 0 (List.replicate 64 0) 0 none with issued := 1 }

/-- A device whose channel 0 holds that read, of the first burst of page 0. -/
def oneRead : State := { State.reset with
  mem := { State.reset.mem with reorder := [(0, [⟨0, 0, 0, 1⟩])] }
  streams := [(0, { Stream.idle with slot := some (0, 0), task := some oneIssued })] }

/-- The read returns to the task, and the channel has issued its bursts. -/
theorem readDataReturn_oneRead : ∃ t, exec (.readDataReturn 0 []) oneRead = .next t ∧
    (stream t 0).task = some { oneIssued with returned := [0] } ∧ lkD t.mem.issued 0 0 = 2 ∧ t.mem.reorder = [] := by
  obtain ⟨hread, -⟩ := memoryRows oneRead 0
  exact ⟨_, hread ⟨0, 0, 0, 1⟩ [] (by decide +kernel) rfl (.inl rfl) _ rfl
    (List.forall_mem_singleton.2 ⟨0, by decide +kernel⟩), by decide +kernel, by decide +kernel, by decide +kernel⟩

/-- A device with the repair of burst 0 waiting, whose first byte stands wrong. -/
def oneRepair : State := { State.reset with mem := { State.reset.mem with cells := [(0, 7)], ceBack := [(0, 0)] } }

/-- The repair stores the burst of zeros that the check storage gives. -/
theorem ceWriteBack_oneRepair : ∃ t, exec (.ceWriteBack 0) oneRepair = .next t ∧ cell t 0 = 0 ∧ t.mem.ceBack = [] := by
  obtain ⟨-, -, hrepair, -⟩ := memoryRows oneRepair 0
  exact ⟨_, hrepair 0 0 (by decide +kernel) (by decide +kernel) (by decide +kernel) (.inl rfl) _ rfl,
    by decide +kernel, by decide +kernel⟩

/-- A device with one byte of burst 0 waiting to be combined. -/
def oneWaiting : State := { State.reset with mem := { State.reset.mem with wcb := [(0, [⟨0, 0, [(5, 9)], false, 0⟩])] } }

/-- The byte is merged into the burst. -/
theorem wcbWriteBack_oneWaiting : ∃ t, exec (.wcbWriteBack 0) oneWaiting = .next t ∧ cell t 5 = 9 ∧ t.mem.wcb = [] := by
  obtain ⟨-, -, -, hmerge, -⟩ := memoryRows oneWaiting 0
  exact ⟨_, hmerge ⟨0, 0, [(5, 9)], false, 0⟩ (by decide +kernel) rfl (by decide) (.inl rfl) _ rfl (by decide +kernel),
    by decide +kernel, by decide +kernel⟩

/-- A rank at 70 degrees asks for twice the refreshes. -/
theorem mr4Read_reset : ∃ t, exec (.mr4Read 0 1 70 1) State.reset = .next t ∧ lkD t.mem.mr4Temp 0 0 = 70 ∧
    lkD t.mem.mr4Mult 1 0 = 1 := by
  obtain ⟨-, -, -, -, hmr4, -⟩ := memoryRows State.reset 0
  obtain ⟨t, hexec, htemp, hmult, -⟩ := hmr4 1 70 1 (by decide +kernel) (by decide +kernel) (by decide +kernel)
    (by decide +kernel)
  exact ⟨t, hexec, htemp, hmult⟩

/-- A device at this time. -/
def atTime (n : Nat) : State := { State.reset with clk := { State.reset.clk with aon := n } }

/-- The interval of 3.906 us ends between 97 and 98 periods of 40 ns. -/
theorem perBankRefresh_bounds : exec (.perBankRefresh 0 0) (atTime 97) = .next (atTime 97) ∧
    ∃ t, exec (.perBankRefresh 0 0) (atTime 98) = .next t ∧ lkD t.mem.refreshAt 0 0 = 98 := by
  obtain ⟨-, -, -, -, -, hearly, -⟩ := memoryRows (atTime 97) 0
  obtain ⟨-, -, -, -, -, hdue, -⟩ := memoryRows (atTime 98) 0
  refine ⟨(hearly 0 (by decide +kernel) (by decide +kernel) (by decide +kernel)).trans ?_, _,
    hdue 0 (by decide +kernel) (by decide +kernel) (by decide +kernel), ?_⟩
  · rw [if_neg (by decide +kernel)]
  · rw [if_pos (by decide +kernel)]; rfl

/-- A device whose page 2000 partition 3 has released. -/
def oneReleased : State := { State.reset with pages := [(2000, .zeroing 3)] }

/-- The page is free again. -/
theorem pageZeroed_oneReleased : ∃ t, exec (.pageZeroed 2000) oneReleased = .next t ∧ pageUse t 2000 = .free := by
  obtain ⟨-, -, -, -, -, -, hzeroed, -⟩ := memoryRows oneReleased 0
  obtain ⟨t, hexec, hfree, -⟩ := hzeroed 2000 3 (by decide +kernel) (by decide +kernel)
  exact ⟨t, hexec, hfree⟩

/-- A device that has corrected five bursts of channel 0 this second and dropped two writes to it. -/
def oneSecond : State := { State.reset with mem := { State.reset.mem with ceRun := [(0, 5)], dropRun := [(0, 2)] } }

/-- Each summary posts one record and clears its count. -/
theorem summaries_oneSecond :
    (∃ t, exec (.memCeSummary 0) oneSecond = .next t ∧ lkD t.mem.ceRun 0 0 = 0 ∧ t.evt.seq = 1) ∧
    ∃ t, exec (.channelDropSummary 0) oneSecond = .next t ∧ lkD t.mem.dropRun 0 0 = 0 ∧ t.evt.seq = 1 := by
  obtain ⟨-, -, -, -, -, -, -, hce, hdrop⟩ := memoryRows oneSecond 0
  obtain ⟨t, hexec, hcount, -, hevt, -⟩ := hce (by decide +kernel) rfl
  obtain ⟨u, hexec', hcount', -, hevt', -⟩ := hdrop (by decide +kernel) rfl
  refine ⟨⟨t, hexec, hcount, ?_⟩, u, hexec', hcount', ?_⟩
  · rw [hevt, if_neg (by decide)]; exact postOne_seq ..
  · rw [hevt', if_neg (by decide)]; exact postOne_seq ..

/-! ### O39 -/

/-- Words 0x0C to 0x23 of a request: a quota of 16 pages, this many of them for the window, and QUO_RATE 1. -/
def smallBlock (buf : Byte) : List Byte :=
  [16, 0, 0, 0, buf, 0, 0, 0, 4, 0, 0, 0, 8, 0, 0, 0, 1, 0, 0, 0, 1, 0, 1, 0]

/-- A device with these partitions, its memory swept, that PF0 has asked. -/
def partAsked (parts : Tab Part) (l : List Byte) : State :=
  { pf0Asked l with parts := parts, fw := { State.reset.fw with initDone := true } }

/-- PARTITION_CREATE of partition 3 with two pages in its window. -/
def createPartReq : List Byte := [0x00, 0x02, 0, 0, 0x38, 0, 0, 0, 3, 0, 0, 0] ++ smallBlock 2

theorem createPartReq_ready : Ready (partAsked [] createPartReq) 0 0x200 (reqBytes (pf0Req createPartReq)) := by
  refine ⟨pf0Req createPartReq, ⟨?_, ?_, ?_, ?_, ?_⟩, ?_, ?_, ?_⟩ <;> decide +kernel

/-- The partition is ACTIVE in its first generation. -/
theorem partitionCreate_three : ∃ t u, exec (.partitionCreate 0) (partAsked [] createPartReq) = .next t ∧
    Replied u t 0 0 0 0 [] ∧ (part u 3).st = .active ∧ (part u 3).gen = 1 ∧ (mbxOf u 4).enabled = 1 := by
  obtain ⟨hquota, -⟩ := partitionCommands (partAsked [] createPartReq) 0 (reqBytes (pf0Req createPartReq)) 3 _ rfl
    (by decide +kernel) rfl
  obtain ⟨-, -, hpools⟩ := hquota _ rfl (by decide) (by decide +kernel) (by decide +kernel) (by decide +kernel)
    (by decide +kernel) (by decide +kernel) (by decide +kernel) (by decide +kernel) (by decide +kernel) (by decide +kernel)
  obtain ⟨hcreate, -⟩ := hpools (by decide +kernel) (by decide +kernel) (by decide +kernel) (by decide +kernel)
  obtain ⟨v, hv⟩ := Option.isSome_iff_exists.1 (show (growWindow (partCreated (partAsked [] createPartReq) 3
    (parseQuota (reqBytes (pf0Req createPartReq)))) 3 0 2).isSome = true by decide +kernel)
  obtain ⟨t, u, hexec, hrep, hpart, -, -, henabled, -⟩ := hcreate createPartReq_ready (by decide +kernel) _ v rfl hv
  exact ⟨t, u, hexec, hrep, by rw [hpart], by rw [hpart]; decide +kernel, henabled⟩

/-- PARTITION_SET_QUOTA of partition 0 to the same block, with this many pages in its window. -/
def setQuotaReq (buf : Byte) : List Byte := [0x01, 0x02, 0, 0, 0x38, 0, 0, 0, 0, 0, 0, 0] ++ smallBlock buf

theorem setQuotaReq_ready : Ready (partAsked onePart (setQuotaReq 2)) 0 0x201 (reqBytes (pf0Req (setQuotaReq 2))) := by
  refine ⟨pf0Req (setQuotaReq 2), ⟨?_, ?_, ?_, ?_, ?_⟩, ?_, ?_, ?_⟩ <;> decide +kernel

/-- The block stands, in the same generation. -/
theorem partitionSetQuota_zero : ∃ t u, exec (.partitionSetQuota 0) (partAsked onePart (setQuotaReq 2)) = .next t ∧
    Replied u t 0 0 0 0 [] ∧ (part u 0).q.bufPages = 2 ∧ (part u 0).gen = 7 := by
  obtain ⟨hquota, -⟩ := partitionCommands (partAsked onePart (setQuotaReq 2)) 0 (reqBytes (pf0Req (setQuotaReq 2))) 0 _ rfl
    (by decide +kernel) rfl
  obtain ⟨-, -, hpools⟩ := hquota _ rfl (by decide) (by decide +kernel) (by decide +kernel) (by decide +kernel)
    (by decide +kernel) (by decide +kernel) (by decide +kernel) (by decide +kernel) (by decide +kernel) (by decide +kernel)
  obtain ⟨-, hset⟩ := hpools (by decide +kernel) (by decide +kernel) (by decide +kernel) (by decide +kernel)
  obtain ⟨-, hgrows⟩ := hset setQuotaReq_ready (by decide +kernel) (by decide +kernel) (by decide +kernel) (by decide +kernel)
  obtain ⟨v, hv⟩ := Option.isSome_iff_exists.1 (show (growWindow (setQuota (partAsked onePart (setQuotaReq 2)) 0
    (parseQuota (reqBytes (pf0Req (setQuotaReq 2))))) 0 0 2).isSome = true by decide +kernel)
  obtain ⟨t, u, hexec, hrep, hpart, -⟩ := hgrows (by decide +kernel) v hv
  exact ⟨t, u, hexec, hrep, by rw [hpart]; decide +kernel, by rw [hpart]; decide +kernel⟩

/-- PARTITION_ASSIGN_STREAM of stream 5 to slot 2 of partition 0. -/
def assignReq : List Byte := [0x02, 0x02, 0, 0, 0x0C, 0, 0, 0, 0, 5, 2, 0]

theorem assignReq_ready : Ready (partAsked onePart assignReq) 0 0x202 (reqBytes (pf0Req assignReq)) := by
  refine ⟨pf0Req assignReq, ⟨?_, ?_, ?_, ?_, ?_⟩, ?_, ?_, ?_⟩ <;> decide +kernel

/-- The stream stands in the slot of function 1. -/
theorem partitionAssignStream_five : ∃ t u, exec (.partitionAssignStream 0) (partAsked onePart assignReq) = .next t ∧
    Replied u t 0 0 0 0 [] ∧ (stream u 5).slot = some (1, 2) := by
  obtain ⟨-, hassign, -⟩ := partitionCommands (partAsked onePart assignReq) 0 (reqBytes (pf0Req assignReq)) _ _ rfl rfl rfl
  obtain ⟨hidle, -⟩ := hassign assignReq_ready 5 2 1 (by decide +kernel) (by decide +kernel) (by decide +kernel)
    (.inr ⟨by decide +kernel, by decide +kernel⟩)
  obtain ⟨t, u, hexec, hrep, hstream, -⟩ := hidle (by decide +kernel) (by decide +kernel)
  exact ⟨t, u, hexec, hrep, by rw [hstream]⟩

/-- PARTITION_RELEASE_STREAM of stream 5. -/
def releaseReq : List Byte := [0x03, 0x02, 0, 0, 0x0C, 0, 0, 0, 5, 0, 0, 0]

/-- A device whose stream 5 stands in slot 2 of function 1, with one descriptor pending or none. -/
def fiveAssigned (pending : Bool) : State := { partAsked onePart releaseReq with
  streams := [(5, { Stream.idle with slot := some (1, 2), tail := if pending then 1 else 0 })] }

theorem releaseReq_ready (pending : Bool) : Ready (fiveAssigned pending) 0 0x203 (reqBytes (pf0Req releaseReq)) := by
  refine ⟨pf0Req releaseReq, ⟨?_, ?_, ?_, ?_, ?_⟩, ?_, ?_, ?_⟩ <;> revert pending <;> decide +kernel

/-- The stream is returned, unless a descriptor is pending. -/
theorem partitionReleaseStream_five :
    (∃ t u, exec (.partitionReleaseStream 0) (fiveAssigned false) = .next t ∧ Replied u t 0 0 0 0 [] ∧
      stream u 5 = Stream.idle) ∧
    ∃ t, exec (.partitionReleaseStream 0) (fiveAssigned true) = .next t ∧ Replied (fiveAssigned true) t 0 0x19 3 0 [] := by
  obtain ⟨-, -, hidle, -⟩ := partitionCommands (fiveAssigned false) 0 (reqBytes (pf0Req releaseReq)) _ _ rfl rfl rfl
  obtain ⟨-, -, hpending, -⟩ := partitionCommands (fiveAssigned true) 0 (reqBytes (pf0Req releaseReq)) _ _ rfl rfl rfl
  obtain ⟨-, hreleased⟩ := hidle (releaseReq_ready false) 5 (by decide +kernel)
  obtain ⟨-, hkept⟩ := hpending (releaseReq_ready true) 5 (by decide +kernel)
  obtain ⟨t, u, hexec, hrep, hstream, -⟩ := (hreleased 1 2 rfl).1 (by decide +kernel)
  exact ⟨⟨t, u, hexec, hrep, hstream⟩, (hkept 1 2 rfl).2 (by decide +kernel)⟩

/-- PARTITION_QUERY of partition 0. -/
def queryPartReq : List Byte := [0x06, 0x02, 0, 0, 0x0C, 0, 0, 0, 0, 0, 0, 0]

theorem queryPartReq_ready : Ready (partAsked onePart queryPartReq) 0 0x206 (reqBytes (pf0Req queryPartReq)) := by
  refine ⟨pf0Req queryPartReq, ⟨?_, ?_, ?_, ?_, ?_⟩, ?_, ?_, ?_⟩ <;> decide +kernel

/-- The query answers that the partition is ACTIVE, with its 16 pages. -/
theorem partitionQuery_zero : ∃ t res, exec (.partitionQuery 0) (partAsked onePart queryPartReq) = .next t ∧
    Replied (partAsked onePart queryPartReq) t 0 0 0 0 res ∧ res.take 8 = [1, 0, 0, 0, 16, 0, 0, 0] := by
  obtain ⟨-, -, -, hquery⟩ := partitionCommands (partAsked onePart queryPartReq) 0 (reqBytes (pf0Req queryPartReq)) 0 _ rfl
    (by decide +kernel) rfl
  obtain ⟨t, hexec, hrep⟩ := hquery 0 queryPartReq_ready (by decide) (.inl rfl) 1 (by decide +kernel)
  exact ⟨t, _, hexec, hrep, by decide +kernel⟩

end Sys2Proof.Machine
end

section
/-! O24: a read is issued with a token of each bucket, a landing place, a place in DEPTH and one in its channel's queue
(R205, R284 to R288). -/

namespace Sys2Proof.Machine

/-! ### Tokens taken (R287) -/

section
variable (s : State) (i : Nat) (l : List Acc)

theorem takeReads_mem : (takeReads s i l).mem = s.mem := rfl

theorem takeReads_quo :
    (takeReads s i l).quo = adj s.quo (streamPart s i) (fun q => { q with level := q.level - l.length }) := rfl

theorem stream_takeReads_self :
    stream (takeReads s i l) i = { stream s i with level := (stream s i).level - l.length } := stream_setStream_self s i _

theorem stream_takeReads_ne {j : Nat} (h : j ≠ i) : stream (takeReads s i l) j = stream s j := stream_setStream_ne s _ h

end

/-- The stream's read has found no token: its partition's bucket notes the refusal where it is the empty one (R288). -/
def readRefused (s : State) (i : Nat) : State :=
  { s with quo := adj s.quo (streamPart s i) (fun q => { q with refused := q.refused || q.level == 0 }) }

theorem quo_readRefused (s : State) (i : Nat) {p : Nat} {q : PQuo} (hp : p = streamPart s i) (hq : lk s.quo p = some q) :
    lk (readRefused s i).quo p = some { q with refused := q.refused || q.level == 0 } := by
  subst hp
  exact (lk_adj_self ..).trans (congrArg (Option.map _) hq)

/-- The stream's read a has joined the queue of channel c. -/
def readIssued (s : State) (i : Nat) (t : TaskRun) (a : Acc) (c : Nat) : State :=
  setTask (takeReads { s with mem := { s.mem with reorder := put s.mem.reorder c (lkD s.mem.reorder c [] ++
    [⟨i, t.issued, a.pa, cdiv (a.pa % 64 + a.len) 64⟩]) } } i [a]) i { t with issued := t.issued + 1 }

/-! ### A read joins its channel's queue -/

section
variable (s : State) (i : Nat) (t : TaskRun) (a : Acc) (c : Nat)

theorem reorder_readIssued_self : lkD (readIssued s i t a c).mem.reorder c [] =
    lkD s.mem.reorder c [] ++ [⟨i, t.issued, a.pa, cdiv (a.pa % 64 + a.len) 64⟩] := lkD_put_self ..

theorem reorder_readIssued_ne {d : Nat} (h : d ≠ c) :
    lkD (readIssued s i t a c).mem.reorder d [] = lkD s.mem.reorder d [] := lkD_put_ne _ _ _ h

/-- The read counts as issued, and the stream's bucket has one token less. -/
theorem stream_readIssued_self : stream (readIssued s i t a c) i =
    { stream s i with level := (stream s i).level - 1, task := some { t with issued := t.issued + 1 } } := by
  rw [readIssued, setTask, stream_setStream_self, stream_takeReads_self]
  rfl

theorem stream_readIssued_ne {j : Nat} (h : j ≠ i) : stream (readIssued s i t a c) j = stream s j :=
  (stream_setStream_ne _ _ h).trans (stream_takeReads_ne _ i [a] h)

/-- So has the bucket of the stream's partition. -/
theorem quo_readIssued {p : Nat} {q : PQuo} (hp : p = streamPart s i) (hq : lk s.quo p = some q) :
    lk (readIssued s i t a c).quo p = some { q with level := q.level - 1 } := by
  subst hp
  exact (lk_adj_self ..).trans (congrArg (Option.map _) hq)

end

/-! ### The row -/

section
variable {s : State} {i : Nat} {t : TaskRun} {a : Acc} {c l : Nat}
  (htask : (stream s i).task = some t) (hdone : t.done = none) (hengine : engineOk s t.type = true)
  (hread : (planReads s i t)[t.issued - t.base]? = some a) (hhbm : a.pa < spillBase)
  (hslug : slugLoc s (a.pa / 65536) (a.pa / 256 % 256) = .at_ c l)
include htask hdone hengine hread

/-- With DEPTH reached or no landing place the read waits (R284, R285). -/
theorem readIssue_waits (h : strEff s i 0x30 % 1024 ≤ outstanding s i ∨ landRoom s i t (planReads s i t) ≤ t.issued) :
    readIssue s i = s := by
  simp [readIssue, htask, hdone, hengine, hread, h]

section
variable (hdepth : outstanding s i < strEff s i 0x30 % 1024) (hroom : t.issued < landRoom s i t (planReads s i t))
include hdepth hroom

/-- Without a token it is refused (R288). -/
theorem readIssue_refused (h : tokens s i = 0) : readIssue s i = readRefused s i := by
  simp [readIssue, htask, hdone, hengine, hread, hdepth.not_ge, hroom.not_ge, h, readRefused]

include hhbm hslug

/-- With a token it joins the queue of its channel, or waits while 12 reads stand there (R205). -/
theorem readIssue_token (h : 0 < tokens s i) :
    readIssue s i = if 12 ≤ (lkD s.mem.reorder c []).length then s else readIssued s i t a c := by
  simp [readIssue, htask, hdone, hengine, hread, hdepth.not_ge, hroom.not_ge, h.ne', hhbm.not_ge, hslug, readIssued]

end

end

theorem exec_readIssue (s : State) (i : SId) : exec (.readIssue i) s = .next (readIssue s i.val) := rfl

/-- Settles O24: the row waits, is refused, or issues the read, by DEPTH and landing place, tokens and the queue. -/
theorem readsTakeTokens : Obligations.ReadsTakeTokens := by
  intro s i t a c l p htask hdone hengine hp hread hhbm hslug
  simp only [exec_readIssue]
  refine ⟨fun hdepth hroom => ?_, fun h => by rw [readIssue_waits htask hdone hengine hread h]⟩
  have htoken := readIssue_token htask hdone hengine hread hhbm hslug hdepth hroom
  refine ⟨fun hpos hlen => ?_, fun hnone => ?_, fun hpos hfull => ?_⟩
  · rw [htoken hpos, if_neg (Nat.not_le.2 hlen)]
    have hself := stream_readIssued_self s i.val t a c
    exact ⟨_, rfl, reorder_readIssued_self .., fun d hd => reorder_readIssued_ne s _ t a c hd,
      by rw [hself], by rw [hself], fun q hq => quo_readIssued s _ t a c hp hq,
      fun j hj => stream_readIssued_ne s _ t a c hj⟩
  · rw [readIssue_refused htask hdone hengine hread hdepth hroom hnone]
    exact ⟨_, rfl, fun q hq => quo_readRefused s i.val hp hq, rfl⟩
  · rw [htoken hpos, if_pos hfull]

end Sys2Proof.Machine
end

section
/-! O33: the quoin period (R288, R289), the arbitration epoch (R411, R412, R416) and the margin slot (R220). -/

namespace Sys2Proof.Machine

/-! ### A period edge -/

/-- A stream's slot register reads by its slot and the effective registers. -/
theorem strEff_congr {s t : State} {i : Nat} (o : Nat) (hslot : (stream t i).slot = (stream s i).slot)
    (heff : t.cfg.effective = s.cfg.effective) : strEff t i o = strEff s i o := by
  simp only [strEff, slotEff, effective, hslot, heff]

/-- The quoin-boundary registers of the domains that run take effect (R133, R57). -/
def quoinApplied (s : State) : State := applyKeys s (fun k => keyAt k .quoin)

theorem stream_quoinApplied (s : State) (i : Nat) : stream (quoinApplied s) i = stream s i := by
  rw [quoinApplied, applyKeys, bringKeys_frame]
  rfl

/-- A stream at a period edge, with STR_QUOIN at v. -/
def streamEdge (v : Nat) (x : Stream) : Stream := { x with level := bucketEdge x.level (v % 8192) (v / 65536) }

/-- A partition's bucket at a period edge, under this quota. -/
def quoEdge (q : Quota) (x : PQuo) : PQuo := ⟨q.quoRate, q.quoBurst, bucketEdge x.level q.quoRate q.quoBurst, false⟩

/-- Counting the periods of some partitions changes the counters alone. -/
theorem foldl_cntAdd_frame {β : Type} (l : List β) (p : β → Bool) (k : β → Nat) (s : State) : ∃ c,
    l.foldl (fun s e => if p e then cntAdd s (k e) 1 else s) s = { s with cfg := { s.cfg with cnt := c } } := by
  induction l generalizing s with
  | nil => exact ⟨_, rfl⟩
  | cons e l ih =>
    obtain ⟨c, hc⟩ := ih (if p e then cntAdd s (k e) 1 else s)
    refine ⟨c, ?_⟩
    rw [List.foldl_cons, hc]
    split <;> rfl

/-- What a period edge does: the quoin-boundary registers and the management words take effect, and every bucket, the
throttle counters, the functions held and the burst counts follow. -/
theorem quoinEdge_frame (s : State) : ∃ c h, quoinEdge s = { s with
    cfg := { s.cfg with
      effective := (quoinApplied s).cfg.effective, mgmtEff := s.cfg.mgmtCommitted, cnt := c }
    streams := s.streams.map (fun e => (e.1, streamEdge (strEff (quoinApplied s) e.1 0x34) e.2))
    quo := s.quo.map (fun e => (e.1, quoEdge (part s e.1).q e.2))
    hif := { s.hif with held := h }
    mem := { s.mem with burstCap := burstCapOf s.pwr.step, issued := [] } } := by
  unfold quoinEdge
  have hkeys := bringKeys_frame s (fun k => keyAt k .quoin && keyRuns s k)
  dsimp only [quoinApplied, applyKeys]
  rw [hkeys]
  dsimp only
  obtain ⟨c, hc⟩ := foldl_cntAdd_frame s.quo (fun e => e.2.refused) (fun e => quoThrottleKey e.1) _
  rw [hc]
  exact ⟨_, _, rfl⟩

section
variable (s : State)

/-- A quoin-boundary register whose domain runs takes its committed value, and no other register changes (R133, R57). -/
theorem effective_quoinEdge (k : Nat) : effective (quoinEdge s) k =
    if keyAt k .quoin && keyRuns s k then committed s k else effective s k := by
  obtain ⟨c, h, hu⟩ := quoinEdge_frame s
  rw [hu]
  exact effective_bringKeys s (fun k => keyAt k .quoin && keyRuns s k) k

theorem mgmtEff_quoinEdge : (quoinEdge s).cfg.mgmtEff = s.cfg.mgmtCommitted := by
  obtain ⟨c, h, hu⟩ := quoinEdge_frame s
  rw [hu]

theorem pod_quoinEdge : (quoinEdge s).pod = s.pod := by
  obtain ⟨c, h, hu⟩ := quoinEdge_frame s
  rw [hu]

/-- A channel's burst count begins anew, under the cap of the step in force (R210). -/
theorem mem_quoinEdge : (quoinEdge s).mem = { s.mem with burstCap := burstCapOf s.pwr.step, issued := [] } := by
  obtain ⟨c, h, hu⟩ := quoinEdge_frame s
  rw [hu]

/-- Every partition's bucket is bounded and filled by its quota (R288, R289). -/
theorem lk_quo_quoinEdge (p : Nat) : lk (quoinEdge s).quo p = (lk s.quo p).map (quoEdge (part s p).q) := by
  obtain ⟨c, h, hu⟩ := quoinEdge_frame s
  rw [hu]
  exact lk_map_val s.quo (fun p => quoEdge (part s p).q) p

/-- Every stream's bucket is bounded and filled by the STR_QUOIN now in effect (R288, R289). -/
theorem lk_streams_quoinEdge (i : Nat) :
    lk (quoinEdge s).streams i = (lk s.streams i).map (streamEdge (strEff (quoinEdge s) i 0x34)) := by
  obtain ⟨c, h, hu⟩ := quoinEdge_frame s
  have hlk : lk (quoinEdge s).streams i = (lk s.streams i).map (streamEdge (strEff (quoinApplied s) i 0x34)) := by
    rw [hu]
    exact lk_map_val s.streams (fun i => streamEdge (strEff (quoinApplied s) i 0x34)) i
  rw [hlk]
  refine congrArg (fun v => (lk s.streams i).map (streamEdge v)) (strEff_congr 0x34 ?_ ?_)
  · rw [stream_quoinApplied, stream, stream, lkD, lkD, hlk]
    cases lk s.streams i <;> rfl
  · rw [hu]

end

theorem streams_quoinEdge_nil {s : State} (h : s.streams = []) : (quoinEdge s).streams = [] := by
  obtain ⟨c, k, hu⟩ := quoinEdge_frame s
  rw [hu, h]
  rfl

/-! ### What waits for the period -/

theorem serveAll_of_none {s : State} (h : s.pod.ownerReqs = []) : serveAll s = s := by
  simp only [serveAll, h, List.foldl_nil]
  rw [← h]

theorem admitAll_of_none {s : State} (h : s.streams = []) : admitAll s = s := by
  simp only [admitAll, h, List.map_nil, List.foldl_nil]

theorem exec_quoinPeriod_due {s : State} (hdue : isDue s .quoin = true) (hoff : s.pwr.off = false) :
    exec .quoinPeriod s = .next (admitAll (serveAll (quoinEdge (setDue s .quoin 25)))) := by
  simp [exec, execQuoinPeriod, hdue, hoff]

theorem exec_quoinPeriod_early {s : State} (hdue : isDue s .quoin = false) : exec .quoinPeriod s = .next s := by
  simp [exec, execQuoinPeriod, hdue]

/-- The clause of QUOIN_PERIOD. -/
theorem quoinPeriod_spec {s u : State} (hdue : isDue s .quoin = true) (hoff : s.pwr.off = false)
    (hu : u = quoinEdge (setDue s .quoin 25)) :
    exec .quoinPeriod s = .next (admitAll (serveAll u)) ∧
    (s.streams = [] → s.pod.ownerReqs = [] → exec .quoinPeriod s = .next u) ∧
    (∀ k, effective u k = if keyAt k .quoin && keyRuns s k then committed s k else effective s k) ∧
    u.cfg.mgmtEff = s.cfg.mgmtCommitted ∧
    (∀ i x, lk s.streams i = some x → ∃ y, lk u.streams i = some y ∧
      y.level = min (min x.level (strEff u i 0x34 / 65536) + strEff u i 0x34 % 8192) (strEff u i 0x34 / 65536) ∧
      y = { x with level := y.level }) ∧
    (∀ p x, lk s.quo p = some x → ∃ y, lk u.quo p = some y ∧ y.rate = (part s p).q.quoRate ∧
      y.burst = (part s p).q.quoBurst ∧ y.refused = false ∧
      y.level = min (min x.level (part s p).q.quoBurst + (part s p).q.quoRate) (part s p).q.quoBurst) ∧
    u.mem.issued = [] ∧ u.mem.burstCap = burstCapOf s.pwr.step := by
  subst hu
  have hexec := exec_quoinPeriod_due hdue hoff
  have hmem := mem_quoinEdge (setDue s .quoin 25)
  refine ⟨hexec, fun hstreams hreqs => ?_, effective_quoinEdge (setDue s .quoin 25),
    mgmtEff_quoinEdge (setDue s .quoin 25), fun i x hx => ?_, fun p x hx => ?_, by rw [hmem], by rw [hmem]; rfl⟩
  · have hreqs' : (quoinEdge (setDue s .quoin 25)).pod.ownerReqs = [] := by rw [pod_quoinEdge]; exact hreqs
    rw [hexec, serveAll_of_none hreqs', admitAll_of_none (streams_quoinEdge_nil (s := setDue s .quoin 25) hstreams)]
  · exact ⟨_, (lk_streams_quoinEdge (setDue s .quoin 25) i).trans (congrArg (Option.map _) hx), rfl, rfl⟩
  · exact ⟨_, (lk_quo_quoinEdge (setDue s .quoin 25) p).trans (congrArg (Option.map _) hx), rfl, rfl, rfl, rfl⟩

/-! ### An arbitration epoch (R411, R412, R416) -/

/-- The state at the end of an epoch's sampling of priorities. -/
def sampled (s : State) : State := sampleUnits (sampleLinks (sampleCells (samplePrios (setDue s .epoch 4))))

/-- A lock j under sampling and granting, where it is the only one listed. -/
theorem exec_arbitrationEpoch_one {s : State} {j : Nat} (hdue : isDue s .epoch = true) (hoff : s.pwr.off = false)
    (hstop : dpStop (sampled s) = false) (hone : lockIds (sampled s) = [j]) :
    exec .arbitrationEpoch s = .next (grantLock (sampleLock (sampled s) j) j) := by
  rw [sampled] at hstop hone ⊢
  simp [exec, execArbitrationEpoch, hdue, hoff, hstop, hone]

theorem exec_arbitrationEpoch_early {s : State} (hdue : isDue s .epoch = false) :
    exec .arbitrationEpoch s = .next s := by
  simp [exec, execArbitrationEpoch, hdue]

/-- With every priority as it was, the queue keeps its order (R412). -/
theorem sampleLock_of_unchanged {u : State} {j : Nat} (h : ∀ y ∈ (lockOf u j).waiters, wantPrio u y = y.prio) :
    sampleLock u j = setLock u j (lockOf u j) := by
  have hmoved : (lockOf u j).waiters.filter (fun w => wantPrio u w != w.prio) = [] :=
    List.filter_eq_nil_iff.2 fun y hy => by simp [h y hy]
  have hkept : (lockOf u j).waiters.filter (fun w => wantPrio u w == w.prio) = (lockOf u j).waiters :=
    List.filter_eq_self.2 fun y hy => by simp [h y hy]
  simp only [sampleLock, hmoved, hkept, List.foldl_nil]

/-- The lock x in the hands of the head w of its queue, with r behind it: HELD, or HELD_RECOVERING. -/
def lockGranted (x : LockSt) (w : Waiter) (r : List Waiter) (st : Nat) : LockSt :=
  { x with st := st, holder := some w.who, waiters := r, renewAt := w.renewAt, notBefore := 0 }

section
variable {s : State} {j : Nat} {x : LockSt} {w : Waiter} {r : List Waiter}
  (hx : lockOf s j = x) (hqueue : x.waiters = w :: r)
include hx hqueue

/-- A FREE lock goes to the head of its queue. -/
theorem grantLock_free (h : x.st = 0) :
    grantLock s j = tellHolder (setLock s j (lockGranted x w r 1)) w.who false := by
  simp [grantLock, hx, hqueue, h, lockGranted]

/-- So does an ABANDONED one whose wait is over, with a record for the partition (R415, R421). -/
theorem grantLock_abandoned (h : x.st = 2) (hwait : x.notBefore ≤ s.clk.timer) :
    grantLock s j = tellHolder (postP (setLock s j (lockGranted x w r 3))
      (w.who.part (setLock s j (lockGranted x w r 3))) 0x0802 3 j 0 0 0) w.who true := by
  simp [grantLock, hx, hqueue, h, hwait, lockGranted]

/-- A held lock stays. -/
theorem grantLock_held (h : x.st = 1 ∨ x.st = 3) : grantLock s j = s := by
  rcases h with h | h <;> simp [grantLock, hx, hqueue, h]

end

/-- A function that holds by register is told by its counters alone (Table 14.7). -/
theorem tellHolder_reg_frame (s : State) (f : Nat) (abandoned : Bool) : tellHolder s (.reg f) abandoned =
    { s with cfg := { s.cfg with cnt := (tellHolder s (.reg f) abandoned).cfg.cnt } } := rfl

theorem cnt_tellHolder_reg (s : State) (f : Nat) (abandoned : Bool) :
    cnt (tellHolder s (.reg f) abandoned) (rk f 0x3340) = cnt s (rk f 0x3340) + 1 ∧
    cnt (tellHolder s (.reg f) abandoned) (rk f 0x3348) = cnt s (rk f 0x3348) + b2n abandoned := by
  have hne : rk f 0x3340 ≠ rk f 0x3348 := by simp [rk]
  rw [tellHolder, cnt_cntAdd_ne _ _ hne, cnt_cntAdd_self, cnt_cntAdd_self, cnt_cntAdd_ne _ _ hne.symm]
  exact ⟨rfl, rfl⟩

/-- The clause of ARBITRATION_EPOCH, for a lock x with a function's request at the head of its queue. -/
theorem arbitrationEpoch_spec {s u : State} {j : Nat} {x : LockSt} {w : Waiter} {r : List Waiter} {f : Nat}
    (hdue : isDue s .epoch = true) (hoff : s.pwr.off = false) (hu : u = sampled s) (hstop : dpStop u = false)
    (hone : lockIds u = [j]) (hx : lockOf u j = x) (hqueue : x.waiters = w :: r)
    (hprio : ∀ y ∈ x.waiters, wantPrio u y = y.prio) (hw : w.who = .reg f) :
    (x.st = 0 → ∃ t, exec .arbitrationEpoch s = .next t ∧
      lockOf t j = { x with st := 1, holder := some (.reg f), waiters := r, renewAt := w.renewAt, notBefore := 0 } ∧
      t.evt = u.evt ∧ cnt t (rk f 0x3340) = cnt u (rk f 0x3340) + 1 ∧
      t = { u with locks := t.locks, cfg := { u.cfg with cnt := t.cfg.cnt } }) ∧
    (x.st = 2 → x.notBefore ≤ u.clk.timer → ∃ t, exec .arbitrationEpoch s = .next t ∧
      lockOf t j = { x with st := 3, holder := some (.reg f), waiters := r, renewAt := w.renewAt, notBefore := 0 } ∧
      t.evt = (postP u (partOfFn f) 0x0802 3 j 0 0 0).evt ∧ cnt t (rk f 0x3348) = cnt u (rk f 0x3348) + 1 ∧
      t = { u with locks := t.locks, evt := t.evt, cfg := { u.cfg with cnt := t.cfg.cnt } }) ∧
    (x.st = 1 ∨ x.st = 3 → ∃ t, exec .arbitrationEpoch s = .next t ∧ lockOf t j = x ∧ t = { u with locks := t.locks }) := by
  have hexec := exec_arbitrationEpoch_one hdue hoff (hu ▸ hstop) (hu ▸ hone)
  rw [← hu, sampleLock_of_unchanged (hx ▸ hprio), hx] at hexec
  have hself : lockOf (setLock u j x) j = x := lockOf_setLock_self ..
  refine ⟨fun hfree => ?_, fun habandoned hwait => ?_, fun hheld => ?_⟩
  · rw [grantLock_free hself hqueue hfree, lockGranted, hw] at hexec
    refine ⟨_, hexec, ?_, ?_, (cnt_tellHolder_reg ..).1, ?_⟩
    · rw [tellHolder_reg_frame]
      exact lockOf_setLock_self ..
    · rw [tellHolder_reg_frame]
      rfl
    · rw [tellHolder_reg_frame]
      rfl
  · rw [grantLock_abandoned hself hqueue habandoned hwait, lockGranted, hw] at hexec
    refine ⟨_, hexec, ?_, postOne_evt u _ _ rfl rfl rfl, ?_, ?_⟩
    · rw [tellHolder_reg_frame, postP_frame]
      exact lockOf_setLock_self ..
    · refine (cnt_tellHolder_reg ..).2.trans ?_
      rw [postP_frame]
      rfl
    · rw [tellHolder_reg_frame, postP_frame]
      rfl
  · rw [grantLock_held hself hqueue hheld] at hexec
    exact ⟨_, hexec, hself, rfl⟩

/-! ### A margin slot (R220) -/

/-- With pairs left to measure, a margin operation goes on. -/
theorem marginEnd_of_lt {s : State} {o : Op} (h : o.acc.length < o.unitsTotal) : marginEnd s o = setOp s o := by
  rw [marginEnd, if_pos h]

/-- The first slot of a channel measures a pair that is still wanted. -/
theorem exec_marginSlot_wanted {s : State} {c : Ch} {kind : Fin 4} {left right k top v : Nat} {o : Op}
    (hk : k = 4 * c.val + kind.val) (htop : top = if kind.val % 2 = 0 then 32 else 40)
    (hv : v = marginCode k (min left top) (min right top) (decide (top ≤ left)) (decide (top ≤ right))
      (lkD s.mem.chState c.val 0 != 0))
    (hruns : runs s 1 = true) (hop : opRunning s 0x603 = some o) (hfirst : lk s.mem.marginAt c.val = none)
    (hpair : k ∈ marginPairs o.req) (hnew : k ∉ o.acc.map (· % 256)) :
    exec (.marginSlot c kind left right) s =
      .next (marginEnd { s with mem := { s.mem with marginAt := put s.mem.marginAt c.val s.clk.aon } }
        { o with acc := o.acc ++ [v], unitsDone := o.unitsDone + 1 }) := by
  subst hk htop hv
  have hpair' : (marginPairs o.req).contains (4 * c.val + kind.val) = true := List.contains_iff_mem.2 hpair
  have hnew' : (o.acc.map (· % 256)).contains (4 * c.val + kind.val) = false := by
    rw [← Bool.not_eq_true, List.contains_iff_mem]; exact hnew
  simp only [exec, execMarginSlot, hop, hfirst, hruns, hpair', hnew', Bool.not_true, Bool.or_false,
    Bool.false_eq_true, if_false]

/-- Settles O33: the clause of each row, and that the two periodic ones wait until they are due. -/
theorem periodsAndEpochs : Obligations.PeriodsAndEpochs := by
  intro s
  refine ⟨fun u hdue hoff hu => quoinPeriod_spec hdue hoff hu, exec_quoinPeriod_early,
    fun u j x w r f hdue hoff hu => arbitrationEpoch_spec hdue hoff hu, exec_arbitrationEpoch_early,
    fun c kind left right o v hruns hop hfirst hpair hnew hlen hv => ?_⟩
  rw [exec_marginSlot_wanted rfl rfl hv hruns hop hfirst hpair hnew, marginEnd_of_lt]
  simpa using hlen

end Sys2Proof.Machine
end

section
/-! Concrete inputs that meet the hypotheses of O24 and O33, with what the statements then say of them. -/

namespace Sys2Proof.Machine

/-! ### O24 -/

/-- A COPY in flight of the 64 bytes at the start of the buffer window. -/
def windowCopy : TaskRun :=
  TaskRun.start 0 (slice [8, 0, 0, 0, 0, 0, 0, 0, 0, 0, 16, 0, 0, 0, 0, 0, 0, 0, 0, 0, 0, 0, 0, 0x80] 0 64) 0 none

/-- A device whose stream 0 of partition 0, with this many tokens, runs that task over page 2000, where this many reads of
stream 1 stand in the channel of the page. -/
def copying (level queued : Nat) : State := { State.reset with
  pages := [(2000, .buffer 0 0)]
  mem := { State.reset.mem with reorder := [(58, List.replicate queued ⟨1, 0, 0, 1⟩)] }
  streams := [(0, { Stream.idle with slot := some (1, 0), task := some windowCopy, level := level })]
  quo := [(0, ⟨10, 10, 3, false⟩)] }

/-- With a token and 11 reads in the queue the read is issued as the twelfth. -/
theorem readIssue_copying : ∃ u, exec (.readIssue 0) (copying 1 11) = .next u ∧ (lkD u.mem.reorder 58 []).length = 12 ∧
    (stream u 0).level = 0 ∧ lk u.quo 0 = some ⟨10, 10, 2, false⟩ := by
  obtain ⟨hroom, -⟩ := readsTakeTokens (copying 1 11) 0 windowCopy ⟨2000 * 65536, 64⟩ 58 8003 0 rfl rfl (by decide +kernel)
    (by decide +kernel) (by decide +kernel) (by decide +kernel) (by decide +kernel)
  obtain ⟨hissued, -⟩ := hroom (by decide +kernel) (by decide +kernel)
  obtain ⟨u, hexec, hqueue, -, -, hlevel, hquo, -⟩ := hissued (by decide +kernel) (by decide +kernel)
  exact ⟨u, hexec, by rw [hqueue]; rfl, hlevel.trans (by decide +kernel), hquo _ rfl⟩

/-- With 12 reads there it waits, and without a token it is refused. -/
theorem readIssue_copying_waits : exec (.readIssue 0) (copying 1 12) = .next (copying 1 12) ∧
    ∃ u, exec (.readIssue 0) (copying 0 0) = .next u ∧ u = { copying 0 0 with quo := u.quo } := by
  obtain ⟨hfull, -⟩ := readsTakeTokens (copying 1 12) 0 windowCopy ⟨2000 * 65536, 64⟩ 58 8003 0 rfl rfl (by decide +kernel)
    (by decide +kernel) (by decide +kernel) (by decide +kernel) (by decide +kernel)
  obtain ⟨hempty, -⟩ := readsTakeTokens (copying 0 0) 0 windowCopy ⟨2000 * 65536, 64⟩ 58 8003 0 rfl rfl (by decide +kernel)
    (by decide +kernel) (by decide +kernel) (by decide +kernel) (by decide +kernel)
  obtain ⟨-, -, hwaits⟩ := hfull (by decide +kernel) (by decide +kernel)
  obtain ⟨-, hrefused, -⟩ := hempty (by decide +kernel) (by decide +kernel)
  obtain ⟨u, hexec, -, hframe⟩ := hrefused (by decide +kernel)
  exact ⟨hwaits (by decide +kernel) (by decide +kernel), u, hexec, hframe⟩

/-! ### O33 -/

/-- A device with a write of STR_QUOIN held for stream 0 of partition 0 (RATE 100, BURST 150), which has 120 tokens; the
partition has 9, of a quota of RATE 2 and BURST 5. -/
def quoinHeld : State := { State.reset with
  cfg := { State.reset.cfg with committed := [(slotKey 1 0 0x34, 150 * 65536 + 100)] }
  parts := [(0, ⟨.active, { Quota.none with quoRate := 2, quoBurst := 5 }, 1⟩)]
  streams := [(0, { Stream.idle with slot := some (1, 0), level := 120 })]
  quo := [(0, ⟨10, 10, 9, true⟩)] }

/-- The write takes effect, and the buckets hold what the settings now in effect give. -/
theorem quoinEdge_quoinHeld : effective (quoinEdge (setDue quoinHeld .quoin 25)) (slotKey 1 0 0x34) = 150 * 65536 + 100 ∧
    (∃ y, lk (quoinEdge (setDue quoinHeld .quoin 25)).streams 0 = some y ∧ y.level = 150) ∧
    ∃ y, lk (quoinEdge (setDue quoinHeld .quoin 25)).quo 0 = some y ∧ y.level = 5 ∧ y.refused = false := by
  obtain ⟨hquoin, -⟩ := periodsAndEpochs quoinHeld
  obtain ⟨-, -, heff, -, hstreams, hquo, -⟩ := hquoin _ (by decide +kernel) rfl rfl
  obtain ⟨y, hy, hlevel, -⟩ := hstreams 0 _ rfl
  obtain ⟨z, hz, -, -, hrefused, hzlevel⟩ := hquo 0 _ rfl
  refine ⟨(heff _).trans (by decide +kernel), ⟨y, hy, hlevel.trans ?_⟩, z, hz, hzlevel.trans (by decide +kernel), hrefused⟩
  decide +kernel

/-- A device whose lock 5 stands in this state, with a request of VF 1 in its queue. -/
def lockWaiting (st : Nat) : State := { State.reset with
  locks := { State.reset.locks with locks := [(5, ⟨st, none, [⟨.reg 1, 0, 0, 0, 0⟩], 0, 0⟩)] } }

/-- A FREE lock is HELD after the epoch, and an ABANDONED one HELD_RECOVERING. -/
theorem arbitrationEpoch_lockWaiting :
    (∃ t, exec .arbitrationEpoch (lockWaiting 0) = .next t ∧ lockOf t 5 = ⟨1, some (.reg 1), [], 0, 0⟩) ∧
    ∃ t, exec .arbitrationEpoch (lockWaiting 2) = .next t ∧ lockOf t 5 = ⟨3, some (.reg 1), [], 0, 0⟩ ∧ t.evt.seq = 1 := by
  obtain ⟨-, -, hfree, -⟩ := periodsAndEpochs (lockWaiting 0)
  obtain ⟨-, -, habandoned, -⟩ := periodsAndEpochs (lockWaiting 2)
  obtain ⟨hheld, -⟩ := hfree _ 5 _ ⟨.reg 1, 0, 0, 0, 0⟩ [] 1 (by decide +kernel) rfl rfl (by decide +kernel)
    (by decide +kernel) rfl (by decide +kernel) (by decide +kernel) rfl
  obtain ⟨-, hrecovering, -⟩ := habandoned _ 5 _ ⟨.reg 1, 0, 0, 0, 0⟩ [] 1 (by decide +kernel) rfl rfl (by decide +kernel)
    (by decide +kernel) rfl (by decide +kernel) (by decide +kernel) rfl
  obtain ⟨t, hexec, hlock, -⟩ := hheld (by decide +kernel)
  obtain ⟨u, hexec', hlock', hevt, -⟩ := hrecovering (by decide +kernel) (by decide +kernel)
  exact ⟨⟨t, hexec, hlock.trans (by decide +kernel)⟩, u, hexec', hlock'.trans (by decide +kernel),
    by rw [hevt]; exact postOne_seq ..⟩

/-- MARGIN_START of the kinds 0 and 1 of channel 3. -/
def marginReq : List Byte := [0x03, 0x06, 0, 0, 0x14, 0, 0, 0, 8, 0, 0, 0, 0, 0, 0, 0, 3, 8, 0, 0]

/-- A device that runs it, with nothing measured yet. -/
def margining : State := { State.reset with ops := [{ pf0Op 0x603 marginReq with unitsTotal := 2 }] }

/-- The first slot of the channel adds the pair's result, its right end at the limit. -/
theorem marginSlot_margining : ∃ t, exec (.marginSlot 3 0 20 40) margining = .next t ∧
    t.ops.map (·.acc) = [[marginCode 12 20 32 false true false]] := by
  obtain ⟨-, -, -, -, hslot⟩ := periodsAndEpochs margining
  exact ⟨_, hslot 3 0 20 40 { pf0Op 0x603 marginReq with unitsTotal := 2 } _ (by decide +kernel) (by decide +kernel) rfl
    (by decide +kernel) (by decide +kernel) (by decide +kernel) rfl, by decide +kernel⟩

end Sys2Proof.Machine
end

section
/-! What the operations of the galley leave alone, and what a queue reads as after them (chapter 9): the rules that O27 and
O28 share. -/

namespace Sys2Proof.Machine

/-! ### The values of a queue (Table 9.2) -/

section
variable (x : GQueue) (c v : Nat)

@[simp] theorem GQueue.length_setVal_prim : (x.setVal c v).prim.length = x.prim.length := by simp [setVal]

/-- A value that the list holds reads as what it was set to; the others stay. -/
@[simp] theorem GQueue.val_setVal (d : Nat) :
    (x.setVal c v).val d = if d = c ∧ c < x.prim.length then v else x.val d := by
  by_cases hd : d = c
  · subst hd
    by_cases hlen : d < x.prim.length <;> simp [val, setVal, hlen]
  · simp [val, setVal, hd, List.getElem?_set_ne (Ne.symm hd)]

@[simp] theorem GQueue.headroom_setVal : (x.setVal c v).headroom = x.headroom := rfl
@[simp] theorem GQueue.markValid_setVal : (x.setVal c v).markValid = x.markValid := rfl
@[simp] theorem GQueue.aborted_setVal : (x.setVal c v).aborted = x.aborted := rfl

/-- A value set where a condition holds. -/
def GQueue.setIf (p : Prop) [Decidable p] : GQueue := if p then x.setVal c v else x

section
variable (p : Prop) [Decidable p]

theorem GQueue.setIf_frame :
    x.setIf c v p = { x with prim := (x.setIf c v p).prim, shad := (x.setIf c v p).shad } := by
  unfold setIf
  split <;> rfl

@[simp] theorem GQueue.headroom_setIf : (x.setIf c v p).headroom = x.headroom := by rw [setIf_frame]
@[simp] theorem GQueue.markValid_setIf : (x.setIf c v p).markValid = x.markValid := by rw [setIf_frame]
@[simp] theorem GQueue.aborted_setIf : (x.setIf c v p).aborted = x.aborted := by rw [setIf_frame]

@[simp] theorem GQueue.length_setIf_prim : (x.setIf c v p).prim.length = x.prim.length := by
  unfold setIf
  split <;> simp

@[simp] theorem GQueue.val_setIf (d : Nat) :
    (x.setIf c v p).val d = if (d = c ∧ c < x.prim.length) ∧ p then v else x.val d := by
  unfold setIf
  split <;> simp [*]

end

/-- The values stand in the primary copy alone. (A rewrite, not a reduction: comparing the counts of two queues by
computation is slow.) -/
@[simp] theorem GQueue.val_mk_prim (sh mv cls own chg hr ab tr wc fc rc sw sf) :
    (GQueue.mk x.prim sh mv cls own chg hr ab tr wc fc rc sw sf).val c = x.val c := by simp only [val]

end

/-- A synchronized queue differs in the counts its sides have seen of each other (R273). -/
theorem crossSync_frame (s : State) (q : Nat) (x : GQueue) :
    crossSync s q x = { x with seenW := (crossSync s q x).seenW, seenF := (crossSync s q x).seenF } := by
  unfold crossSync
  split <;> rfl

section
variable (s : State) (q : Nat) (x : GQueue)

@[simp] theorem crossSync_prim : (crossSync s q x).prim = x.prim := by rw [crossSync_frame]
@[simp] theorem crossSync_shad : (crossSync s q x).shad = x.shad := by rw [crossSync_frame]
@[simp] theorem crossSync_val (c : Nat) : (crossSync s q x).val c = x.val c := by rw [crossSync_frame]; rfl
@[simp] theorem crossSync_markValid : (crossSync s q x).markValid = x.markValid := by rw [crossSync_frame]
@[simp] theorem crossSync_headroom : (crossSync s q x).headroom = x.headroom := by rw [crossSync_frame]
@[simp] theorem crossSync_aborted : (crossSync s q x).aborted = x.aborted := by rw [crossSync_frame]
@[simp] theorem crossSync_trimmed : (crossSync s q x).trimmed = x.trimmed := by rw [crossSync_frame]

end

/-! ### Queues by ID (Table 9.1) -/

/-- A queue depends on the queues that stand, and on the streams' slots, alone. -/
theorem gq_congr {s t : State} (hq : t.gal.queues = s.gal.queues) (hs : t.streams = s.streams) (k : Nat) :
    gq t k = gq s k := by
  simp only [gq, fixedOwner, stream, hq, hs]

@[simp] theorem gq_setGq_self (s : State) (q : Nat) (x : GQueue) : gq (setGq s q x) q = some x := by simp [gq, setGq]

theorem gq_setGq_ne (s : State) {q k : Nat} (x : GQueue) (h : k ≠ q) : gq (setGq s q x) k = gq s k := by
  simp only [gq, setGq, lk_put_ne _ _ h, fixedOwner, stream]

/-! ### Upsets change the galley alone (R266, R269, R272) -/

theorem galUpset_frame (s : State) (e : GalUpset) : galUpset s e = { s with gal := (galUpset s e).gal } := by
  cases e with
  | pointer q w b sh => simp only [galUpset]; split <;> rfl
  | word | entry | freeList => rfl

theorem galUpsets_frame (s : State) (l : List GalUpset) : galUpsets s l = { s with gal := (galUpsets s l).gal } := by
  induction l generalizing s with
  | nil => rfl
  | cons e l ih =>
    have hcons : galUpsets s (e :: l) = galUpsets (galUpset s e) l := rfl
    rw [hcons, ih, galUpset_frame]

@[simp] theorem runs_galUpsets (s : State) (l : List GalUpset) (d : Nat) : runs (galUpsets s l) d = runs s d := by
  rw [galUpsets_frame]
  rfl

@[simp] theorem dpStop_galUpsets (s : State) (l : List GalUpset) : dpStop (galUpsets s l) = dpStop s := by
  rw [galUpsets_frame]
  rfl

/-! ### The guard (R270) -/

section
variable {s : State} {q : Nat} {x : GQueue} {codes : List Nat}

/-- An operation runs where the copies it reads agree or nothing compares them. -/
theorem guardOp_of_agree (hq : gq s q = some x) (h : guarded s q = true → copyFault x codes = none) (op : Nat)
    (run : GQueue → State) : guardOp s q op codes run = run x := by
  have hnone : (if guarded s q = true then copyFault x codes else none) = none := ite_eq_right_iff.2 h
  simp only [guardOp, hq, hnone]

theorem QueueReady.runs (h : QueueReady s q x codes) : runs s 0 = true := h.1

theorem QueueReady.length (h : QueueReady s q x codes) : x.prim.length = 8 := h.2.2.1

theorem QueueReady.guardOp (h : QueueReady s q x codes) (op : Nat) (run : GQueue → State) :
    guardOp s q op codes run = run x := by
  obtain ⟨-, hq, -, -, hguard⟩ := h
  exact guardOp_of_agree hq hguard op run

/-- Where a guarded queue's copies disagree, it is reset by force. -/
theorem guardOp_of_fault (hq : gq s q = some x) (hg : guarded s q = true) {v : Nat} (h : copyFault x codes = some v)
    (op : Nat) (run : GQueue → State) : Machine.guardOp s q op codes run = forcedReset s q v op := by
  simp [Machine.guardOp, hq, hg, h]

end

/-! ### Cells that move between their accounts (R253, R255) -/

/-- From s to t the entries of cells, the free list and the charges alone may have changed. -/
def CellsMoved (s t : State) : Prop := t = { s with gal := { s.gal with
  entries := t.gal.entries, freeP := t.gal.freeP, freeS := t.gal.freeS
  resCh := t.gal.resCh, clsCh := t.gal.clsCh, held := t.gal.held, clsHeld := t.gal.clsHeld } }

namespace CellsMoved

theorem refl (s : State) : CellsMoved s s := rfl

theorem trans {s t u : State} (h : CellsMoved s t) (h' : CellsMoved t u) : CellsMoved s u := by
  unfold CellsMoved at *
  rw [h', h]

theorem foldl {α : Type} {f : State → α → State} (hf : ∀ s a, CellsMoved s (f s a)) (l : List α) (s : State) :
    CellsMoved s (l.foldl f s) :=
  List.foldlRecOn l f (refl s) fun _ ht a _ => ht.trans (hf _ a)

theorem setEntry (s : State) (c : Nat) (m : Entry) : CellsMoved s (setEntry s c m) := rfl
theorem setFree (s : State) (h t n : Nat) : CellsMoved s (setFree s h t n) := rfl
theorem charge (s : State) (o k acct : Nat) : CellsMoved s (charge s o k acct) := rfl
theorem uncharge (s : State) (o k acct : Nat) : CellsMoved s (uncharge s o k acct) := rfl

theorem freeCell (s : State) (c : Nat) : CellsMoved s (freeCell s c) := by
  simp only [Machine.freeCell]
  refine (setEntry s c ⟨0, 0, 3, false, 0, 0⟩).trans ?_
  split
  · exact setFree ..
  · refine trans ?_ (setFree ..)
    split
    · exact setEntry ..
    · exact refl _

section
variable {s t : State} (h : CellsMoved s t)
include h

theorem frame : t = { s with gal := t.gal } := by rw [h]
theorem words : t.gal.words = s.gal.words := by rw [h]
theorem waiting : t.gal.waiting = s.gal.waiting := by rw [h]
theorem queues : t.gal.queues = s.gal.queues := by rw [h]
theorem streams : t.streams = s.streams := by rw [h]
theorem gq (k : Nat) : gq t k = gq s k := gq_congr h.queues h.streams k

/-- With q replaced in t, the other queues are those of s. -/
theorem gq_setGq_ne {q k : Nat} (x : GQueue) (hk : k ≠ q) : Machine.gq (setGq t q x) k = Machine.gq s k :=
  (Machine.gq_setGq_ne t x hk).trans (h.gq k)

/-- With q replaced in t, the galley alone differs from s. -/
theorem frame_setGq (q : Nat) (x : GQueue) : setGq t q x = { s with gal := (setGq t q x).gal } := by
  rw [setGq, h.frame]

end

end CellsMoved

/-- The cells of a list go back to the free list, each to the account its entry names (R260). -/
def freeLinked (x : GQueue) (l : List (Nat × Entry)) (s : State) : State :=
  l.foldl (fun s (c, m) => freeCell (uncharge s x.owner x.cls m.acct) c) s

/-- So do the cells of a list whose entries can be read. -/
def freeNamed (x : GQueue) (l : List Nat) (s : State) : State :=
  l.foldl (fun s c => match entry s c with | some m => freeCell (uncharge s x.owner x.cls m.acct) c | none => s) s

theorem CellsMoved.freeLinked (x : GQueue) (l : List (Nat × Entry)) (s : State) : CellsMoved s (freeLinked x l s) :=
  foldl (fun s (c, m) => (uncharge s x.owner x.cls m.acct).trans (freeCell _ c)) l s

theorem CellsMoved.freeNamed (x : GQueue) (l : List Nat) (s : State) : CellsMoved s (freeNamed x l s) :=
  foldl (fun s c => by
    split
    · exact (uncharge s x.owner x.cls _).trans (freeCell _ c)
    · exact refl s) l s

/-- A freed cell counts in the free list. -/
theorem freeCount_freeCell (s : State) (c : Nat) :
    (freeCell s c).gal.freeP.getD 2 0 = s.gal.freeP.getD 2 0 + 1 := by
  have hentry : (setEntry s c ⟨0, 0, 3, false, 0, 0⟩).gal.freeP = s.gal.freeP := rfl
  simp only [freeCell]
  rw [hentry]
  split
  next h => rw [h]; rfl
  next => rfl

theorem freeCount_freeLinked (x : GQueue) (l : List (Nat × Entry)) (s : State) :
    (freeLinked x l s).gal.freeP.getD 2 0 = s.gal.freeP.getD 2 0 + l.length := by
  induction l generalizing s with
  | nil => rfl
  | cons e l ih =>
    obtain ⟨c, m⟩ := e
    have hstep : freeLinked x ((c, m) :: l) s = freeLinked x l (freeCell (uncharge s x.owner x.cls m.acct) c) := rfl
    have huncharge : (uncharge s x.owner x.cls m.acct).gal.freeP = s.gal.freeP := rfl
    rw [hstep, ih, freeCount_freeCell, huncharge, List.length_cons]
    omega

end Sys2Proof.Machine
end

section
/-! O27: what READ, MARK, REWIND, RELEASE and RELEASE_MARK do to a queue (R253, R260, R268, R270). -/

namespace Sys2Proof.Machine

/-! ### The rows where CORE runs -/

/-- A row of a queue operation brings its upsets and, where CORE runs, does the operation. -/
theorem next_of_runs {s u : State} {ups : List GalUpset} (hu : u = galUpsets s ups) (h : runs u 0 = true)
    (f : State → State) :
    (.next (if runs s 0 then f (galUpsets s ups) else s) : Host.Outcome State Fault Refusal) = .next (f u) := by
  subst hu
  rw [if_pos ((runs_galUpsets ..).symm.trans h)]

section
variable {s u : State} {ups : List GalUpset} (hu : u = galUpsets s ups) (h : runs u 0 = true) (q : Qid)
include hu h

theorem exec_mark : exec (.mark q ups) s = .next (markOp u q.val) := next_of_runs hu h (markOp · q.val)
theorem exec_rewind : exec (.rewind q ups) s = .next (rewindOp u q.val) := next_of_runs hu h (rewindOp · q.val)
theorem exec_release : exec (.release q ups) s = .next (releaseOp u q.val) := next_of_runs hu h (releaseOp · q.val)
theorem exec_releaseMark : exec (.releaseMark q ups) s = .next (releaseMarkOp u q.val) :=
  next_of_runs hu h (releaseMarkOp · q.val)
theorem exec_read : exec (.read q ups) s = .next (readOp u q.val) := next_of_runs hu h (readOp · q.val)

end

/-! ### The operations on a queue that can be used -/

section
variable {u : State} {q : Nat} {x : GQueue}

/-- MARK sets MARK to RD. -/
theorem markOp_of_ready (h : QueueReady u q x [2]) :
    markOp u q = setGq u q { x.setVal 1 (x.val 2) with markValid := true } := h.guardOp ..

/-- A queue with RD moved back over n cells. -/
def GQueue.rewound (x : GQueue) (dst n : Nat) : GQueue :=
  { (x.setVal 2 dst).setVal 5 (x.val 5 + n) with rcount := (x.rcount + 2 ^ 18 - n) % 2 ^ 18 }

/-- The values of a rewound queue. -/
theorem GQueue.val_rewound (hlen : x.prim.length = 8) (dst n c : Nat) :
    (x.rewound dst n).val c = if c = 5 then x.val 5 + n else if c = 2 then dst else x.val c := by
  simp [rewound, hlen]

/-- REWIND moves RD back to MARK or HEAD. -/
theorem rewindOp_of_ready (h : QueueReady u q x [0, 1, 2, 3, 4, 5]) {l : List (Nat × Entry)}
    (hwalk : walkCells u q (x.val 2) (x.val 3) 65537 (if x.markValid then x.val 1 else x.val 0) = .ok l) :
    rewindOp u q = setGq u q (crossSync u q (x.rewound (if x.markValid then x.val 1 else x.val 0) l.length)) := by
  refine (h.guardOp ..).trans ?_
  simp only [hwalk]
  rfl

/-- A queue with HEAD moved to a position over the cells of a list. -/
def GQueue.released (x : GQueue) (l : List (Nat × Entry)) (dst : Nat) (keep : Bool) : GQueue :=
  let units := (l.filter (fun e => e.2.last)).length
  let y := ((x.setVal 0 dst).setVal 4 (x.val 4 - l.length)).setVal 7 ((x.val 7 + units) % 2 ^ 32)
  { y.setIf 3 qEnd (dst = qEnd) with
    markValid := keep && x.markValid
    clsCharged := x.clsCharged - (l.filter (fun e => e.2.acct == 2)).length
    fcount := (x.fcount + l.length) % 2 ^ 18 }

/-- The values of a released queue; TAIL goes with the last cell. -/
theorem GQueue.val_released (hlen : x.prim.length = 8) (l : List (Nat × Entry)) (dst : Nat) (keep : Bool) (c : Nat) :
    (x.released l dst keep).val c =
      if c = 3 ∧ dst = qEnd then qEnd
      else if c = 7 then (x.val 7 + (l.filter (fun e => e.2.last)).length) % 2 ^ 32
      else if c = 4 then x.val 4 - l.length
      else if c = 0 then dst else x.val c := by
  simp [released, hlen]

/-- The cells of the walk are freed, and HEAD moves over them. -/
theorem freeUpTo_of_walk {l : List (Nat × Entry)} {dst : Nat}
    (hwalk : walkCells u q dst (x.val 3) 65537 (x.val 0) = .ok l) (op : Nat) (keep : Bool) :
    freeUpTo u q op x dst keep =
      setGq (freeLinked x l u) q (crossSync (freeLinked x l u) q (x.released l dst keep)) := by
  simp only [freeUpTo, hwalk]
  rfl

/-- What freeing the cells from HEAD up to a position leaves, for RELEASE and RELEASE_MARK alike. -/
theorem freeUpTo_frees {l : List (Nat × Entry)} {dst : Nat} (hlen : x.prim.length = 8)
    (hwalk : walkCells u q dst (x.val 3) 65537 (x.val 0) = .ok l) (op : Nat) (keep : Bool) {t : State}
    (ht : t = freeUpTo u q op x dst keep) :
    ∃ y, gq t q = some y ∧ y.val 0 = dst ∧ y.markValid = (keep && x.markValid) ∧ y.val 4 = x.val 4 - l.length ∧
      y.val 7 = (x.val 7 + (l.filter (fun e => e.2.last)).length) % 2 ^ 32 ∧
      (∀ c, c = 1 ∨ c = 2 ∨ c = 5 ∨ c = 6 → y.val c = x.val c) ∧
      t.gal.freeP.getD 2 0 = u.gal.freeP.getD 2 0 + l.length ∧ (∀ k, k ≠ q → gq t k = gq u k) ∧
      t = { u with gal := t.gal } ∧ t.gal.words = u.gal.words := by
  rw [freeUpTo_of_walk hwalk] at ht
  subst ht
  have hval c := (crossSync_val (freeLinked x l u) q _ c).trans (GQueue.val_released hlen l dst keep c)
  have hmoved := CellsMoved.freeLinked x l u
  refine ⟨_, gq_setGq_self .., ?_, crossSync_markValid .., ?_, ?_, ?_, freeCount_freeLinked x l u,
    fun k hk => hmoved.gq_setGq_ne _ hk, hmoved.frame_setGq .., hmoved.words⟩
  · simp [hval]
  · simp [hval]
  · simp [hval]
  · rintro c (rfl | rfl | rfl | rfl) <;> simp [hval]

theorem releaseOp_of_ready (h : QueueReady u q x [0, 2, 4, 7]) : releaseOp u q = freeUpTo u q 4 x (x.val 2) false :=
  h.guardOp ..

theorem releaseMarkOp_of_ready (h : QueueReady u q x [0, 1, 4, 7]) :
    releaseMarkOp u q = if x.markValid then freeUpTo u q 5 x (x.val 1) true else u := h.guardOp ..

/-- A queue whose cell at RD has been delivered. -/
def GQueue.advanced (x : GQueue) (next : Nat) : GQueue :=
  { (x.setVal 2 (if x.val 2 = x.val 3 then qEnd else next)).setVal 5 (x.val 5 - 1) with
    rcount := (x.rcount + 1) % 2 ^ 18, trimmed := false }

section
variable (h : QueueReady u q x [2, 3, 5])
include h

/-- READ delivers the cell at RD whose words can be read. -/
theorem readOp_delivers (hseen : x.emptySeen q = false) (hrd : x.val 2 ≠ qEnd) (hunread : x.val 5 ≠ 0) {m : Entry}
    (hreach : reach u q (x.val 2) = .ok m) {ws : List W64} {v : State}
    (hwords : readWords u x.owner (x.val 2) ((m.lenm1 + 8) / 8) = (ws, none, v)) :
    readOp u q = { setGq v q (crossSync v q (x.advanced m.next)) with gal := {
      (setGq v q (crossSync v q (x.advanced m.next))).gal with
        reads := v.gal.reads ++ [⟨q, x.val 2, ws, m.lenm1 + 1, m.last, m.poison, false⟩] } } := by
  have hagree : ¬(guarded u q && (x.val 2 == qEnd) != (x.val 5 == 0)) = true := by simp [hrd, hunread]
  have hsome : ¬(x.emptySeen q = true ∨ x.val 2 = qEnd) := by simp [hseen, hrd]
  refine (h.guardOp ..).trans ((if_neg hagree).trans ((if_neg (by simpa using hsome)).trans ?_))
  simp only [hreach, hwords]
  rfl

/-- READ delivers nothing of a queue with nothing unread. -/
theorem readOp_of_none_unread (hrd : x.val 2 = qEnd) (hunread : x.val 5 = 0) :
    readOp u q = setGq u q (crossSync u q x) := by
  refine (h.guardOp ..).trans ?_
  simp [hrd, hunread]

end

end

/-- Settles O27, operation by operation: the guard passes, and each operation is one replaced queue after what it does to
the cells; where the guard fails, each is its forced reset. -/
theorem galleyConsumerOperations : Obligations.GalleyConsumerOperations := by
  intro s u q ups x hu
  refine ⟨fun h => ?_, fun l h hwalk => ?_, fun l h hwalk => ?_, fun l h hvalid hwalk => ?_, fun h hvalid => ?_,
    fun m ws v h hseen hrd hunread hreach hwords => ?_, fun h hrd hunread => ?_, fun v hruns hq hg => ?_⟩
  · rw [exec_mark hu h.runs, markOp_of_ready h]
    exact ⟨_, _, rfl, gq_setGq_self .., by simp [h.length], rfl, fun c hc => by simp [hc],
      fun k hk => gq_setGq_ne _ _ hk, rfl⟩
  · rw [exec_rewind hu h.runs, rewindOp_of_ready h hwalk]
    exact ⟨_, _, rfl, gq_setGq_self .., by simp [GQueue.val_rewound h.length], by simp [GQueue.val_rewound h.length],
      crossSync_markValid .., fun c hc hc' => by simp [GQueue.val_rewound h.length, hc, hc'],
      fun k hk => gq_setGq_ne _ _ hk, rfl⟩
  · rw [exec_release hu h.runs, releaseOp_of_ready h]
    obtain ⟨y, hfreed⟩ := freeUpTo_frees h.length hwalk 4 false rfl
    exact ⟨_, y, rfl, hfreed⟩
  · rw [exec_releaseMark hu h.runs, releaseMarkOp_of_ready h, if_pos hvalid]
    obtain ⟨y, hfreed⟩ := freeUpTo_frees h.length hwalk 5 true rfl
    rw [hvalid] at hfreed
    exact ⟨_, y, rfl, hfreed⟩
  · rw [exec_releaseMark hu h.runs, releaseMarkOp_of_ready h, hvalid]
    rfl
  · rw [exec_read hu h.runs, readOp_delivers h hseen hrd hunread hreach hwords]
    exact ⟨_, _, rfl, lk_put_self .., by simp [GQueue.advanced, h.length], by simp [GQueue.advanced, h.length],
      fun c hc hc' => by simp [GQueue.advanced, hc, hc'], crossSync_markValid .., rfl, rfl⟩
  · rw [exec_read hu h.runs, readOp_of_none_unread h hrd hunread]
    exact ⟨_, _, rfl, gq_setGq_self .., crossSync_prim .., crossSync_shad .., rfl⟩
  · refine ⟨fun h => ?_, fun h => ?_, fun h => ?_, fun h => ?_, fun h => ?_⟩
    · exact (exec_mark hu hruns q).trans (congrArg _ (guardOp_of_fault hq hg h ..))
    · exact (exec_read hu hruns q).trans (congrArg _ (guardOp_of_fault hq hg h ..))
    · exact (exec_rewind hu hruns q).trans (congrArg _ (guardOp_of_fault hq hg h ..))
    · exact (exec_release hu hruns q).trans (congrArg _ (guardOp_of_fault hq hg h ..))
    · exact (exec_releaseMark hu hruns q).trans (congrArg _ (guardOp_of_fault hq hg h ..))

end Sys2Proof.Machine
end

section
/-! O28: what ENQ, TRIM, RESET, CELL_GRANT and GALLEY_SCRUB do to the galley (R256 to R259, R263 to R265, R269, R508). -/

namespace Sys2Proof.Machine

/-! ### The words of a cell (R254, R266) -/

@[simp] theorem rawWord_setRawWord_self (s : State) (c i v : Nat) : rawWord (setRawWord s c i v) c i = v :=
  lkD_setD_self ..

theorem words_setRawWord_ne (s : State) {c i j : Nat} (v : Nat) (h : j ≠ c * 32 + i) :
    lkD (setRawWord s c i v).gal.words j 0 = lkD s.gal.words j 0 := lkD_setD_ne _ _ _ _ h

/-- Words written into a cell from word k on. -/
def wordsFrom (s : State) (c k : Nat) (l : List W64) : State :=
  (l.zipIdx k).foldl (fun s (w, i) => setRawWord s c i (hamEnc 64 7 w.toNat)) s

section
variable (s : State) (c k : Nat) (w : W64) (l : List W64)

theorem wordsFrom_cons :
    wordsFrom s c k (w :: l) = wordsFrom (setRawWord s c k (hamEnc 64 7 w.toNat)) c (k + 1) l := by
  simp only [wordsFrom, List.zipIdx_cons, List.foldl_cons]

theorem wordsFrom_frame :
    wordsFrom s c k l = { s with gal := { s.gal with words := (wordsFrom s c k l).gal.words } } := by
  induction l generalizing s k with
  | nil => rfl
  | cons w l ih =>
    rw [wordsFrom_cons, ih, setRawWord]

/-- Words outside the ones written stay. -/
theorem words_wordsFrom_of_outside {j : Nat} (h : j < c * 32 + k ∨ c * 32 + k + l.length ≤ j) :
    lkD (wordsFrom s c k l).gal.words j 0 = lkD s.gal.words j 0 := by
  induction l generalizing s k with
  | nil => rfl
  | cons w l ih =>
    rw [List.length_cons] at h
    rw [wordsFrom_cons, ih _ _ (by omega), words_setRawWord_ne _ _ (by omega)]

/-- Each word written is stored with its check bits. -/
theorem rawWord_wordsFrom {i : Nat} (h : l[i]? = some w) :
    rawWord (wordsFrom s c k l) c (k + i) = hamEnc 64 7 w.toNat := by
  induction l generalizing s k i with
  | nil => simp at h
  | cons v l ih =>
    rw [wordsFrom_cons]
    cases i with
    | zero =>
      obtain rfl : v = w := by simpa using h
      have hraw : rawWord (wordsFrom (setRawWord s c k (hamEnc 64 7 v.toNat)) c (k + 1) l) c k =
          rawWord (setRawWord s c k (hamEnc 64 7 v.toNat)) c k := words_wordsFrom_of_outside _ _ _ _ (by omega)
      simp only [Nat.add_zero, hraw, rawWord_setRawWord_self]
    | succ i =>
      rw [show k + (i + 1) = k + 1 + i by omega]
      exact ih _ _ (by simpa using h)

end

/-! ### ENQ (R258, R260) -/

/-- A queue with a granted cell linked after TAIL. -/
def GQueue.linked (x : GQueue) (c : Nat) (last : Bool) : GQueue :=
  let y := { x with headroom := x.headroom.erase c, aborted := false, wcount := (x.wcount + 1) % 2 ^ 18 }
  let y := y.setIf 0 c (y.val 0 = qEnd)
  let y := y.setIf 2 c (y.val 2 = qEnd)
  let y := y.setIf 1 c (y.markValid && y.val 1 = qEnd)
  let y := ((y.setVal 3 c).setVal 4 (y.val 4 + 1)).setVal 5 (y.val 5 + 1)
  y.setIf 6 ((y.val 6 + 1) % 2 ^ 32) last

/-- The cell at a position names a cell as the next. -/
def nextSet (s : State) (t c : Nat) : State :=
  if t = qEnd then s
  else match entry s t with
    | some m => setEntry s t { m with next := c }
    | none => s

/-- The cell c of queue q with its words and metadata written, and the cell at TAIL naming it as the next. -/
def cellWritten (s : State) (q : Nat) (x : GQueue) (c : Nat) (words : List W64) (last : Bool) (poison : Nat) : State :=
  let acct := match entry s c with | some m => m.acct | none => 1
  nextSet (setEntry (wordsFrom s c 0 (words.take 32)) c ⟨0, q, acct, last, poison, 8 * max 1 (min 32 words.length) - 1⟩)
    (x.val 3) c

theorem linkCell_of_gq {s : State} {q : Nat} {x : GQueue} (h : gq s q = some x) (c : Nat) (words : List W64) (last : Bool)
    (poison : Nat) : linkCell s q c words last poison =
      setGq (cellWritten s q x c words last poison) q
        (crossSync (cellWritten s q x c words last poison) q (x.linked c last)) := by
  simp only [linkCell, h]
  rfl

/-- A queue with a cell linked: TAIL names the cell, HELD, UNREAD and UNITS_IN have it, and HEAD where it stood at the
end. -/
theorem GQueue.val_linked {x : GQueue} (hlen : x.prim.length = 8) (c : Nat) (last : Bool) {d : Nat} (hmark : d ≠ 1)
    (hrd : d ≠ 2) : (x.linked c last).val d =
      if d = 6 ∧ last = true then (x.val 6 + 1) % 2 ^ 32
      else if d = 5 then x.val 5 + 1 else if d = 4 then x.val 4 + 1 else if d = 3 then c
      else if d = 0 ∧ x.val 0 = qEnd then c else x.val d := by
  simp [linked, hlen, hmark, hrd]

theorem GQueue.headroom_linked (x : GQueue) (c : Nat) (last : Bool) :
    (x.linked c last).headroom = x.headroom.erase c := by
  simp [linked]

theorem GQueue.aborted_linked (x : GQueue) (c : Nat) (last : Bool) : (x.linked c last).aborted = false := by
  simp [linked]

theorem CellsMoved.nextSet (s : State) (t c : Nat) : CellsMoved s (nextSet s t c) := by
  unfold Machine.nextSet
  split
  · exact refl _
  · split
    · exact setEntry ..
    · exact refl _

/-- Past its words, writing a cell changes entries alone. -/
theorem CellsMoved.cellWritten (s : State) (q : Nat) (x : GQueue) (c : Nat) (words : List W64) (last : Bool)
    (poison : Nat) : CellsMoved (wordsFrom s c 0 (words.take 32)) (cellWritten s q x c words last poison) :=
  (setEntry ..).trans (nextSet ..)

/-- ENQ links the first granted cell, and the port may ask for a further one. -/
theorem enq_of_granted {u v : State} {q : Nat} {x : GQueue} {c : Nat} {r : List Nat} (hv : v = demandOn u 0)
    (hq : gq v q = some x) (hroom : x.headroom = c :: r)
    (hguard : guarded v q = true → copyFault x [3, 4, 5, 6] = none)
    (htail : x.val 3 = qEnd ∨ ∃ m, reach v q (x.val 3) = .ok m) (words : List W64) (last : Bool) (poison : Nat) :
    enq u q words last poison = fillHeadroom (linkCell v q c words last poison) q := by
  subst hv
  refine (guardOp_of_agree hq hguard 0 _).trans ?_
  simp only [hroom, List.isEmpty_cons, Bool.false_eq_true, if_false, hq]
  split
  · rename_i hend
    obtain ⟨m, hm⟩ := htail.resolve_left hend
    rw [hm]
  · rfl

/-- The port of a queue within one clock domain asks for no cell in advance (R259). -/
theorem fillHeadroom_of_not_crosses (s : State) {q : Nat} (h : crosses q = false) : fillHeadroom s q = s := by
  unfold fillHeadroom
  split
  · rfl
  · simp [h]

/-! ### TRIM and RESET (R263 to R265) -/

/-- No request of a queue waits any more. -/
def requestsDropped (s : State) (q : Nat) : State :=
  { s with gal := { s.gal with waiting := s.gal.waiting.filter (fun r => r.q != q) } }

theorem gq_requestsDropped (s : State) (q k : Nat) : gq (requestsDropped s q) k = gq s k := gq_congr rfl rfl k

/-- A queue cut after the last cell of its walk with LAST set, its port's cells gone. -/
def GQueue.cut (x : GQueue) (l : List (Nat × Entry)) (charged : Nat) : GQueue :=
  let k := keptLen l
  let rdAt := (l.findIdx? (fun e => e.1 == x.val 2)).getD l.length
  let mkAt := (l.findIdx? (fun e => e.1 == x.val 1)).getD l.length
  let y := x.setVal 3 (if k = 0 then qEnd else match l[k - 1]? with | some (c, _) => c | none => qEnd)
  let y := y.setIf 0 qEnd (k = 0)
  let y := y.setIf 2 qEnd (k ≤ rdAt)
  let y := y.setIf 1 qEnd (x.markValid && decide (k ≤ mkAt))
  let y := (y.setVal 4 k).setVal 5 (k - min k rdAt)
  { y with
    headroom := [], aborted := true, trimmed := true, clsCharged := charged
    wcount := (x.wcount + 2 ^ 18 - (l.drop k).length) % 2 ^ 18
    rcount := (x.rcount + 2 ^ 18 - (rdAt - min k rdAt)) % 2 ^ 18 }

section
variable (x : GQueue) (l : List (Nat × Entry)) (charged : Nat)

/-- TAIL names the last cell kept. -/
theorem GQueue.val_cut_tail {x : GQueue} (hlen : x.prim.length = 8) : (x.cut l charged).val 3 =
    if keptLen l = 0 then qEnd else match l[keptLen l - 1]? with | some e => e.1 | none => qEnd := by
  rcases h : l[keptLen l - 1]? with _ | ⟨c, m⟩ <;> simp only [cut, val_mk_prim] <;> simp [hlen, h]

/-- HELD counts the cells kept. -/
theorem GQueue.val_cut_held {x : GQueue} (hlen : x.prim.length = 8) : (x.cut l charged).val 4 = keptLen l := by
  simp only [cut, val_mk_prim]
  simp [hlen]

/-- With no cell kept, HEAD stands at the end. -/
theorem GQueue.val_cut_head {x : GQueue} (hlen : x.prim.length = 8) (h : keptLen l = 0) :
    (x.cut l charged).val 0 = qEnd := by
  simp only [cut, val_mk_prim]
  simp [hlen, h]

theorem GQueue.markValid_cut : (x.cut l charged).markValid = x.markValid := by
  simp only [cut]
  simp

end

/-- The cells that a trim takes from a queue and its port go back to the free list. -/
def cutFreed (x : GQueue) (l : List (Nat × Entry)) (s : State) : State :=
  freeNamed x x.headroom (freeLinked x (l.drop (keptLen l)) s)

theorem CellsMoved.cutFreed (x : GQueue) (l : List (Nat × Entry)) (s : State) : CellsMoved s (cutFreed x l s) :=
  (freeLinked ..).trans (freeNamed ..)

/-- How many of those cells a class reserve was charged for. -/
def cutCharges (s : State) (x : GQueue) (l : List (Nat × Entry)) : Nat :=
  ((l.drop (keptLen l)).filter (fun e => e.2.acct == 2)).length +
    (x.headroom.filter (fun c => match entry (cutFreed x l s) c with | some m => m.acct == 2 | none => false)).length

/-- TRIM frees the cells after those kept and the port's granted ones, and cuts the queue. -/
theorem trimOp_of_ready {u : State} {q : Nat} {x : GQueue} (h : QueueReady u q x [0, 1, 2, 3, 4, 5])
    {l : List (Nat × Entry)} (hwalk : walkCells u q qEnd (x.val 3) 65537 (x.val 0) = .ok l) :
    trimOp u q = setGq (requestsDropped (cutFreed x l u) q) q
      (crossSync (requestsDropped (cutFreed x l u) q) q (x.cut l (x.clsCharged - cutCharges u x l))) := by
  refine (h.guardOp ..).trans ?_
  simp only [hwalk]
  rfl

/-- The cells charged for a queue. -/
def ownCells (s : State) (q : Nat) : List Nat :=
  (s.gal.entries.filter (fun e => match entry s e.1 with | some m => m.qid == q && m.acct != 3 | none => false)).map (·.1)

/-- RESET frees the queue's cells and leaves it empty, where every entry can be read. -/
theorem sweepQueue_of_readable {s : State} {q : Nat} {x : GQueue} (hq : gq s q = some x) (h : unreadable s = []) :
    (sweepQueue s q).2 = requestsDropped (setGq (freeNamed x (ownCells s q) s) q
      { GQueue.fresh x.cls x.owner with trimmed := x.trimmed }) q := by
  simp only [sweepQueue, hq, h]
  rfl

/-! ### CELL_GRANT (R256, R257, R269) -/

section
variable (s : State) (q : Nat) (x : GQueue) (a : Nat)

/-- The cell at the head of the free list is charged for a queue. -/
def headTaken : State :=
  let h := s.gal.freeP.getD 0 0
  let nx := match entry s h with | some m => m.next | none => 0
  let s := setFree s nx (s.gal.freeP.getD 1 0) (s.gal.freeP.getD 2 0 - 1)
  charge (setEntry s h ⟨0, q, a, false, 0, 0⟩) x.owner x.cls a

theorem CellsMoved.headTaken : CellsMoved s (headTaken s q x a) :=
  (setFree s _ _ _).trans ((setEntry ..).trans (charge ..))

theorem freeCount_headTaken : (headTaken s q x a).gal.freeP.getD 2 0 = s.gal.freeP.getD 2 0 - 1 := rfl

/-- The most cells a function's queues have held is noted (Table 9.7). -/
def heldNoted (o : Nat) : State :=
  if o ≤ 32 && cnt s (galFnKey o 4) < lkD s.gal.held o 0 then
    { s with cfg := { s.cfg with cnt := put s.cfg.cnt (galFnKey o 4) (lkD s.gal.held o 0) } }
  else s

theorem heldNoted_frame (o : Nat) :
    heldNoted s o = { s with cfg := { s.cfg with cnt := (heldNoted s o).cfg.cnt } } := by
  unfold heldNoted
  split <;> rfl

theorem rrServe_frame (arb o : Nat) : rrServe s arb o = { s with rr := (rrServe s arb o).rr } := by
  unfold rrServe
  split <;> rfl

theorem rrServe_gal (arb o : Nat) : (rrServe s arb o).gal = s.gal := by rw [rrServe_frame]

theorem gq_rrServe (arb o k : Nat) : gq (rrServe s arb o) k = gq s k := by
  rw [rrServe_frame]
  exact gq_congr rfl rfl k

end

theorem takeCell_of_freeListOk {s : State} (hok : freeListOk s = true) (hfree : s.gal.freeP.getD 2 0 ≠ 0) (q : Nat)
    (x : GQueue) (a : Nat) :
    takeCell s q x a = some (s.gal.freeP.getD 0 0, heldNoted (headTaken s q x a) x.owner) := by
  simp only [takeCell, hok, if_true, hfree, if_false]
  rfl

/-- A queue with a cell granted and not linked. -/
def GQueue.granted (x : GQueue) (c a : Nat) : GQueue :=
  { x with headroom := x.headroom ++ [c], clsCharged := x.clsCharged + b2n (a == 2) }

/-- The state once the cell at the head of the free list is a queue's. -/
def cellGranted (s : State) (q : Nat) (x : GQueue) (a : Nat) : State :=
  requestsDropped (setGq (heldNoted (headTaken s q x a) x.owner) q (x.granted (s.gal.freeP.getD 0 0) a)) q

/-- A request that R256 grants takes the cell at the head of the free list. -/
theorem grantTo_of_acct {s : State} {q : Nat} {x : GQueue} {a : Nat} (hq : gq s q = some x)
    (hacct : grantAcct s q x = some a) (hok : freeListOk s = true) (hfree : s.gal.freeP.getD 2 0 ≠ 0) :
    grantTo s q = some (cellGranted s q x a) := by
  have hstays : gq (heldNoted (headTaken s q x a) x.owner) q = some x := by
    rw [heldNoted_frame]
    exact ((CellsMoved.headTaken s q x a).gq q).trans hq
  simp only [grantTo, hq, hacct, takeCell_of_freeListOk hok hfree, Option.map_some, hstays, Option.getD_some]
  rfl

section
variable (s : State) (q : Nat) (x : GQueue) (a : Nat)

theorem gq_cellGranted_self : gq (cellGranted s q x a) q = some (x.granted (s.gal.freeP.getD 0 0) a) :=
  (gq_requestsDropped ..).trans (gq_setGq_self ..)

theorem gq_cellGranted_ne {k : Nat} (h : k ≠ q) : gq (cellGranted s q x a) k = gq s k := by
  refine (gq_requestsDropped ..).trans ((gq_setGq_ne _ _ h).trans ?_)
  rw [heldNoted_frame]
  exact (CellsMoved.headTaken s q x a).gq k

/-- The galley and the counters alone change. -/
theorem cellGranted_frame : cellGranted s q x a = { s with
    gal := (cellGranted s q x a).gal, cfg := { s.cfg with cnt := (cellGranted s q x a).cfg.cnt } } := by
  rw [cellGranted, heldNoted_frame, (CellsMoved.headTaken s q x a).frame]
  rfl

theorem freeCount_cellGranted :
    (cellGranted s q x a).gal.freeP.getD 2 0 = s.gal.freeP.getD 2 0 - 1 := by
  rw [cellGranted, heldNoted_frame]
  exact freeCount_headTaken s q x a

theorem waiting_cellGranted : (cellGranted s q x a).gal.waiting = s.gal.waiting.filter (fun r => r.q != q) := by
  rw [cellGranted, heldNoted_frame]
  exact congrArg (List.filter _) (CellsMoved.headTaken s q x a).waiting

end

/-- The requests that wait, in the order in which they are looked at (R257). -/
def requestsInOrder (s : State) : List GReq := s.gal.waiting.foldl (fun l r => insertReq s r l) []

theorem mem_insertReq {s : State} {r b : GReq} {l : List GReq} (h : b ∈ insertReq s r l) : b = r ∨ b ∈ l := by
  induction l with
  | nil => exact .inl (List.mem_singleton.1 h)
  | cons y l ih =>
    unfold insertReq at h
    split at h
    · exact List.mem_cons.1 h
    · rcases List.mem_cons.1 h with rfl | h
      · exact .inr (List.mem_cons_self ..)
      · exact (ih h).imp_right (List.mem_cons_of_mem _)

/-- Only requests that wait are looked at. -/
theorem mem_waiting_of_mem_requestsInOrder {s : State} {r : GReq} (h : r ∈ requestsInOrder s) : r ∈ s.gal.waiting := by
  have hall : ∀ b ∈ requestsInOrder s, b ∈ s.gal.waiting :=
    List.foldlRecOn s.gal.waiting _ (motive := fun l => ∀ b ∈ l, b ∈ s.gal.waiting) (by simp)
      fun l hl a ha b hb => (mem_insertReq hb).elim (fun h => h ▸ ha) (hl b)
  exact hall r h

theorem firstGrant_of_none {s : State} {l : List GReq} (h : ∀ r ∈ l, grantTo s r.q = none) : firstGrant s l = none := by
  induction l with
  | nil => rfl
  | cons r l ih =>
    simp only [firstGrant, h r (List.mem_cons_self ..)]
    exact ih fun b hb => h b (List.mem_cons_of_mem _ hb)

/-- With one request that can be granted, it is granted, and the arbiter has served its owner. -/
theorem firstGrant_singleton {s u : State} {r : GReq} {x : GQueue} (hq : gq s r.q = some x)
    (h : grantTo s r.q = some u) : firstGrant s [r] = some (rrServe u 0 x.owner) := by
  simp only [firstGrant, h, hq]

theorem requestsInOrder_of_waiting {s : State} {r : GReq} (h : s.gal.waiting = [r]) : requestsInOrder s = [r] := by
  simp only [requestsInOrder, h]
  rfl

/-- A cell that is not free is charged again as its entry says (R565). -/
def chargeEntry (s : State) (e : Nat × Nat) : State :=
  match entry s e.1 with
  | some m => if m.acct = 3 then s else (match gq s m.qid with | some x => charge s x.owner x.cls m.acct | none => s)
  | none => s

theorem CellsMoved.chargeEntry (s : State) (e : Nat × Nat) : CellsMoved s (chargeEntry s e) := by
  unfold Machine.chargeEntry
  split
  · split
    · exact refl s
    · split
      · exact charge ..
      · exact refl s
  · exact refl s

/-- Recomputing the charges drops no request. -/
theorem waiting_recharge (s : State) : (recharge s).gal.waiting = s.gal.waiting :=
  (CellsMoved.foldl CellsMoved.chargeEntry s.gal.entries
    { s with gal := { s.gal with resCh := [], clsCh := [], held := [], clsHeld := [] } }).waiting

theorem waiting_withdraw (s : State) (l : List Nat) : (withdraw s l).gal.waiting = s.gal.waiting := by
  unfold withdraw
  split
  · rfl
  · exact waiting_recharge _

theorem waiting_setFree (s : State) (h t n : Nat) : (setFree s h t n).gal.waiting = s.gal.waiting :=
  (CellsMoved.setFree s h t n).waiting

theorem waiting_relinked (s : State) (l : List (Nat × Nat)) :
    (l.foldl (fun s (c, n) => setEntry s c ⟨n, 0, 3, false, 0, 0⟩) s).gal.waiting = s.gal.waiting :=
  (CellsMoved.foldl (fun s e => CellsMoved.setEntry s e.1 ⟨e.2, 0, 3, false, 0, 0⟩) l s).waiting

/-- Nor does rebuilding the free list. -/
theorem waiting_rebuild (s : State) : (rebuild s).gal.waiting = s.gal.waiting := by
  simp only [rebuild, postG_gal, cntAdd_gal, waiting_setFree, waiting_relinked, waiting_withdraw]

/-- CELL_GRANT where CORE runs: a faulty free list is rebuilt, and the first request that can be granted is. -/
theorem exec_cellGrant {s u : State} (h : runs s 0 = true) (hu : u = if freeListOk s then s else rebuild s) :
    exec .cellGrant s = .next ((firstGrant u (requestsInOrder u)).getD u) := by
  subst hu
  refine congrArg Host.Outcome.next (if_neg ?_)
  simp [h]

/-! ### GALLEY_SCRUB (R508) -/

/-- A word that reads clean is read without a trace. -/
theorem readWord_of_clean {s : State} {c w d : Nat} (h : hamDec 64 7 (rawWord s c w) = some (d, false)) (o : Nat) :
    readWord s o c w = (some (BitVec.ofNat 64 d), s) := by
  simp only [readWord, h]

/-- A cell that reads clean is left as it is. -/
theorem scrubCell_of_clean {s : State} {c : Nat}
    (hwords : ∀ w < 32, ∃ d, hamDec 64 7 (rawWord s c w) = some (d, false)) (hentry : entry s c ≠ none) :
    scrubCell s c = s := by
  obtain ⟨m, hm⟩ := Option.ne_none_iff_exists'.1 hentry
  simp only [scrubCell, hm, Option.isNone_some, Bool.false_and, Bool.false_eq_true, if_false]
  refine List.foldlRecOn (List.range 32) _ (motive := fun t => t = s) rfl fun t ht w hw => ?_
  obtain ⟨d, hd⟩ := hwords w (List.mem_range.1 hw)
  subst ht
  rw [readWord_of_clean hd]

/-! ### The rows -/

theorem exec_enq {s u : State} {ups : List GalUpset} (hu : u = galUpsets s ups) (h : dpStop s = false) (q : Qid)
    (words : List W64) (last : Bool) (p : BitVec 4) :
    exec (.enq q words last p ups) s = .next (enq u q.val words last p.toNat) := by
  subst hu
  exact congrArg Host.Outcome.next (if_neg (by simp [h]))

theorem exec_trim {s u : State} {ups : List GalUpset} (hu : u = galUpsets s ups) (h : runs u 0 = true) (q : Qid) :
    exec (.trim q ups) s = .next (trimOp u q.val) := next_of_runs hu h (trimOp · q.val)

theorem exec_reset {s : State} (h : runs s 0 = true) (q : Qid) :
    exec (.reset q) s = .next (sweepQueue s q.val).2 := congrArg Host.Outcome.next (if_pos h)

/-- GALLEY_SCRUB over a cell that reads clean moves its cursor alone, and counts the pass at the last cell. -/
theorem exec_galleyScrub_of_clean {s u : State} {ups : List GalUpset} (hu : u = galUpsets s ups) (hoff : s.pwr.off = false)
    (hruns : runs s 0 = true)
    (hdue : s.bg.galCursor * (mgmt u 12 * msT) ≤ (lkD s.pwr.ran 0 0 - s.bg.galAt) * 65536)
    (hclean : scrubCell u s.bg.galCursor = u) :
    exec (.galleyScrub ups) s = .next (if s.bg.galCursor + 1 < 65536
      then { u with bg := { s.bg with galCursor := s.bg.galCursor + 1 } }
      else cntAdd { u with bg := { s.bg with galCursor := 0, galAt := lkD s.pwr.ran 0 0 } } (telKey 0x80C) 1) := by
  have hpwr : u.pwr = s.pwr := by rw [hu, galUpsets_frame]
  have hbg : u.bg = s.bg := by rw [hu, galUpsets_frame]
  have hrow : exec (.galleyScrub ups) s = execGalleyScrub ups s := rfl
  have hruns' : runs u 0 = true := by rw [hu, runs_galUpsets, hruns]
  simp only [hrow, execGalleyScrub, hoff, Bool.false_eq_true, if_false, ← hu, hpwr, hbg, hruns', hdue, decide_true,
    Bool.and_self, if_true, hclean]

/-- From s to t the galley and the power state alone may have changed. -/
def GalleyMoved (s t : State) : Prop := t = { s with gal := t.gal, pwr := t.pwr }

theorem GalleyMoved.trans {s t u : State} (h : GalleyMoved s t) (h' : GalleyMoved t u) : GalleyMoved s u := by
  unfold GalleyMoved at *
  rw [h', h]

theorem CellsMoved.galleyMoved {s t : State} (h : CellsMoved s t) : GalleyMoved s t := by
  unfold GalleyMoved
  rw [h]

theorem GalleyMoved.setGq (s : State) (q : Nat) (x : GQueue) : GalleyMoved s (setGq s q x) := rfl

theorem GalleyMoved.wordsFrom (s : State) (c k : Nat) (l : List W64) : GalleyMoved s (wordsFrom s c k l) := by
  unfold GalleyMoved
  rw [wordsFrom_frame]

theorem GalleyMoved.demandOn (s : State) (d : Nat) : GalleyMoved s (demandOn s d) := by
  unfold GalleyMoved
  rw [demandOn_frame]

/-- What ENQ on a granted cell leaves, before its port asks for a further one. -/
theorem linkCell_links {u v : State} {q : Nat} {x : GQueue} {c : Nat} {r : List Nat} (hv : v = demandOn u 0)
    (hq : gq v q = some x) (hroom : x.headroom = c :: r) (hlen : x.prim.length = 8) {words : List W64}
    (hwords : words.length ≤ 32) (last : Bool) (poison : Nat) {t : State} (ht : t = linkCell v q c words last poison) :
    ∃ y, gq t q = some y ∧ y.val 3 = c ∧ y.val 4 = x.val 4 + 1 ∧ y.val 5 = x.val 5 + 1 ∧
      y.val 6 = (if last then (x.val 6 + 1) % 2 ^ 32 else x.val 6) ∧
      y.val 0 = (if x.val 0 = qEnd then c else x.val 0) ∧ y.headroom = r ∧ y.aborted = false ∧
      (∀ i w, words[i]? = some w → rawWord t c i = hamEnc 64 7 w.toNat) ∧
      (∀ k, (k < c * 32 ∨ c * 32 + 32 ≤ k) → lkD t.gal.words k 0 = lkD u.gal.words k 0) ∧
      (∀ k, k ≠ q → gq t k = gq u k) ∧ t = { u with gal := t.gal, pwr := t.pwr } := by
  have hmoved := CellsMoved.cellWritten v q x c words last poison
  have hframe := wordsFrom_frame v c 0 words
  rw [List.take_of_length_le hwords] at hmoved
  have htwords : t.gal.words = (wordsFrom v c 0 words).gal.words := by
    rw [ht, linkCell_of_gq hq]
    exact hmoved.words
  have hval {d : Nat} := GQueue.val_linked (d := d) hlen c last
  rw [linkCell_of_gq hq] at ht
  refine ⟨crossSync _ q (x.linked c last), by rw [ht, gq_setGq_self], ?_, ?_, ?_, ?_, ?_, ?_, ?_, fun i w hw => ?_,
    fun k hk => ?_, fun k hk => ?_, ?_⟩
  · simp [hval]
  · simp [hval]
  · simp [hval]
  · simp [hval]
  · simp [hval]
  · simp [GQueue.headroom_linked, hroom]
  · simp [GQueue.aborted_linked]
  · rw [rawWord, htwords]
    simpa [rawWord] using rawWord_wordsFrom v c 0 w words hw
  · rw [htwords, words_wordsFrom_of_outside _ _ _ _ (by omega), hv, demandOn_gal]
  · rw [ht, hmoved.gq_setGq_ne _ hk, hframe]
    refine gq_congr ?_ ?_ k <;> simp [hv]
  · subst ht hv
    exact (GalleyMoved.demandOn u 0).trans ((GalleyMoved.wordsFrom ..).trans (hmoved.galleyMoved.trans (.setGq ..)))

/-- Settles O28, row by row. -/
theorem galleyProducerOperations : Obligations.GalleyProducerOperations := by
  intro s u q ups x hu
  refine ⟨fun words last p c r v hrun hv hq hroom hlen _ hguard htail _ hwords => ?_, fun l h hwalk => ?_,
    fun hruns hq hread => ?_, fun r a hruns hok hwait hq hacct hfree => ?_, fun hruns hok hnone => ?_,
    fun hruns hok hwait => ?_, fun hoff hruns _ hdue hclean hentry => ?_⟩
  · rw [exec_enq hu hrun, enq_of_granted hv hq hroom hguard htail]
    obtain ⟨y, hlinked⟩ := linkCell_links hv hq hroom hlen hwords last p.toNat rfl
    exact ⟨_, y, rfl, fillHeadroom_of_not_crosses _, hlinked⟩
  · rw [exec_trim hu h.runs, trimOp_of_ready h hwalk]
    have hmoved := CellsMoved.cutFreed x l u
    refine ⟨_, _, rfl, gq_setGq_self .., ?_, ?_, fun hk => ?_, crossSync_headroom .., crossSync_aborted ..,
      crossSync_trimmed .., ?_, fun k hk => ?_, ?_, hmoved.words⟩
    · exact (crossSync_val ..).trans (GQueue.val_cut_held _ _ h.length)
    · exact (crossSync_val ..).trans (GQueue.val_cut_tail _ _ h.length)
    · exact (crossSync_val ..).trans (GQueue.val_cut_head _ _ h.length hk)
    · exact (crossSync_markValid ..).trans (GQueue.markValid_cut ..)
    · exact (gq_setGq_ne _ _ hk).trans ((gq_requestsDropped ..).trans (hmoved.gq k))
    · rw [setGq, requestsDropped, hmoved.frame]
  · rw [exec_reset hruns, sweepQueue_of_readable hq hread]
    have hmoved := CellsMoved.freeNamed x (ownCells s q.val) s
    refine ⟨_, _, rfl, (gq_requestsDropped ..).trans (gq_setGq_self ..), rfl, rfl, rfl, rfl, fun r hr => ?_, fun k hk => ?_,
      ?_, hmoved.words⟩
    · simpa using (List.mem_filter.1 hr).2
    · exact (gq_requestsDropped ..).trans (hmoved.gq_setGq_ne _ hk)
    · rw [requestsDropped, hmoved.frame_setGq]
  · have hgrant := grantTo_of_acct hq hacct hok hfree
    rw [exec_cellGrant (u := s) hruns (if_pos hok).symm, requestsInOrder_of_waiting hwait,
      firstGrant_singleton hq hgrant, Option.getD_some]
    refine ⟨_, x.granted (s.gal.freeP.getD 0 0) a, rfl, ?_, rfl, rfl, rfl, ?_, ?_, fun k hk => ?_, ?_⟩
    · rw [gq_rrServe, gq_cellGranted_self]
    · rw [rrServe_gal, waiting_cellGranted]
      simp [hwait]
    · rw [rrServe_gal, freeCount_cellGranted]
    · rw [gq_rrServe, gq_cellGranted_ne _ _ _ _ hk]
    · rw [rrServe_frame, cellGranted_frame]
  · rw [exec_cellGrant (u := s) hruns (if_pos hok).symm,
      firstGrant_of_none fun r hr => hnone r (mem_waiting_of_mem_requestsInOrder hr), Option.getD_none]
  · have hempty : requestsInOrder (rebuild s) = [] := by
      rw [requestsInOrder, waiting_rebuild, hwait, List.foldl_nil]
    rw [exec_cellGrant (u := rebuild s) hruns (by simp [hok]), hempty, firstGrant_of_none (by simp), Option.getD_none]
  · exact exec_galleyScrub_of_clean hu hoff hruns hdue (scrubCell_of_clean hclean hentry)

end Sys2Proof.Machine
end

section
/-! States that meet the hypotheses of O27 and O28, and what the rows make of them. -/

namespace Sys2Proof.Machine

/-- Queue 0x200, which is guarded and stays within CORE, with the cells 0, 1 and 2, MARK at 1, RD at 2, and this shadow
copy of RD; its port holds these granted cells. -/
def threeCells (shadow : Nat) (granted : List Nat) : GQueue :=
  { GQueue.fresh 4 0 with
    prim := [0, 1, 2, 2, 3, 1, 2, 0], shad := [0, 1, shadow, 2, 3, 1, 2, 0], markValid := true, headroom := granted }

/-- The stored entry of a cell of queue 0x200 with eight bytes. -/
def cellOf (next : Nat) (last : Bool) : Nat := hamEnc 48 6 (Entry.toNat ⟨next, 0x200, 1, last, 0, 7⟩)

/-- A device with that queue; cells 0 and 1 each end a record. -/
def galleyThree (shadow : Nat) (granted : List Nat) : State := { State.reset with
  gal := { State.reset.gal with
    queues := [(0x200, threeCells shadow granted)]
    entries := [(0, cellOf 1 true), (1, cellOf 2 true), (2, cellOf 0 false)]
    freeP := [3, 65535, 65533], freeS := [3, 65535, 65533] } }

/-- That queue's ID as an operand. -/
def chainQid : Qid := 0x200

/-- Its copies agree, whatever values an operation reads. -/
theorem galleyThree_ready {codes : List Nat} (h : copyFault (threeCells 2 []) codes = none) :
    QueueReady (galleyThree 2 []) 0x200 (threeCells 2 []) codes :=
  ⟨rfl, rfl, rfl, rfl, fun _ => h⟩

/-- What the stored entries and words of the queue's cells give: the walks, the cell at RD, and that every entry can be
read. -/
theorem galleyThree_stored :
    walkCells (galleyThree 2 []) 0x200 2 2 65537 1 = .ok [(1, ⟨2, 0x200, 1, true, 0, 7⟩)] ∧
    walkCells (galleyThree 2 []) 0x200 2 2 65537 0 = .ok [(0, ⟨1, 0x200, 1, true, 0, 7⟩), (1, ⟨2, 0x200, 1, true, 0, 7⟩)] ∧
    walkCells (galleyThree 2 []) 0x200 1 2 65537 0 = .ok [(0, ⟨1, 0x200, 1, true, 0, 7⟩)] ∧
    walkCells (galleyThree 2 []) 0x200 qEnd 2 65537 0 =
      .ok [(0, ⟨1, 0x200, 1, true, 0, 7⟩), (1, ⟨2, 0x200, 1, true, 0, 7⟩), (2, ⟨0, 0x200, 1, false, 0, 7⟩)] ∧
    reach (galleyThree 2 []) 0x200 2 = .ok ⟨0, 0x200, 1, false, 0, 7⟩ ∧
    readWords (galleyThree 2 []) 0 2 1 = ([0], none, galleyThree 2 []) ∧
    reach (demandOn (galleyThree 2 [3]) 0) 0x200 2 = .ok ⟨0, 0x200, 1, false, 0, 7⟩ ∧
    unreadable (galleyThree 2 []) = [] := by
  decide +kernel

/-- MARK names cell 2; REWIND goes back to cell 1, and two cells are unread. -/
theorem markRewind_galleyThree :
    (∃ t y, exec (.mark chainQid []) (galleyThree 2 []) = .next t ∧ gq t 0x200 = some y ∧ y.val 1 = 2) ∧
    ∃ t y, exec (.rewind chainQid []) (galleyThree 2 []) = .next t ∧ gq t 0x200 = some y ∧ y.val 2 = 1 ∧ y.val 5 = 2 := by
  obtain ⟨hmark, hrewind, -⟩ := galleyConsumerOperations (galleyThree 2 []) _ chainQid [] (threeCells 2 []) rfl
  obtain ⟨t, y, hexec, hq, hval, -⟩ := hmark (galleyThree_ready rfl)
  obtain ⟨u, z, hexec', hq', hrd, hunread, -⟩ := hrewind _ (galleyThree_ready rfl) galleyThree_stored.1
  exact ⟨⟨t, y, hexec, hq, hval⟩, u, z, hexec', hq', hrd, hunread⟩

/-- RELEASE frees cells 0 and 1, RELEASE_MARK cell 0 alone. -/
theorem releases_galleyThree :
    (∃ t y, exec (.release chainQid []) (galleyThree 2 []) = .next t ∧ gq t 0x200 = some y ∧ y.val 0 = 2 ∧ y.val 4 = 1 ∧
      y.val 7 = 2 ∧ t.gal.freeP.getD 2 0 = 65535) ∧
    ∃ t y, exec (.releaseMark chainQid []) (galleyThree 2 []) = .next t ∧ gq t 0x200 = some y ∧ y.val 0 = 1 ∧
      y.val 4 = 2 ∧ y.val 7 = 1 ∧ t.gal.freeP.getD 2 0 = 65534 := by
  obtain ⟨-, -, hrelease, hmark, -⟩ := galleyConsumerOperations (galleyThree 2 []) _ chainQid [] (threeCells 2 []) rfl
  obtain ⟨-, hwalk, hwalk', -⟩ := galleyThree_stored
  obtain ⟨t, y, hexec, hq, hhead, -, hheld, hunits, -, hfree, -⟩ := hrelease _ (galleyThree_ready rfl) hwalk
  obtain ⟨u, z, hexec', hq', hhead', -, hheld', hunits', -, hfree', -⟩ := hmark _ (galleyThree_ready rfl) rfl hwalk'
  exact ⟨⟨t, y, hexec, hq, hhead, hheld, hunits, hfree⟩, u, z, hexec', hq', hhead', hheld', hunits', hfree'⟩

/-- READ delivers cell 2, whose word reads 0, and nothing is left unread. -/
theorem read_galleyThree :
    ∃ t y, exec (.read chainQid []) (galleyThree 2 []) = .next t ∧ lk t.gal.queues 0x200 = some y ∧ y.val 2 = qEnd ∧
      y.val 5 = 0 ∧ t.gal.reads = [⟨0x200, 2, [0], 8, false, 0, false⟩] := by
  obtain ⟨-, -, -, -, -, hread, -⟩ := galleyConsumerOperations (galleyThree 2 []) _ chainQid [] (threeCells 2 []) rfl
  obtain ⟨-, -, -, -, hreach, hwords, -⟩ := galleyThree_stored
  obtain ⟨t, y, hexec, hq, hrd, hunread, -, -, hreads, -⟩ := hread ⟨0, 0x200, 1, false, 0, 7⟩ [0] (galleyThree 2 [])
    (galleyThree_ready rfl) rfl (by decide) (by decide) hreach hwords
  exact ⟨t, y, hexec, hq, hrd, hunread, hreads⟩

/-- A queue first used is empty, and READ delivers nothing. -/
theorem read_reset : ∃ t, exec (.read 0x80 []) State.reset = .next t ∧ t.gal.reads = [] := by
  obtain ⟨-, -, -, -, -, -, hread, -⟩ := galleyConsumerOperations State.reset _ 0x80 [] (GQueue.fresh 1 63) rfl
  obtain ⟨t, y, hexec, -, -, -, hframe⟩ := hread ⟨rfl, rfl, rfl, rfl, fun _ => rfl⟩ rfl rfl
  exact ⟨t, hexec, by rw [hframe]; rfl⟩

/-- An upset of RD's shadow copy is found by MARK, which resets the queue by force. -/
theorem mark_galleyThree_upset : exec (.mark chainQid [.pointer 0x200 2 0 true]) (galleyThree 2 []) =
    .next (forcedReset (galleyThree 3 []) 0x200 2 2) := by
  obtain ⟨-, -, -, -, -, -, -, hguard⟩ := galleyConsumerOperations (galleyThree 2 []) (galleyThree 3 []) chainQid
    [.pointer 0x200 2 0 true] (threeCells 3 []) rfl
  exact (hguard 2 rfl rfl rfl).1 rfl

/-- ENQ links the granted cell 3, with its word. -/
theorem enq_galleyThree : ∃ t y, exec (.enq chainQid [5] true 0 []) (galleyThree 2 [3]) = .next t ∧
    gq t 0x200 = some y ∧ y.val 3 = 3 ∧ y.val 4 = 4 ∧ y.val 6 = 3 ∧ rawWord t 3 0 = hamEnc 64 7 5 := by
  obtain ⟨henq, -⟩ := galleyProducerOperations (galleyThree 2 [3]) _ chainQid [] (threeCells 2 [3]) rfl
  obtain ⟨-, -, -, -, -, -, hreach, -⟩ := galleyThree_stored
  obtain ⟨t, y, hexec, hfill, hq, htail, hheld, -, hunits, -, -, -, hwords, -⟩ := henq [5] true 0 3 [] _
    rfl rfl rfl rfl rfl rfl (fun _ => rfl) (.inr ⟨_, hreach⟩) (by decide) (by decide)
  rw [hfill rfl] at hexec
  exact ⟨t, y, hexec, hq, htail, hheld, hunits, hwords 0 5 rfl⟩

/-- TRIM drops cell 2, which ends no record; RESET leaves nothing. -/
theorem trimReset_galleyThree :
    (∃ t y, exec (.trim chainQid []) (galleyThree 2 []) = .next t ∧ gq t 0x200 = some y ∧ y.val 4 = 2 ∧ y.val 3 = 1 ∧
      y.aborted = true) ∧
    ∃ t y, exec (.reset chainQid) (galleyThree 2 []) = .next t ∧ gq t 0x200 = some y ∧ y.val 4 = 0 := by
  obtain ⟨-, htrim, hreset, -⟩ := galleyProducerOperations (galleyThree 2 []) _ chainQid [] (threeCells 2 []) rfl
  obtain ⟨-, -, -, hwalk, -, -, -, hread⟩ := galleyThree_stored
  obtain ⟨t, y, hexec, hq, hheld, htail, -, -, haborted, -⟩ := htrim _ (galleyThree_ready rfl) hwalk
  obtain ⟨u, z, hexec', hq', hprim, -⟩ := hreset rfl rfl hread
  exact ⟨⟨t, y, hexec, hq, hheld, htail, haborted⟩, u, z, hexec', hq', by rw [GQueue.val, hprim]; rfl⟩

/-- A device one of whose queues waits for a cell. -/
def requesting (q : Nat) : State := { State.reset with gal := { State.reset.gal with waiting := [⟨q, 0, 0⟩] } }

/-- What the entries and words of a galley that nothing has written give. -/
theorem reset_stored : freeListOk (requesting 0x80) = true ∧ freeListOk (requesting 0x1A0) = true ∧
    entry State.reset 65534 ≠ none ∧ entry State.reset 65535 ≠ none ∧ hamDec 64 7 0 = some (0, false) := by
  decide +kernel

/-- CELL_GRANT gives queue 0x80 the cell 0. -/
theorem cellGrant_requesting : ∃ t y, exec .cellGrant (requesting 0x80) = .next t ∧ gq t 0x80 = some y ∧ y.headroom = [0] ∧
    t.gal.waiting = [] ∧ t.gal.freeP.getD 2 0 = 65535 := by
  obtain ⟨-, -, -, hgrant, -⟩ := galleyProducerOperations (requesting 0x80) _ 0x80 [] (GQueue.fresh 1 63) rfl
  obtain ⟨hok, -⟩ := reset_stored
  obtain ⟨t, y, hexec, hq, hroom, -, -, hwait, hfree, -⟩ := hgrant ⟨0x80, 0, 0⟩ 1 rfl hok rfl
    rfl rfl (by decide)
  exact ⟨t, y, hexec, hq, hroom, hwait, hfree⟩

/-- A request of a queue that nobody uses is not granted. -/
theorem cellGrant_unused : exec .cellGrant (requesting 0x1A0) = .next (requesting 0x1A0) := by
  obtain ⟨-, -, -, -, hnone, -⟩ := galleyProducerOperations (requesting 0x1A0) _ 0x80 [] (GQueue.fresh 1 63) rfl
  obtain ⟨-, hok, -⟩ := reset_stored
  refine hnone rfl hok fun r hr => ?_
  rw [List.mem_singleton.1 hr]
  rfl

/-- A free list whose copies of its head differ is rebuilt. -/
theorem cellGrant_upset : exec .cellGrant (galUpset State.reset (.freeList 0 0 true)) =
    .next (rebuild (galUpset State.reset (.freeList 0 0 true))) := by
  obtain ⟨-, -, -, -, -, hrebuild, -⟩ := galleyProducerOperations (galUpset State.reset (.freeList 0 0 true)) _ 0x80 []
    (GQueue.fresh 1 63) rfl
  exact hrebuild rfl rfl rfl

/-- A device whose galley scrub stands at this cell, with CORE having run for this time. -/
def scrubbingAt (c ran : Nat) : State := { State.reset with
  bg := { State.reset.bg with galCursor := c }, pwr := { State.reset.pwr with ran := [(0, ran)] } }

/-- The scrub goes on from the last cell but one, and the pass ends with the last one. -/
theorem galleyScrub_scrubbingAt :
    (∃ t, exec (.galleyScrub []) (scrubbingAt 65534 (2 ^ 60)) = .next t ∧ t.bg.galCursor = 65535) ∧
    ∃ t, exec (.galleyScrub []) (scrubbingAt 65535 (2 ^ 60)) = .next t ∧ t.bg.galCursor = 0 ∧ t.bg.galAt = 2 ^ 60 := by
  obtain ⟨-, -, -, -, -, -, hscrub⟩ := galleyProducerOperations (scrubbingAt 65534 (2 ^ 60)) _ 0x80 [] (GQueue.fresh 1 63) rfl
  obtain ⟨-, -, -, -, -, -, hlast⟩ := galleyProducerOperations (scrubbingAt 65535 (2 ^ 60)) _ 0x80 [] (GQueue.fresh 1 63) rfl
  obtain ⟨-, -, hentry, hentry', hzero⟩ := reset_stored
  have hnext := hscrub rfl rfl (by decide) (by decide) (fun _ _ => ⟨0, hzero⟩) hentry
  have hwrap := hlast rfl rfl (by decide) (by decide) (fun _ _ => ⟨0, hzero⟩) hentry'
  rw [if_pos (by decide)] at hnext
  rw [if_neg (by decide)] at hwrap
  exact ⟨⟨_, hnext, rfl⟩, _, hwrap, rfl, rfl⟩

end Sys2Proof.Machine
end

section
/-! The tasks of a stream: what the running task of a type is, the reads that the tokens allow (R285, R287), and the
writes of a task's output (R83). -/

namespace Sys2Proof.Machine

/-! ### The task in flight -/

/-- A running task of a type is the stream's task, has not ended, and the domains that it needs run. -/
theorem runningTask_spec {s : State} {i n : Nat} {t : TaskRun} (h : runningTask s i n = some t) :
    (stream s i).task = some t ∧ t.done = none ∧ t.type = n ∧ engineOk s n = true := by
  unfold runningTask at h
  split at h
  · rename_i x htask
    split at h
    · rename_i hguard
      obtain rfl := Option.some.inj h
      simpa [htask, and_assoc] using hguard
    · exact absurd h nofun
  · exact absurd h nofun

/-! ### Reads that the tokens allow -/

/-- A task once every read of a trace is issued. -/
def TaskRun.issuedAll (t : TaskRun) (tr : List Acc) : TaskRun :=
  { t with issued := t.issued + ((readsOf tr).length - (t.issued - t.base)) }

/-- Where the tokens allow them, all reads of a trace are issued. -/
theorem chargeReads_admitted {s : State} {i : Nat} {t : TaskRun} {tr : List Acc} (h : ReadsAdmitted s i t tr) :
    chargeReads s i t tr = (true, t.issuedAll tr, (readied s i t false tr).2) := by
  have hmin : min ((readsOf tr).length - (t.issued - t.base)) (tokens s i) =
      (readsOf tr).length - (t.issued - t.base) := Nat.min_eq_left h
  refine Prod.ext ?_ (Prod.ext ?_ rfl)
  · simp [chargeReads, hmin]
  · simp [chargeReads, hmin, TaskRun.issuedAll]

/-- A plan whose reads the tokens allow goes on. -/
theorem runPlan_admitted {s : State} {i : Nat} {t : TaskRun} {tr : List Acc} (h : ReadsAdmitted s i t tr) (note : Bool)
    (go : TaskRun → State → State) :
    runPlan s i t (.fin note tr go) = go (readied s i t note tr).1 (readied s i t note tr).2 := by
  have hall : (chargeReads s i t tr).1 = true := congrArg Prod.fst (chargeReads_admitted h)
  rcases hcharge : chargeReads s i t tr with ⟨all, x, v⟩
  obtain rfl : all = true := by rw [← hall, hcharge]
  simp only [runPlan, readied, hcharge]

/-- The reads of a task write nothing and leave the streams' registers alone. -/
theorem atEnd_readied (s : State) (i : Nat) (t : TaskRun) (note : Bool) (tr : List Acc) :
    atEnd (readied s i t note tr).2 = atEnd s := by
  simp only [readied]
  split
  · rw [atEnd_noteTrace, atEnd_chargeReads]
  · exact atEnd_chargeReads ..

/-! ### Output -/

/-- The parts of a state that the end of a task leaves alone, after these writes of its output for a function. -/
def AtEnd.wrote (e : AtEnd) (f : Nat) (ws : List OutW) : AtEnd := { e with writes := e.writes ++ hostWritesOf f ws }

@[simp] theorem AtEnd.wrote_nil (e : AtEnd) (f : Nat) : e.wrote f [] = e := by simp [AtEnd.wrote, hostWritesOf]

/-- A task's writes add its host writes, in order. -/
theorem atEnd_doWrites (s : State) (f : Nat) (ws : List OutW) : atEnd (doWrites s f ws) = (atEnd s).wrote f ws := by
  induction ws generalizing s with
  | nil => simp [doWrites]
  | cons w ws ih =>
    cases w with
    | host a b => rw [doWrites, ih]; simp [AtEnd.wrote, atEnd, hostWritesOf]
    | dev pa b p => rw [doWrites, ih, atEnd_memWrite]; simp [AtEnd.wrote, hostWritesOf]

section
variable {s u : State} {f : Nat} {ws : List OutW} (h : atEnd u = (atEnd s).wrote f ws)
include h

theorem writes_of_wrote : u.hif.writes = s.hif.writes ++ hostWritesOf f ws := congrArg AtEnd.writes h

theorem cpl_of_wrote (j : Nat) : (stream u j).cpl = (stream s j).cpl :=
  congrArg Prod.fst (congrFun (congrArg AtEnd.cpls h) j)

end

/-- The function of a stream stays through what leaves its slot alone. -/
theorem streamFn_of_atEnd {s u : State} (h : atEnd u = atEnd s) (i : Nat) : streamFn u i = streamFn s i := by
  rw [streamFn, streamFn, slot_of_atEnd h]

end Sys2Proof.Machine
end

section
/-! O18: the end of a gather task (R301, R310 to R317). -/

namespace Sys2Proof.Machine

/-! ### What the row goes on to -/

section
variable {s : State} {i n : Nat} {t : TaskRun}

theorem gatherRun_running (h : runningTask s i n = some t) : gatherRun s i n = runPlan s i t (gatherPlan s i t) := by
  simp only [gatherRun, h]

/-- A task whose handle names no table in reach is denied (R301). -/
theorem gatherPlan_denied (h : taskTable s i (streamPart s i) (t.u32 8) = none) :
    gatherPlan s i t = .fin false [] (fun t s => endTask s i t (Rec.abort 0x11 1 0 0 0)) := by
  simp only [gatherPlan, h]

/-- Bags that are all evaluated have their outputs written, and the task ends with the record of R312. -/
theorem gatherPlan_evaluated {tb : Table} {bags : List BagOut} {tr : List Acc}
    (htable : taskTable s i (streamPart s i) (t.u32 8) = some tb)
    (heval : gatherEval (taskCtx s i t) tb t.desc t.adapter = .fin bags none tr) :
    ∃ go, gatherPlan s i t = .fin true tr go ∧ ∀ x v, ∃ w, go x v = endTask w i x (gatherRec (gBody x.desc) bags none) ∧
      atEnd w = (atEnd v).wrote (streamFn v i) (bags.flatMap (·.writes)) := by
  simp only [gatherPlan, htable, heval]
  refine ⟨_, rfl, fun x v => ⟨_, rfl, ?_⟩⟩
  rw [atEnd_postPoison, atEnd_gatherCount, atEnd_cntAdd, atEnd_doWrites]
  refine congrArg (fun e => AtEnd.wrote e (streamFn v i) (bags.flatMap (·.writes))) ?_
  refine atEnd_foldl _ (fun u b => atEnd_foldl _ (fun u e => ?_) _ _) _ _
  split
  · exact atEnd_postRowPoisoned ..
  · rfl

end

/-- Both gather rows run a task of their own type. -/
theorem exec_gather {s : State} {i : SId} {n : Nat} {c : Instr} (h : n = 1 ∧ c = .gatherPool i ∨ n = 2 ∧ c = .gatherRows i) :
    exec c s = .next (gatherRun s i.val n) := by
  rcases h with ⟨rfl, rfl⟩ | ⟨rfl, rfl⟩ <;> rfl

/-- Settles O18: the plan of the task says what the row goes on to once its reads are admitted, and what goes before the
record leaves the indices of every stream alone. -/
theorem gatherTaskEnds : Obligations.GatherTaskEnds := by
  intro s i n c t hrow hrun
  simp only [exec_gather hrow, gatherRun_running hrun]
  refine ⟨fun tb bags tr htable heval hreads => ?_, fun hnone => ?_⟩
  · obtain ⟨go, hplan, hgo⟩ := gatherPlan_evaluated htable heval
    obtain ⟨w, hend, hwrote⟩ := hgo (readied s i.val t true tr).1 (readied s i.val t true tr).2
    have hready := atEnd_readied s i.val t true tr
    rw [hready, streamFn_of_atEnd hready] at hwrote
    have hu := (atEnd_endTask w i.val (readied s i.val t true tr).1 (gatherRec (gBody t.desc) bags none)).trans hwrote
    rw [hplan, runPlan_admitted hreads, hend]
    exact ⟨_, _, rfl, ended_endTask .., rfl, rfl, rfl, rfl, rfl, rfl, rfl, writes_of_wrote hu, cpl_of_wrote hu⟩
  · have hreads : ReadsAdmitted s i.val t [] := by simp [ReadsAdmitted, readsOf]
    have hready := atEnd_readied s i.val t false []
    have hu := (atEnd_endTask _ i.val (readied s i.val t false []).1 (Rec.abort 0x11 1 0 0 0)).trans hready
    rw [gatherPlan_denied hnone, runPlan_admitted hreads]
    exact ⟨_, rfl, ended_endTask .., writes_of_atEnd hu, cpl_of_atEnd hu⟩

end Sys2Proof.Machine
end

section
/-! O22: the ends of a COPY and of a PREFETCH_HINT (R297 to R301). -/

namespace Sys2Proof.Machine

/-! ### The record of a COPY that moved every element -/

/-- COUNT is the elements moved, and POISON with status 2 says that one of them was poisoned (R299). -/
def copyRec (size : Nat) (poison : Bool) : Rec := { Rec.ok size 0 0 with status := if poison then 2 else 0, poison := poison }

theorem ended_endCopy_ok (s : State) (i : Nat) (t : TaskRun) (size : Nat) :
    Ended (endCopy s i t (Rec.ok size 0 0)) i (copyRec size t.poison) := by
  have hrec : (if (Rec.ok size 0 0).status = 0 && t.poison then { Rec.ok size 0 0 with poison := t.poison, status := 2 }
      else { Rec.ok size 0 0 with poison := t.poison }) = copyRec size t.poison := by
    cases h : t.poison <;> rfl
  rw [← hrec]
  exact ended_endTask ..

/-! ### Where every element is moved, the COPY ends -/

section
variable {i size : Nat} {p : Pattern} {t : TaskRun} (h : p.size ≤ t.progress)
include h

theorem copyElems_end (src dst peer d depth n : Nat) (s : State) :
    copyElems i p src dst peer d depth (n + 1) t s = endCopy s i t (Rec.ok t.progress 0 0) := if_pos h

theorem copyToChain_end (src peer q n : Nat) (s : State) :
    copyToChain i p src peer q (n + 1) t s = endCopy s i t (Rec.ok t.progress 0 0) := if_pos h

theorem copyFromChain_end (dst peer d q : Nat) (task : Bool) (out : Option Nat) (n : Nat) (s : State) :
    copyFromChain i p dst peer d q task out (n + 1) t s = endCopy s i t (Rec.ok t.progress 0 0) := if_pos h

end

/-! ### One element -/

section
variable {s : State} {i : Nat} {p : Pattern} {t : TaskRun} (hmore : t.progress < p.size)
include hmore

/-- An element between two ends in memory or on a member: its reads are issued and its writes made. -/
theorem copyElems_moved {src dst peer d depth n : Nat} {b : List PB} {w : List OutW} {tr : List Acc}
    (helem : copyElem (taskCtx s i t) p src dst peer d t.progress = .ok (b, w) tr) (hreads : ReadsAdmitted s i t tr) :
    ∃ v, copyElems i p src dst peer d depth (n + 1) t s =
        copyElems i p src dst peer d depth n (elemDone (t.issuedAll tr) t.progress b (readsOf tr).length) v ∧
      atEnd v = (atEnd s).wrote (streamFn s i) w := by
  rw [copyElems, if_neg (Nat.not_le.2 hmore)]
  simp only [helem, chargeReads_admitted hreads]
  refine ⟨_, rfl, ?_⟩
  rw [atEnd_doWrites, atEnd_noteTrace, atEnd_readied]
  rfl

/-- An element into the OUT chain: its reads are issued and its record linked, and the task still runs. -/
theorem copyToChain_moved {src peer q n : Nat} {b : List PB} {tr : List Acc} {v : State} {x : TaskRun}
    (hsrc : (copySrc (taskCtx s i t) p src peer t.progress).at_ t.progress (fun o => (o, p.coord 0 t.progress)) = .ok b tr)
    (hreads : ReadsAdmitted s i t tr) (hlink : linkRecord (readied s i t false tr).2 q b = (true, v))
    (htask : (stream v i).task = some x) (hdone : x.done = none) :
    ∃ w, copyToChain i p src peer q (n + 1) t s =
      copyToChain i p src peer q n (elemDone (t.issuedAll tr) t.progress b (readsOf tr).length) w := by
  rw [copyToChain, if_neg (Nat.not_le.2 hmore)]
  simp only [hsrc, chargeReads_admitted hreads, hlink, htask, hdone]
  exact ⟨_, rfl⟩

/-- The marked bytes of a record that the task has read from its IN chain. -/
def heldRecord (bytes : List Byte) : List PB := (chunks 2 bytes).map (fun x => ⟨x.getD 0 0, x.getD 1 0 != 0⟩)

/-- An element from the IN chain whose record has been read: its writes are made. -/
theorem copyFromChain_moved {dst peer d q n : Nat} {task : Bool} {bytes : List Byte} {w : List OutW} {tr : List Acc}
    (htask : (stream s i).task = some t) (hdone : t.done = none) (hheld : lk t.land t.progress = some (.data bytes))
    (hdst : (copyDst (taskCtx s i t) p dst peer d t.progress (heldRecord bytes)).at_ t.progress
      (fun o => (o, 2 ^ 60 + p.coord 0 t.progress)) = .ok w tr) :
    ∃ x v, copyFromChain i p dst peer d q task none (n + 1) t s = copyFromChain i p dst peer d q task none n x v ∧
      x.progress = t.progress + 1 ∧ atEnd v = (atEnd s).wrote (streamFn s i) w := by
  rw [copyFromChain, if_neg (Nat.not_le.2 hmore)]
  unfold heldRecord at hdst
  simp only [hheld, htask, hdone, hdst]
  exact ⟨_, _, rfl, rfl, atEnd_doWrites ..⟩

end

/-! ### The ends of a COPY in flight -/

section
variable {s : State} {i : Nat} {t : TaskRun} (hrun : runningTask s i 8 = some t)
include hrun

/-- An end that the task may not reach ends it before any element moves (R298). -/
theorem copyRun_denied {k : Nat} (h : copyDenied s i t = some k) :
    copyRun s i = endCopy s i t (Rec.abort 0x11 k 0 0 0) := by
  simp only [copyRun, hrun, h]

variable (hallowed : copyDenied s i t = none)
include hallowed

theorem copyRun_memory (hsrc : cpSrc t ≠ 3) (hdst : cpDst t ≠ 3) :
    copyRun s i = copyElems i (patternOf t.desc) (cpSrc t) (cpDst t) (t.u32 0x0C) (t.u64 0x18) (strEff s i 0x30 % 1024)
      ((patternOf t.desc).size + 1) t s := by
  simp [copyRun, hrun, hallowed, hsrc, hdst]

variable (hcore : runs s 0 = true)
include hcore

theorem copyRun_toChain {j : Nat} (hsrc : cpSrc t ≠ 3) (hdst : cpDst t = 3) (hchain : chainOut s i = some j) :
    copyRun s i = copyToChain i (patternOf t.desc) (cpSrc t) (t.u32 0x0C) (0x200 + j) ((patternOf t.desc).size + 1) t s := by
  simp [copyRun, hrun, hallowed, hsrc, hdst, hcore, hchain]

/-- From the IN chain, once the task has set its mark where its discipline wants one. -/
theorem copyRun_fromChain {j : Nat} (hsrc : cpSrc t = 3) (hdst : cpDst t ≠ 3) (hchain : chainIn s i = some j)
    (hmark : chainTask s i = true → t.passes ≠ 0) :
    copyRun s i = copyFromChain i (patternOf t.desc) (cpDst t) (t.u32 0x0C) (t.u64 0x18) (0x200 + j) (chainTask s i) none
      ((patternOf t.desc).size + 1) t s := by
  have hmarked : (chainTask s i && t.passes == 0) = false := by simpa using hmark
  simp [copyRun, hrun, hallowed, hsrc, hdst, hcore, hchain, hmarked]

end

/-! ### PREFETCH_HINT (R300) -/

/-- A PREFETCH_HINT has ended, and its pages are held for the time it names. -/
def hintEnded (s : State) (i : Nat) (t : TaskRun) (refused coord : Nat) : State :=
  endTask (setStream s i { stream s i with holdUntil := s.clk.aon + t.u32 0x0C % 65536 * usT }) i t
    (Rec.ok (patternOf t.desc).size refused coord)

section
variable (s : State) (i : Nat) (t : TaskRun) (refused coord : Nat)

theorem holdUntil_hintEnded :
    (stream (hintEnded s i t refused coord) i).holdUntil = s.clk.aon + t.u32 0x0C % 65536 * usT := by
  have hend : atEnd (hintEnded s i t refused coord) = _ := atEnd_endTask ..
  have hhold := congrArg (fun c => c.2.2.2) (congrFun (congrArg AtEnd.cpls hend) i)
  exact hhold.trans (congrArg Stream.holdUntil (stream_setStream_self ..))

theorem writes_hintEnded : (hintEnded s i t refused coord).hif.writes = s.hif.writes :=
  (writes_of_atEnd (atEnd_endTask (setStream s i _) i t _) :)

end

/-- The pages of a walk, element by element. -/
def walkPages (p : Pattern) : List Nat := (List.range p.size).flatMap (elemPages p)

/-- How many accesses of the walk to a page were refused. -/
def refusals (s : State) (i : Nat) (p : Pattern) : Nat :=
  ((List.range p.size).map (fun e =>
    ((elemPages p e).filter (fun g => lk s.hif.ats (atsKey (streamFn s i) g) == some false)).length)).sum

/-- Where no element has a refused page, nothing is refused. -/
theorem refusals_eq_zero {s : State} {i : Nat} {p : Pattern}
    (h : ((List.range p.size).map (fun e => (e, elemPages p e))).find? (fun x =>
      x.2.any (fun g => lk s.hif.ats (atsKey (streamFn s i) g) == some false)) = none) : refusals s i p = 0 := by
  refine List.sum_eq_zero fun n hn => ?_
  obtain ⟨e, he, rfl⟩ := List.mem_map.1 hn
  have hany := List.find?_eq_none.1 h _ (List.mem_map_of_mem he)
  rw [List.length_eq_zero_iff, List.filter_eq_nil_iff]
  simpa using hany

section
variable {s : State} {i : Nat} {t : TaskRun} (hrun : runningTask s i 10 = some t)
include hrun

/-- A hint in the buffer window, or of a function without ATS, needs no translation. -/
theorem prefetchRun_untranslated (h : isWindow (patternOf t.desc).base = true ∨ atsOn s (streamFn s i) = false) :
    prefetchRun s i = hintEnded s i t 0 (2 ^ 64 - 1) := by
  simp only [prefetchRun, hrun]
  exact if_pos (by simpa using h)

variable (hhost : isWindow (patternOf t.desc).base = false) (hats : atsOn s (streamFn s i) = true)
include hhost hats

/-- Where every page has its answer the hint ends, with the refusals counted. -/
theorem prefetchRun_answered
    (h : ∀ g ∈ walkPages (patternOf t.desc), has s.hif.ats (atsKey (streamFn s i) g) = true) :
    ∃ coord, prefetchRun s i = hintEnded s i t (refusals s i (patternOf t.desc)) coord := by
  have hopen : (walkPages (patternOf t.desc)).filter (fun g => !has s.hif.ats (atsKey (streamFn s i) g)) = [] :=
    List.filter_eq_nil_iff.2 fun g hg => by simp [h g hg]
  simp only [prefetchRun, hrun]
  rw [if_neg (by simp [hhost, hats]), if_neg (by rw [List.flatMap_map]; simpa [walkPages] using hopen)]
  split
  · exact ⟨_, congrArg (fun n => hintEnded s i t n _) (congrArg List.sum (List.map_map ..))⟩
  · rename_i hnone
    exact ⟨_, congrArg (fun n => hintEnded s i t n _) (refusals_eq_zero hnone).symm⟩

/-- A page with no answer yet is asked for with the others. -/
theorem prefetchRun_asks {g : Nat} (hg : g ∈ walkPages (patternOf t.desc))
    (hopen : has s.hif.ats (atsKey (streamFn s i) g) = false) :
    ∃ l : List Nat, g ∈ l ∧ prefetchRun s i = issueNeeds s i t (l.map (Need.ats (streamFn s i))) := by
  have hmem : g ∈ (walkPages (patternOf t.desc)).filter (fun g => !has s.hif.ats (atsKey (streamFn s i) g)) :=
    List.mem_filter.2 ⟨hg, by simp [hopen]⟩
  refine ⟨_, hmem, ?_⟩
  simp only [prefetchRun, hrun]
  rw [if_neg (by simp [hhost, hats]), List.flatMap_map]
  exact if_pos (by simpa [walkPages] using List.ne_nil_of_mem hmem)

end

/-- Translations that a task needs are asked for, those that were asked for before stay so, and the task goes on. -/
theorem issueNeeds_ats (i : Nat) (t : TaskRun) (f : Nat) (l : List Nat) (s : State) :
    (stream (issueNeeds s i t (l.map (Need.ats f))) i).task = some t ∧
      s.hif.atsAsked ⊆ (issueNeeds s i t (l.map (Need.ats f))).hif.atsAsked ∧
      ∀ g ∈ l, (f, g) ∈ (issueNeeds s i t (l.map (Need.ats f))).hif.atsAsked := by
  induction l generalizing s with
  | nil => exact ⟨congrArg Stream.task (stream_setStream_self ..), List.Subset.refl _, nofun⟩
  | cons g l ih =>
    rw [List.map_cons, issueNeeds]
    simp only []
    split
    · rename_i hasked
      obtain ⟨htask, hkept, hl⟩ := ih s
      exact ⟨htask, hkept, List.forall_mem_cons.2 ⟨hkept (by simpa using hasked), hl⟩⟩
    · obtain ⟨htask, hkept, hl⟩ := ih { s with hif := { s.hif with atsAsked := s.hif.atsAsked ++ [(f, g)] } }
      exact ⟨htask, fun k hk => hkept (by simp [hk]), List.forall_mem_cons.2 ⟨hkept (by simp), hl⟩⟩

theorem exec_copy (s : State) (i : SId) : exec (.copy i) s = .next (copyRun s i.val) := rfl
theorem exec_prefetchHint (s : State) (i : SId) : exec (.prefetchHint i) s = .next (prefetchRun s i.val) := rfl

/-- Settles O22: the last element is moved by one step of the walk, after which the COPY ends; a hint ends where no page is
unanswered, and asks where one is. -/
theorem copyAndHintEnd : Obligations.CopyAndHintEnd := by
  rintro s i t p rfl
  simp only [exec_copy, exec_prefetchHint]
  refine ⟨?_, ?_, ?_, ?_, ?_, ?_, ?_⟩
  · intro b w tr hrun hallowed hsrc hdst hlast helem hreads
    obtain ⟨v, hmoved, hwrote⟩ := copyElems_moved (depth := strEff s i.val 0x30 % 1024) (n := t.progress + 1)
      (by omega) helem hreads
    rw [copyRun_memory hrun hallowed hsrc hdst, ← hlast, hmoved, copyElems_end hlast.ge]
    exact ⟨_, _, rfl, ended_endCopy_ok .., rfl, rfl, rfl, writes_of_wrote ((atEnd_endCopy ..).trans hwrote)⟩
  · rintro j b tr v hrun hallowed hsrc hdst hcore hchain hlast helem hreads hlink ⟨x, htask, hdone⟩
    obtain ⟨w, hmoved⟩ := copyToChain_moved (n := t.progress + 1) (by omega) helem hreads hlink htask hdone
    rw [copyRun_toChain hrun hallowed hcore hsrc hdst hchain, ← hlast, hmoved, copyToChain_end hlast.ge]
    exact ⟨_, _, rfl, ended_endCopy_ok .., rfl, rfl⟩
  · intro j bytes w tr hrun hallowed hsrc hdst hcore hchain hmark hlast hheld hwritten
    obtain ⟨htask, hdone, -, -⟩ := runningTask_spec hrun
    obtain ⟨x, v, hmoved, hprogress, hwrote⟩ := copyFromChain_moved (q := 0x200 + j) (n := t.progress + 1)
      (task := chainTask s i.val) (by omega) htask hdone hheld hwritten
    rw [copyRun_fromChain hrun hallowed hcore hsrc hdst hchain hmark, ← hlast, hmoved,
      copyFromChain_end (hlast.ge.trans hprogress.ge)]
    exact ⟨_, _, rfl, ended_endCopy_ok .., hprogress, writes_of_wrote ((atEnd_endCopy ..).trans hwrote)⟩
  · intro k hrun hdenied
    obtain ⟨r, hended, hrec⟩ := endedWith_endCopy s i.val t (r := Rec.abort 0x11 k 0 0 0) nofun
    rw [copyRun_denied hrun hdenied]
    exact ⟨_, r, rfl, hended, hrec⟩
  · intro hrun hnone
    rw [prefetchRun_untranslated hrun hnone]
    exact ⟨_, rfl, ended_endTask .., holdUntil_hintEnded .., writes_hintEnded ..⟩
  · rintro no hrun hhost hats hanswered rfl
    have hpages : ∀ g ∈ walkPages (patternOf t.desc), has s.hif.ats (atsKey (streamFn s i.val) g) = true := by
      intro g hg
      obtain ⟨e, he, hg⟩ := List.mem_flatMap.1 hg
      exact hanswered e (List.mem_range.1 he) g hg
    obtain ⟨coord, hend⟩ := prefetchRun_answered hrun hhost hats hpages
    rw [hend]
    exact ⟨_, _, rfl, ended_endTask .., rfl, rfl, rfl, holdUntil_hintEnded ..⟩
  · intro hrun hhost hats e he g hg hopen
    obtain ⟨l, hl, hasks⟩ := prefetchRun_asks hrun hhost hats
      (List.mem_flatMap.2 ⟨e, List.mem_range.2 he, hg⟩) hopen
    obtain ⟨htask, -, hasked⟩ := issueNeeds_ats i.val t (streamFn s i.val) l s
    obtain ⟨-, hdone, -, -⟩ := runningTask_spec hrun
    rw [hasks]
    exact ⟨_, t, rfl, htask, hdone, hasked g hl⟩

end Sys2Proof.Machine
end

section
/-! O25: the halves of a core's buffer (R291, R292) and the chase over the segments of a task (R323, R435). -/

namespace Sys2Proof.Machine

/-! ### Cores by number -/

section
variable (s : State) (n : Nat) (x : CoreSt)

@[simp] theorem core_setCore_self : core (setCore s n x) n = x := lkD_setD_self ..

theorem core_setCore_ne {m : Nat} (h : m ≠ n) : core (setCore s n x) m = core s m := lkD_setD_ne _ _ _ _ h

@[simp] theorem streamPart_setCore (i : Nat) : streamPart (setCore s n x) i = streamPart s i := rfl

end

/-! ### The segment that a free half takes (R291) -/

/-- STR_PRIO of the stream that a pending segment belongs to; 0 is the highest. -/
def segPrio (s : State) (y : TaskRun × Seg) : Nat := strEff s y.2.strm 0x0C

/-- The earlier of a segment and the choice so far. -/
def segPick (s : State) (o : Option (TaskRun × Seg)) (y : TaskRun × Seg) : Option (TaskRun × Seg) :=
  match o with
  | some z => if segBefore s y z then some y else some z
  | none => some y

/-- The pending segments that a core may take, one a stream. -/
def takable (s : State) (n : Nat) : List (TaskRun × Seg) :=
  (s.streams.map (·.1)).filterMap (fun i =>
    match pendingSeg s i with
    | some (t, g) => if coreTakes s n g then some (t, g) else none
    | none => none)

theorem nextSeg_eq (s : State) (n : Nat) : nextSeg s n = (takable s n).foldl (segPick s) none := rfl

/-- STR_PRIO comes first in the order of the pending segments. -/
theorem segPrio_of_segBefore (s : State) (y z : TaskRun × Seg) :
    if segBefore s y z then segPrio s y ≤ segPrio s z else segPrio s z ≤ segPrio s y := by
  by_cases hprio : segPrio s y = segPrio s z
  · simp [hprio]
  · have hbefore : segBefore s y z = decide (segPrio s y < segPrio s z) := if_pos hprio
    rw [hbefore]
    simp only [decide_eq_true_eq]
    split <;> omega

/-- The choice among pending segments has the highest STR_PRIO of all. -/
theorem foldl_segPick_prio (s : State) (l : List (TaskRun × Seg)) {z w : TaskRun × Seg}
    (h : l.foldl (segPick s) (some z) = some w) : segPrio s w ≤ segPrio s z ∧ ∀ y ∈ l, segPrio s w ≤ segPrio s y := by
  induction l generalizing z with
  | nil =>
    obtain rfl := Option.some.inj h
    exact ⟨le_rfl, List.forall_mem_nil _⟩
  | cons y l ih =>
    have horder := segPrio_of_segBefore s y z
    rw [List.foldl_cons, segPick] at h
    split at h <;> rename_i hbefore
    · rw [if_pos hbefore] at horder
      obtain ⟨hy, hl⟩ := ih h
      exact ⟨hy.trans horder, List.forall_mem_cons.2 ⟨hy, hl⟩⟩
    · rw [if_neg hbefore] at horder
      obtain ⟨hz, hl⟩ := ih h
      exact ⟨hz, List.forall_mem_cons.2 ⟨hz.trans horder, hl⟩⟩

theorem nextSeg_prio {s : State} {n : Nat} {w : TaskRun × Seg} (h : nextSeg s n = some w) :
    ∀ y ∈ takable s n, segPrio s w ≤ segPrio s y := by
  rw [nextSeg_eq] at h
  cases hl : takable s n with
  | nil => exact List.forall_mem_nil _
  | cons y l =>
    rw [hl] at h
    exact List.forall_mem_cons.2 (foldl_segPick_prio s l h)

theorem mem_takable {s : State} {n j : Nat} {t : TaskRun} {g : Seg} (hlisted : has s.streams j = true)
    (hpending : pendingSeg s j = some (t, g)) (htakes : coreTakes s n g = true) : (t, g) ∈ takable s n := by
  have hkey : j ∈ s.streams.map (·.1) := by
    by_contra hkey
    simp [has, lk_of_not_mem _ _ hkey] at hlisted
  exact List.mem_filterMap.2 ⟨j, hkey, by simp [hpending, htakes]⟩

/-! ### FILL_HALF_GRANT (R291) -/

/-- The fill half of core n holds a segment of this task. -/
def granted (s : State) (n : Nat) (t : TaskRun) (g : Seg) : State :=
  rrServe (setTask (setCore s n { core s n with fill := some g, work := if g.whole then none else (core s n).work })
    g.strm { t with granted := t.granted + 1 }) 4 (streamPart s g.strm)

section
variable (s : State) (n : Nat) (t : TaskRun) (g : Seg)

theorem granted_cores : (granted s n t g).cores =
    (setCore s n { core s n with fill := some g, work := if g.whole then none else (core s n).work }).cores := by
  rw [granted, rrServe]
  split <;> rfl

theorem granted_streams : (granted s n t g).streams =
    (setTask s g.strm { t with granted := t.granted + 1 }).streams := by
  rw [granted, rrServe]
  split <;> rfl

theorem core_granted_self : (core (granted s n t g) n).fill = some g := by
  rw [core, granted_cores]
  exact congrArg CoreSt.fill (core_setCore_self ..)

theorem core_granted_ne {m : Nat} (h : m ≠ n) : core (granted s n t g) m = core s m := by
  rw [core, granted_cores]
  exact core_setCore_ne _ _ _ h

theorem stream_granted_self : (stream (granted s n t g) g.strm).task = some { t with granted := t.granted + 1 } := by
  rw [stream, granted_streams]
  exact congrArg Stream.task (stream_setStream_self ..)

theorem stream_granted_ne {j : Nat} (h : j ≠ g.strm) : stream (granted s n t g) j = stream s j := by
  rw [stream, granted_streams]
  exact stream_setStream_ne _ _ h

end

/-- A free fill half takes the next segment, where no whole-buffer segment is at work. -/
theorem fillGrant_next {s : State} {n : Nat} {t : TaskRun} {g : Seg} (hfill : (core s n).fill = none)
    (hwork : ∀ g, (core s n).work = some g → g.whole = true → (core s n).handed = true)
    (hnext : nextSeg s n = some (t, g)) : fillGrant s n = granted s n t g := by
  cases hw : (core s n).work with
  | none => simp [fillGrant, hfill, hw, hnext, granted]
  | some h =>
    have hfree : ¬ (h.whole = true ∧ (core s n).handed = false) := fun ⟨hwhole, hhanded⟩ =>
      absurd (hwork h hw hwhole) (by simp [hhanded])
    simp [fillGrant, hfill, hw, hnext, granted, hfree]

/-- With no segment pending the fill half stays as it is. -/
theorem fillGrant_none {s : State} {n : Nat} (hnext : nextSeg s n = none) : fillGrant s n = s := by
  simp [fillGrant, hnext]

/-! ### HALF_SWAP (R291) -/

/-- A fill half that has landed wholly becomes the work half where that is free or handed on. -/
theorem halfSwap_landed {s : State} {n : Nat} {g : Seg} (hfill : (core s n).fill = some g) (hlanded : landed s g = true)
    (hwork : (core s n).work = none ∨ (core s n).handed = true) : halfSwap s n = setCore s n ⟨some g, none, false⟩ := by
  rcases hwork with hwork | hwork <;> simp [halfSwap, hfill, hlanded, hwork]

theorem halfSwap_waits {s : State} {n : Nat}
    (h : (core s n).fill = none ∨ ∃ g, (core s n).fill = some g ∧ landed s g = false) : halfSwap s n = s := by
  rcases h with hfill | ⟨g, hfill, hlanded⟩
  · simp [halfSwap, hfill]
  · simp [halfSwap, hfill, hlanded]

/-! ### CHASE_PASS (R323, R435) -/

/-- The core at a task's last segment hands on its running sum. -/
theorem chasePass_last {s : State} {n : Nat} {g : Seg} {t : TaskRun} (hwork : (core s n).work = some g)
    (hhanded : (core s n).handed = false) (htask : (stream s g.strm).task = some t)
    (hlast : (segEnds (segLimit s g.strm) (planReads s g.strm t) 0 0).length ≤ g.num + 1) :
    chasePass s n = setCore (setTask s g.strm { t with passes := t.passes + 1 }) n { core s n with handed := true } := by
  simp [chasePass, hwork, hhanded, htask, hlast]

/-! ### The rows -/

section
variable {s : State} (hruns : runs s 0 = true) (n : CoreId)
include hruns

theorem exec_fillHalfGrant : exec (.fillHalfGrant n) s = .next (fillGrant s n.val) :=
  congrArg Host.Outcome.next (if_pos hruns)

theorem exec_halfSwap : exec (.halfSwap n) s = .next (halfSwap s n.val) := congrArg Host.Outcome.next (if_pos hruns)

theorem exec_chasePass : exec (.chasePass n) s = .next (chasePass s n.val) := congrArg Host.Outcome.next (if_pos hruns)

end

/-- Settles O25, row by row: what a grant, a swap and a pass make of the core, and the order of the pending segments. -/
theorem coreHalves : Obligations.CoreHalves := by
  intro s n hruns
  simp only [exec_fillHalfGrant hruns, exec_halfSwap hruns, exec_chasePass hruns]
  refine ⟨fun hfill hwork => ⟨fun t g hnext => ?_, fun hnone => ?_⟩, fun g hfill hlanded hwork => ?_,
    fun h => by rw [halfSwap_waits h], fun g t hwork hhanded htask hlast => ?_⟩
  · rw [fillGrant_next hfill hwork hnext]
    exact ⟨_, rfl, core_granted_self s _ t g, stream_granted_self s _ t g, fun m hm => core_granted_ne s _ t g hm,
      fun j hj => stream_granted_ne s _ t g hj,
      fun j t' g' hlisted hpending htakes => nextSeg_prio hnext _ (mem_takable hlisted hpending htakes)⟩
  · rw [fillGrant_none hnone]
  · rw [halfSwap_landed hfill hlanded hwork]
    exact ⟨_, rfl, core_setCore_self .., fun m hm => core_setCore_ne _ _ _ hm, rfl⟩
  · rw [chasePass_last hwork hhanded htask hlast]
    exact ⟨_, rfl, core_setCore_self .., congrArg Stream.task (stream_setStream_self ..),
      fun m hm => core_setCore_ne _ _ _ hm, rfl⟩

end Sys2Proof.Machine
end

section
/-! Concrete inputs that meet the hypotheses of O18, O22 and O25, with what the statements then say of them. -/

-- One theorem after the other: each that waits for the kernel's part of a `decide` would hold a thread of its own.
set_option Elab.async false

namespace Sys2Proof.Machine

/-! ### O18 -/

/-- A GATHER_ROWS in flight of one bag with row 3, its list landed, into host memory at 8,192 and its status at 12,288. -/
def rowsTask : TaskRun := { TaskRun.start 0
  (slice [2, 0, 0, 0, 0, 0, 0, 0, 0, 0, 0, 0x80, 0, 0, 0, 0, 1, 0, 0, 0, 1, 0, 0, 0, 0, 0x10, 0, 0, 0, 0, 0, 0,
    0, 0, 0, 0, 0, 0, 0, 0, 0, 0, 0, 0, 0, 0, 0, 0, 0, 0x20, 0, 0, 0, 0, 0, 0, 0, 0x30] 0 64) 0 none with
  land := [(landKey 4096 8, .data [3, 0, 0, 0, 0, 0, 0, 0])] }

/-- A device whose stream 0 of PF0 runs that task with a token, where these reads of it have returned, with these tables and
cores. -/
def gathering (tables : Tab Table) (cores : Tab CoreSt) (returned : List Nat) : State := { State.reset with
  tables := tables, cores := cores
  streams := [(0, { Stream.idle with
    slot := some (0, 0), task := some { rowsTask with returned := returned }, level := 1 })] }

/-- The table that the task names, in page 2000. -/
def gatheredTables : Tab Table := [(0x80000000, placedTable)]

/-- The bags and the reads of a gather that is evaluated whole. -/
def GOut.whole : GOut → Option (List BagOut × List Acc)
  | .fin bags none tr => some (bags, tr)
  | _ => none

theorem GOut.eq_of_whole {o : GOut} {bags : List BagOut} {tr : List Acc} (h : o.whole = some (bags, tr)) :
    o = .fin bags none tr := by
  unfold GOut.whole at h
  split at h
  · obtain ⟨rfl, rfl⟩ := Prod.mk.inj (Option.some.inj h)
    rfl
  · exact absurd h nofun

/-- What the bag comes to: row 3 reads zero, and one row is pooled. -/
def rowBag : BagOut := ⟨[.host 8192 (List.replicate 64 0), .host 12288 [1, 0, 0, 0, 0, 0, 0, 0]], 1, 0, false, false, false,
  false, []⟩

theorem gatherEval_rowsTask : gatherEval (taskCtx (gathering gatheredTables [] []) 0 rowsTask) placedTable rowsTask.desc none =
    .fin [rowBag] none [⟨131072192, 64⟩] :=
  GOut.eq_of_whole (by decide +kernel)

/-- The row and its status are written, and the record counts one bag and one row. -/
theorem gatherRows_gathering : ∃ u r, exec (.gatherRows 0) (gathering gatheredTables [] []) = .next u ∧ Ended u 0 r ∧
    r.status = 0 ∧ r.count = 1 ∧ r.coord = 1 ∧
    u.hif.writes = [⟨0, 8192, List.replicate 64 0⟩, ⟨0, 12288, [1, 0, 0, 0, 0, 0, 0, 0]⟩] := by
  obtain ⟨hends, -⟩ := gatherTaskEnds (gathering gatheredTables [] []) 0 2 _ rowsTask (.inr ⟨rfl, rfl⟩) (by decide +kernel)
  obtain ⟨u, r, hexec, hended, hstatus, hcount, hcoord, -, -, -, -, hwrites, -⟩ := hends placedTable [rowBag] _
    (by decide +kernel) gatherEval_rowsTask (Nat.le_of_ble_eq_true (by decide +kernel))
  exact ⟨u, r, hexec, hended, hstatus, hcount.trans (by decide +kernel), hcoord, hwrites⟩

/-- Without the table the task is denied. -/
theorem gatherRows_denied : ∃ u, exec (.gatherRows 0) (gathering [] [] []) = .next u ∧
    Ended u 0 (Rec.abort 0x11 1 0 0 0) ∧ u.hif.writes = [] := by
  obtain ⟨-, hdenied⟩ := gatherTaskEnds (gathering [] [] []) 0 2 _ rowsTask (.inr ⟨rfl, rfl⟩) (by decide +kernel)
  obtain ⟨u, hexec, hended, hwrites, -⟩ := hdenied (by decide +kernel)
  exact ⟨u, hexec, hended, hwrites⟩

/-! ### O22 -/

/-- A COPY in flight of the 64 bytes at the start of the buffer window, or of a record of the IN chain, between ends of these
spaces. -/
def copyTask (ends : Byte) (land : Tab HostStatus) : TaskRun := { TaskRun.start 0
  (slice [8, 0, 0, 0, 0, 0, 0, 0, ends, 0, 16, 0, 0, 0, 0, 0, 0, 0, 0, 0, 0, 0, 0, 0x80] 0 64) 0 none with land := land }

/-- A device whose stream 0 of partition 0 runs that task, page 2000 its window and queue 0x200 the chain that STR_CHAIN
names. -/
def copyingChain (chain : W32) (t : TaskRun) : State := setEffective { galleyThree 2 [3] with
  pages := [(2000, .buffer 0 0)]
  streams := [(0, { Stream.idle with slot := some (1, 0), task := some t, level := 1 })]
  quo := [(0, ⟨10, 10, 3, false⟩)] } (slotKey 1 0 0x38) chain

/-- The value and the reads of an evaluation that is complete. -/
def Ev.complete {α : Type} : Ev α → Option (α × List Acc)
  | .ok a tr => some (a, tr)
  | _ => none

theorem Ev.eq_of_complete {α : Type} {x : Ev α} {a : α} {tr : List Acc} (h : x.complete = some (a, tr)) : x = .ok a tr := by
  unfold Ev.complete at h
  split at h
  · obtain ⟨rfl, rfl⟩ := Prod.mk.inj (Option.some.inj h)
    rfl
  · exact absurd h nofun

/-- 64 bytes of zero, unmarked. -/
def zeroBytes : List PB := List.replicate 64 ⟨0, false⟩

/-- Out of the window into host memory: one write. -/
theorem copy_memory : ∃ u r, exec (.copy 0) (copyingChain 0 (copyTask 0 [])) = .next u ∧ Ended u 0 r ∧ r.count = 1 ∧
    r.status = 0 ∧ u.hif.writes = [⟨1, 0, List.replicate 64 0⟩] := by
  obtain ⟨hmemory, -⟩ := copyAndHintEnd (copyingChain 0 (copyTask 0 [])) 0 (copyTask 0 []) _ rfl
  obtain ⟨u, r, hexec, hended, hcount, -, hstatus, hwrites⟩ := hmemory zeroBytes [.host 0 (List.replicate 64 0)]
    [⟨2000 * 65536, 64⟩] (by decide +kernel) (by decide +kernel) (by decide +kernel) (by decide +kernel) (by decide +kernel)
    (Ev.eq_of_complete (by decide +kernel)) (Nat.le_of_ble_eq_true (by decide +kernel))
  exact ⟨u, r, hexec, hended, hcount.trans (by decide +kernel), hstatus.trans (by decide +kernel), hwrites⟩

/-- What linking the element into the OUT chain comes to. -/
def linked : Bool × State :=
  linkRecord (readied (copyingChain 0x1000000 (copyTask 12 [])) 0 (copyTask 12 []) false [⟨2000 * 65536, 64⟩]).2 0x200 zeroBytes

theorem linked_spec : linked = (true, linked.2) ∧ (stream linked.2 0).task = some (copyTask 12 []) := by
  have hlinked : linked.1 = true := by decide +kernel
  exact ⟨Prod.fst_eq_iff.1 hlinked, by decide +kernel⟩

/-- Into the OUT chain: the record takes the granted cell. -/
theorem copy_toChain : ∃ u r, exec (.copy 0) (copyingChain 0x1000000 (copyTask 12 [])) = .next u ∧ Ended u 0 r ∧
    r.count = 1 ∧ r.status = 0 := by
  obtain ⟨-, hchain, -⟩ := copyAndHintEnd (copyingChain 0x1000000 (copyTask 12 [])) 0 (copyTask 12 []) _ rfl
  obtain ⟨hlinked, htask⟩ := linked_spec
  obtain ⟨u, r, hexec, hended, hcount, hstatus⟩ := hchain 0 zeroBytes [⟨2000 * 65536, 64⟩] linked.2
    (by decide +kernel) (by decide +kernel) (by decide +kernel) (by decide +kernel) (by decide +kernel) (by decide +kernel)
    (by decide +kernel) (Ev.eq_of_complete (by decide +kernel)) (Nat.le_of_ble_eq_true (by decide +kernel)) hlinked
    ⟨_, htask, rfl⟩
  exact ⟨u, r, hexec, hended, hcount.trans (by decide +kernel), hstatus.trans (by decide +kernel)⟩

/-- The task that has read the record of its IN chain: 64 bytes with their marks. -/
def recordHeld : TaskRun := copyTask 3 [(0, .data (List.replicate 128 0))]

/-- Out of the IN chain into host memory: one write. -/
theorem copy_fromChain : ∃ u r, exec (.copy 0) (copyingChain 0x100 recordHeld) = .next u ∧ Ended u 0 r ∧ r.count = 1 ∧
    u.hif.writes = [⟨1, 0, List.replicate 64 0⟩] := by
  obtain ⟨-, -, hchain, -⟩ := copyAndHintEnd (copyingChain 0x100 recordHeld) 0 recordHeld _ rfl
  obtain ⟨u, r, hexec, hended, hcount, hwrites⟩ := hchain 0 (List.replicate 128 0) [.host 0 (List.replicate 64 0)] []
    (by decide +kernel) (by decide +kernel) (by decide +kernel) (by decide +kernel) (by decide +kernel) (by decide +kernel)
    (by decide +kernel) (by decide +kernel) (by decide +kernel) (Ev.eq_of_complete (by decide +kernel))
  exact ⟨u, r, hexec, hended, hcount.trans (by decide +kernel), hwrites⟩

/-- Out of a table that is not there: denied. -/
theorem copy_denied : ∃ u r, exec (.copy 0) (copyingChain 0 (copyTask 1 [])) = .next u ∧ Ended u 0 r ∧ r.status = 0x11 ∧
    r.detail = 1 ∧ r.count = 0 := by
  obtain ⟨-, -, -, hdenied, -⟩ := copyAndHintEnd (copyingChain 0 (copyTask 1 [])) 0 (copyTask 1 []) _ rfl
  exact hdenied 1 (by decide +kernel) (by decide +kernel)

/-- A PREFETCH_HINT in flight of the 64 bytes at 4,096 of host memory, to hold them for 5 us. -/
def hintTask : TaskRun :=
  TaskRun.start 0 (slice [10, 0, 0, 0, 0, 0, 0, 0, 0, 0, 16, 0, 5, 0, 0, 0, 0, 0x10] 0 64) 0 none

/-- A device whose stream 0 of PF0 runs it, with ATS as given and these translations. -/
def hinting (on : Bool) (ats : Tab Bool) : State := { State.reset with
  hif := { State.reset.hif with atsEnable := [(0, on)], ats := ats }
  streams := [(0, { Stream.idle with slot := some (0, 0), task := some hintTask })] }

/-- Without ATS the hint ends, and holds the page. -/
theorem prefetchHint_untranslated : ∃ u, exec (.prefetchHint 0) (hinting false []) = .next u ∧
    Ended u 0 (Rec.ok 1 0 (2 ^ 64 - 1)) ∧ (stream u 0).holdUntil = 5 * usT := by
  obtain ⟨-, -, -, -, hnone, -⟩ := copyAndHintEnd (hinting false []) 0 hintTask _ rfl
  obtain ⟨u, hexec, hended, hhold, -⟩ := hnone (by decide +kernel) (.inr (by decide +kernel))
  have hsize : (patternOf hintTask.desc).size = 1 := by decide +kernel
  exact ⟨u, hexec, hsize ▸ hended, hhold.trans (by decide +kernel)⟩

/-- With the page refused the hint ends with one refusal. -/
theorem prefetchHint_refused : ∃ u r, exec (.prefetchHint 0) (hinting true [(1, false)]) = .next u ∧ Ended u 0 r ∧
    r.status = 0 ∧ r.result = 1 := by
  obtain ⟨-, -, -, -, -, hanswered, -⟩ := copyAndHintEnd (hinting true [(1, false)]) 0 hintTask _ rfl
  obtain ⟨u, r, hexec, hended, hstatus, -, hresult, -⟩ := hanswered _ (by decide +kernel) (by decide +kernel)
    (by decide +kernel) (by decide +kernel) rfl
  exact ⟨u, r, hexec, hended, hstatus, hresult.trans (by decide +kernel)⟩

/-- With no answer yet the translation is asked for. -/
theorem prefetchHint_asks : ∃ u x, exec (.prefetchHint 0) (hinting true []) = .next u ∧ (stream u 0).task = some x ∧
    x.done = none ∧ (0, 1) ∈ u.hif.atsAsked := by
  obtain ⟨-, -, -, -, -, -, hasks⟩ := copyAndHintEnd (hinting true []) 0 hintTask _ rfl
  exact hasks (by decide +kernel) (by decide +kernel) (by decide +kernel) 0 (by decide +kernel) 1 (by decide +kernel)
    (by decide +kernel)

/-! ### O25 -/

/-- The one segment of the gather task: its one read. -/
def rowSeg : Seg := ⟨0, 0, 0, 1, false⟩

/-- A free core takes the segment. -/
theorem fillHalfGrant_gathering : ∃ u, exec (.fillHalfGrant 0) (gathering gatheredTables [] []) = .next u ∧
    (core u 0).fill = some rowSeg ∧ (stream u 0).task = some { rowsTask with granted := 1 } := by
  obtain ⟨hgrant, -⟩ := coreHalves (gathering gatheredTables [] []) 0 (by decide +kernel)
  obtain ⟨htaken, -⟩ := hgrant rfl (by decide +kernel)
  obtain ⟨u, hexec, hfill, htask, -⟩ := htaken rowsTask rowSeg (by decide +kernel)
  exact ⟨u, hexec, hfill, htask⟩

/-- With nothing pending it stays free. -/
theorem fillHalfGrant_denied : exec (.fillHalfGrant 0) (gathering [] [] []) = .next (gathering [] [] []) := by
  obtain ⟨hgrant, -⟩ := coreHalves (gathering [] [] []) 0 (by decide +kernel)
  obtain ⟨-, hnone⟩ := hgrant rfl (by decide +kernel)
  exact hnone (by decide +kernel)

/-- The segment swaps into the work half once its read has returned, and not before. -/
theorem halfSwap_gathering :
    (∃ u, exec (.halfSwap 0) (gathering gatheredTables [(0, ⟨none, some rowSeg, false⟩)] [0]) = .next u ∧
      core u 0 = ⟨some rowSeg, none, false⟩) ∧
    exec (.halfSwap 0) (gathering gatheredTables [(0, ⟨none, some rowSeg, false⟩)] []) =
      .next (gathering gatheredTables [(0, ⟨none, some rowSeg, false⟩)] []) := by
  obtain ⟨-, hswap, -⟩ := coreHalves (gathering gatheredTables [(0, ⟨none, some rowSeg, false⟩)] [0]) 0 (by decide +kernel)
  obtain ⟨-, -, hstays, -⟩ := coreHalves (gathering gatheredTables [(0, ⟨none, some rowSeg, false⟩)] []) 0 (by decide +kernel)
  obtain ⟨u, hexec, hcore, -⟩ := hswap rowSeg (by decide +kernel) (by decide +kernel) (.inl (by decide +kernel))
  exact ⟨⟨u, hexec, hcore⟩, hstays (.inr ⟨rowSeg, by decide +kernel, by decide +kernel⟩)⟩

/-- The core at work on the task's only segment hands on, once. -/
theorem chasePass_gathering : ∃ u, exec (.chasePass 0) (gathering gatheredTables [(0, ⟨some rowSeg, none, false⟩)] [0]) =
    .next u ∧ (core u 0).handed = true ∧ (stream u 0).task = some { rowsTask with returned := [0], passes := 1 } := by
  obtain ⟨-, -, -, hpass⟩ := coreHalves (gathering gatheredTables [(0, ⟨some rowSeg, none, false⟩)] [0]) 0 (by decide +kernel)
  obtain ⟨u, hexec, hcore, htask, -⟩ := hpass rowSeg { rowsTask with returned := [0] } (by decide +kernel) (by decide +kernel)
    (by decide +kernel) (by decide +kernel)
  exact ⟨u, hexec, (congrArg CoreSt.handed hcore :), htask⟩

end Sys2Proof.Machine
end

section
/-! O19: the end of a SCATTER_ADD (R344 to R348, Table 12.5). -/

namespace Sys2Proof.Machine

/-- A plan without reads goes on, whatever the tokens. -/
theorem runPlan_noReads (s : State) (i : Nat) (t : TaskRun) (go : TaskRun → State → State) :
    runPlan s i t (.fin false [] go) = go (readied s i t false []).1 (readied s i t false []).2 :=
  runPlan_admitted (by simp [ReadsAdmitted, readsOf]) false go

/-- A task keeps its descriptor as its reads are issued. -/
theorem desc_readied (s : State) (i : Nat) (t : TaskRun) (note : Bool) (tr : List Acc) :
    (readied s i t note tr).1.desc = t.desc := rfl

/-! ### The ledger-wait timer (R347) -/

section
variable (s : State) (i : Nat) (t : TaskRun)

/-- Stopping the timer leaves the rest of the task as it is. -/
theorem stopWait_task : (stopWait s i t).1 = { t with waitAt := none } := by
  unfold stopWait
  split
  · rfl
  · rename_i hnone
    rw [← hnone]

/-- So does bringing it up to date. -/
theorem saTimer_task : ∃ w, (saTimer s i t).1 = { t with waitAt := w } := by
  unfold saTimer
  simp only []
  split
  · exact ⟨_, rfl⟩
  · exact ⟨none, stopWait_task s i t⟩

/-! ### The record of a SCATTER_ADD (Table 12.5) -/

/-- A record with what the task keeps of its bags: those dropped, poison and saturation. -/
def withBags (r : Rec) : Rec :=
  let r := { r with
    dropped := r.dropped || decide (0 < t.result), poison := r.poison || t.poison, sat := t.sat, result := sat32 t.result }
  if r.status = 0 && r.poison then { r with status := 2 } else r

theorem ended_endScatter (r : Rec) : Ended (endScatter s i t r) i (withBags t r) := by
  have hrec : withBags (stopWait (unclaimAll s i t) i t).1 r = withBags t r := by
    rw [stopWait_task]
    rfl
  rw [← hrec]
  exact ended_endTask ..

/-- Of a task that passed every bag, COUNT is the bags applied, COORD the entries pooled and RESULT those dropped. -/
def scatterRec : Rec := { Rec.ok t.progress (sat32 t.result) t.total with
  status := if t.poison then 2 else 0, poison := t.poison, sat := t.sat, dropped := decide (0 < t.result) }

theorem withBags_ok : withBags t (Rec.ok t.progress 0 t.total) = scatterRec t := by
  cases hpoison : t.poison <;> simp [withBags, scatterRec, Rec.ok, hpoison]

end

/-! ### What the row goes on to -/

section
variable {s : State} {i : Nat} {t : TaskRun}

theorem saRun_running (h : runningTask s i 3 = some t) : saRun s i = runPlan s i t (saPlan s i t) := by
  simp only [saRun, h]

/-- A task whose handle names no table in reach is denied (R227). -/
theorem saPlan_unreachable (h : tableFor s (streamPart s i) (t.u32 8) = none) :
    saPlan s i t = .fin false [] (fun t s => endScatter s i t (Rec.abort 0x11 1 0 0 0)) := by
  simp only [saPlan, h]

variable {tb : Table} (htable : tableFor s (streamPart s i) (t.u32 8) = some tb)
include htable

/-- So is one whose handle names a shared table (R178). -/
theorem saPlan_shared (h : isShared s (streamPart s i) (t.u32 8) = true) :
    saPlan s i t = .fin false [] (fun t s => endScatter s i t (Rec.abort 0x11 2 0 0 0)) := by
  simp only [saPlan, htable, h, if_true]

/-- Bags that are all staged are claimed and applied by rounds, which end the task or leave it waiting (R345). -/
theorem saPlan_staged {bags : List SaBag} {tr : List Acc} (hown : isShared s (streamPart s i) (t.u32 8) = false)
    (heval : saEval (taskCtx s i t) tb t.desc = .staged bags none tr) :
    ∃ go, saPlan s i t = .fin true tr go ∧ ∀ x v t' s', x.desc = t.desc →
      saRounds i tb (sBody t.desc) bags (bags.length + 1) x v = (t', s') →
      saFailed t' Exch.denied = none → saFailed t' (fun e => e.why = 1 || e.why = 2) = none →
      go x v = if bags.length ≤ t'.progress then endScatter s' i t' (Rec.ok t'.progress 0 t'.total)
        else setTask (saTimer s' i t').2 i (saTimer s' i t').1 := by
  simp only [saPlan, htable, hown, heval, Bool.false_eq_true, if_false]
  refine ⟨_, rfl, fun x v t' s' hdesc hrounds hdenied hlost => ?_⟩
  simp only [hdesc, hrounds, hdenied, hlost]

end

/-- Settles O19: the rounds say where the task stands, its record is that of the task as it then is, and a task that waits
keeps all but its timer. -/
theorem scatterTaskEnds : Obligations.ScatterTaskEnds := by
  intro s i t hrun
  have hexec : exec (.scatterAdd i) s = .next (runPlan s i.val t (saPlan s i.val t)) :=
    congrArg Host.Outcome.next (saRun_running hrun)
  rw [hexec]
  refine ⟨fun tb bags tr t' s' htable hown heval hreads hrounds hdenied hlost => ?_, fun hnone => ?_,
    fun tb htable hshared => ?_⟩
  · obtain ⟨go, hplan, hgo⟩ := saPlan_staged htable hown heval
    rw [hplan, runPlan_admitted hreads, hgo _ _ t' s' (desc_readied ..) hrounds hdenied hlost]
    refine ⟨fun hall => ?_, fun hmore => ?_⟩
    · rw [if_pos hall]
      exact ⟨_, _, rfl, withBags_ok t' ▸ ended_endScatter .., rfl, rfl, rfl, rfl, rfl, rfl, rfl⟩
    · obtain ⟨w, hw⟩ := saTimer_task s' i.val t'
      rw [if_neg (Nat.not_le.2 hmore), hw]
      exact ⟨_, _, rfl, congrArg Stream.task (stream_setStream_self ..), rfl, rfl⟩
  · rw [saPlan_unreachable hnone, runPlan_noReads]
    exact ⟨_, _, rfl, ended_endScatter .., rfl, rfl, rfl⟩
  · rw [saPlan_shared htable hshared, runPlan_noReads]
    exact ⟨_, _, rfl, ended_endScatter .., rfl, rfl, rfl⟩

end Sys2Proof.Machine
end

section
/-! O20: the ends of a FOLD (R351 to R354, R359). -/

namespace Sys2Proof.Machine

/-! ### The record of a FOLD_APPLY over every slot (Table 12.5) -/

/-- COUNT is the slots, COORD the rows written and the entries cleared, and RESULT the rows discarded. -/
def applyRec (n : Nat) (a : FoldAcc) : Rec := { Rec.ok n (sat32 a.disc) (a.rows + 2 ^ 32 * a.cleared) with
  status := if a.poison then 2 else 0, poison := a.poison, sat := a.sat }

/-- What is counted and posted before the record stands in the state that ends. -/
theorem endApply_whole (s : State) (i : Nat) (t : TaskRun) (h n : Nat) (a : FoldAcc) :
    ∃ v, endApply s i t h n a none = afterFold (endTask v i t (applyRec n a)) h := ⟨_, rfl⟩

/-- No table is held any more by a FOLD of a stream whose task has ended (R352). -/
theorem fold_endTask {s : State} {i : Nat} {t : TaskRun} {r : Rec} {h : Nat} {x : Table}
    (hx : lk (endTask s i t r).tables h = some x) : x.fold ≠ some i := by
  obtain ⟨e, -, he⟩ := List.mem_map.1 (lk_mem _ _ _ hx : (h, x) ∈ List.map _ _)
  split at he
  · obtain ⟨-, rfl⟩ := Prod.mk.inj he
    split <;> nofun
  · rename_i hother
    obtain rfl : e = (h, x) := he
    simpa using hother

/-! ### The work of each action -/

section
variable {s : State} {i : Nat} {t : TaskRun} {tb : Table}

/-- Where every slot can be read and its reads are admitted, every slot is folded, in order (R353). -/
theorem foldNow_whole (hneeds : foldNeeds (taskCtx s i t) tb = ([], none))
    (hreads : ReadsAdmitted s i t (foldTrace (taskCtx s i t) tb)) :
    ∃ v, foldNow s i t tb = afterFold (endTask v i (readied s i t false (foldTrace (taskCtx s i t) tb)).1
      (applyRec (2 ^ tb.ledgerLog2) (foldSlots (taskCtx s i t) (fBody t.desc) tb.handle (2 ^ tb.ledgerLog2)
        (⟨0, 0, 0, 0, false, false⟩, (readied s i t false (foldTrace (taskCtx s i t) tb)).2)).1)) tb.handle := by
  simp only [foldNow, hneeds]
  rw [runPlan_admitted hreads]
  exact endApply_whole ..

/-! ### A FOLD up to its work (R351, R352) -/

/-- A ledger as a FOLD of a stream has closed its gate. -/
def Table.heldBy (tb : Table) (i : Nat) : Table := { tb with fold := some i, gateClosed := true }

variable {act : Nat} {go : State → Nat → TaskRun → Table → State} (hrun : runningTask s i 4 = some t)
  (hact : t.u32 0x0C % 4 = act)
include hrun hact

/-- A handle that names no table in reach is denied (R227). -/
theorem foldRun_unreachable (h : tableFor s (streamPart s i) (t.u32 8) = none) :
    foldRun s i act go = endTask s i t (Rec.abort 0x11 1 0 0 0) := by
  simp only [foldRun, hrun, hact, h, ne_eq, not_true_eq_false, if_false]

variable (htable : tableFor s (streamPart s i) (t.u32 8) = some tb)
include htable

/-- So is one of a shared table (R178). -/
theorem foldRun_shared (h : isShared s (streamPart s i) (t.u32 8) = true) :
    foldRun s i act go = endTask s i t (Rec.abort 0x11 2 0 0 0) := by
  simp only [foldRun, hrun, hact, htable, h, ne_eq, not_true_eq_false, if_false, if_true]

variable (hown : isShared s (streamPart s i) (t.u32 8) = false) (hplaced : tb.placed = true)
  (hcode : requantizing s (t.u32 8) = false)
include hown hplaced hcode

/-- While another stream's FOLD holds the ledger the task waits. -/
theorem foldRun_held {j : Nat} (hfold : tb.fold = some j) (hj : j ≠ i) :
    foldRun s i act go = setTask s i { t with waiting := true } := by
  simp [foldRun, hrun, hact, htable, hown, hplaced, hcode, hfold, hj]

variable (hfree : tb.fold = none)
include hfree

/-- The gate closes; while a bag claims the ledger that is all. -/
theorem foldRun_claimed (hclaims : tb.claims ≠ []) : foldRun s i act go = setTable s (tb.heldBy i) := by
  simp [foldRun, hrun, hact, htable, hown, hplaced, hcode, hfree, hclaims, Table.heldBy]

/-- With no claim outstanding the work follows. -/
theorem foldRun_unclaimed (hclaims : tb.claims = []) :
    foldRun s i act go = go (setTable s (tb.heldBy i)) i { t with waiting := false } (tb.heldBy i) := by
  simp [foldRun, hrun, hact, htable, hown, hplaced, hcode, hfree, hclaims, Table.heldBy]

end

/-- The rows of FOLD differ in their action and its work. -/
theorem exec_fold {i : SId} {act : Nat} {c : Instr} (h : act = 0 ∧ c = .foldApply i ∨ act = 1 ∧ c = .foldDiscard i)
    (s : State) : exec c s = .next (foldRun s i.val act (if act = 0 then foldNow else discardNow)) := by
  rcases h with ⟨rfl, rfl⟩ | ⟨rfl, rfl⟩ <;> rfl

/-- Settles O20: a FOLD comes to one of its outcomes by the state of the ledger that it names, and the work of each action
ends the task before the gate's waiters are told. -/
theorem foldTaskEnds : Obligations.FoldTaskEnds := by
  intro s i act c t hrow hrun hact
  simp only [exec_fold hrow]
  refine ⟨?_, ?_, ?_, ?_⟩
  · rintro tb g htable hown hplaced hcode hfree rfl
    refine ⟨fun hclaims => ?_, ?_, ?_⟩
    · rw [foldRun_claimed hrun hact htable hown hplaced hcode hfree hclaims]
      rfl
    · rintro hclaims rfl hneeds hreads
      obtain ⟨v, hv⟩ := foldNow_whole hneeds hreads
      rw [foldRun_unclaimed hrun hact htable hown hplaced hcode hfree hclaims, if_pos rfl]
      exact ⟨_, _, _, congrArg _ hv, rfl, rfl, ended_endTask .., fun _ _ => fold_endTask⟩
    · rintro hclaims rfl
      rw [foldRun_unclaimed hrun hact htable hown hplaced hcode hfree hclaims, if_neg Nat.one_ne_zero]
      exact ⟨_, _, _, rfl, rfl, rfl, rfl, ended_endTask .., fun _ _ => fold_endTask⟩
  · intro tb j htable hown hplaced hcode hfold hj
    rw [foldRun_held hrun hact htable hown hplaced hcode hfold hj]
    exact ⟨_, rfl, congrArg Stream.task (stream_setStream_self ..), fun _ hk => stream_setStream_ne (h := hk) .., rfl⟩
  · intro hnone
    rw [foldRun_unreachable hrun hact hnone]
    exact ⟨_, rfl, ended_endTask ..⟩
  · intro tb htable hshared
    rw [foldRun_shared hrun hact htable hshared]
    exact ⟨_, rfl, ended_endTask ..⟩

end Sys2Proof.Machine
end

section
/-! Concrete inputs that meet the hypotheses of O19 and O20, with what the statements then say of them. -/

-- One theorem after the other: each that waits for the kernel's part of a `decide` would hold a thread of its own.
set_option Elab.async false

namespace Sys2Proof.Machine

/-- The table of eight rows, trained by SGD, with a ledger of 1,024 slots in pages 2001 and 2002. -/
def trainTable : Table := { placedTable with train := 1, frac := 16, ledgerLog2 := 10, ledger := [2001, 2002] }

/-- A device with these tables, whose stream 0 of a function runs this task. -/
def trainingBy (f : Nat) (tables : Tab Table) (x : TaskRun) : State := { State.reset with
  tables := tables, streams := [(0, { Stream.idle with slot := some (f, 0), task := some x })] }

/-- A stream of PF0 with a table of the driver domain. -/
def training (t : Table) (x : TaskRun) : State := trainingBy 0 [(0x80000000, t)] x

/-- A stream of VF 1, into whose partition that table is mapped. -/
def trainingShared (x : TaskRun) : State := trainingBy 1 [(0x80000000, { trainTable with mapped := [0] })] x

/-- A stream of PF0 with no table. -/
def trainingNone (x : TaskRun) : State := trainingBy 0 [] x

/-! ### O19 -/

/-- Sixteen gradients of 1.0 in fp32. -/
def onesGrad : List Byte := (List.replicate 16 [0, 0, 0x80, 0x3F]).flatten

/-- A SCATTER_ADD in flight of one bag with row 3, whose list and gradient have landed. -/
def scatterTask : TaskRun := { TaskRun.start 0
  (slice [3, 0, 0, 0, 0, 0, 0, 0, 0, 0, 0, 0x80, 0, 0, 0, 0, 1, 0, 0, 0, 1, 0, 0, 0, 0, 0x10, 0, 0, 0, 0, 0, 0,
    0, 0, 0, 0, 0, 0, 0, 0, 0, 0, 0, 0, 0, 0, 0, 0, 0, 0x20] 0 64) 0 none with
  land := [(landKey 4096 8, .data [3, 0, 0, 0, 0, 0, 0, 0]), (landKey 8192 64, .data onesGrad)] }

/-- The bag as it is staged. -/
def scatterBag : SaBag := ⟨[(0, [⟨0, 3, 0⟩])], 1, 0, onesGrad, false⟩

/-- The bags and the reads of a scatter that is staged whole. -/
def SOut.whole : SOut → Option (List SaBag × List Acc)
  | .staged bags none tr => some (bags, tr)
  | _ => none

theorem SOut.eq_of_whole {o : SOut} {bags : List SaBag} {tr : List Acc} (h : o.whole = some (bags, tr)) :
    o = .staged bags none tr := by
  unfold SOut.whole at h
  split at h
  · obtain ⟨rfl, rfl⟩ := Prod.mk.inj (Option.some.inj h)
    rfl
  · exact absurd h nofun

/-- Where the rounds bring the task with this table. -/
def scatterRounds (t : Table) : TaskRun × State :=
  saRounds 0 t (sBody scatterTask.desc) [scatterBag] ([scatterBag].length + 1)
    (readied (training t scatterTask) 0 scatterTask true []).1 (readied (training t scatterTask) 0 scatterTask true []).2

/-- The bag is claimed, applied and passed. -/
theorem scatterRounds_trainTable :
    scatterRounds trainTable = ({ scatterTask with progress := 1, total := 1 }, (scatterRounds trainTable).2) :=
  Prod.fst_eq_iff.1 (by decide +kernel)

/-- The record counts one bag and one entry. -/
theorem scatterAdd_applied : ∃ u r, exec (.scatterAdd 0) (training trainTable scatterTask) = .next u ∧ Ended u 0 r ∧
    r.status = 0 ∧ r.count = 1 ∧ r.coord = 1 ∧ r.result = 0 := by
  obtain ⟨hends, -⟩ := scatterTaskEnds (training trainTable scatterTask) 0 scatterTask (by decide +kernel)
  obtain ⟨happlied, -⟩ := hends trainTable [scatterBag] [] { scatterTask with progress := 1, total := 1 }
    (scatterRounds trainTable).2 (by decide +kernel) (by decide +kernel) (SOut.eq_of_whole (by decide +kernel))
    (by simp [ReadsAdmitted, readsOf]) scatterRounds_trainTable (by decide +kernel) (by decide +kernel)
  obtain ⟨u, r, hexec, hended, hstatus, hcount, hcoord, -, -, -, hresult⟩ := happlied (by decide +kernel)
  exact ⟨u, r, hexec, hended, hstatus, hcount, hcoord, hresult⟩

/-- The table while a FOLD of stream 1 has closed its gate. -/
def gatedTable : Table := trainTable.heldBy 1

/-- The claim of the bag, which waits for the gate. -/
def waitingExch : Exch :=
  ⟨0, 0, .saClaim (saClaimBody gatedTable (sBody scatterTask.desc) scatterBag [⟨0, 3, 0⟩] 0), 0, [.saWaiting 0 2], 3⟩

theorem scatterRounds_gatedTable :
    scatterRounds gatedTable = ({ scatterTask with ex := [(saKey 0 0, waitingExch)] }, (scatterRounds gatedTable).2) :=
  Prod.fst_eq_iff.1 (by decide +kernel)

/-- As the claim waits, so does the task. -/
theorem scatterAdd_waits : ∃ u x, exec (.scatterAdd 0) (training gatedTable scatterTask) = .next u ∧
    (stream u 0).task = some x ∧ x.progress = 0 ∧ x.done = none := by
  obtain ⟨hends, -⟩ := scatterTaskEnds (training gatedTable scatterTask) 0 scatterTask (by decide +kernel)
  obtain ⟨-, hwaits⟩ := hends gatedTable [scatterBag] [] { scatterTask with ex := [(saKey 0 0, waitingExch)] }
    (scatterRounds gatedTable).2 (by decide +kernel) (by decide +kernel) (SOut.eq_of_whole (by decide +kernel))
    (by simp [ReadsAdmitted, readsOf]) scatterRounds_gatedTable (by decide +kernel) (by decide +kernel)
  exact hwaits (by decide +kernel)

/-- Without the table, and on a shared one, the task is denied. -/
theorem scatterAdd_denied :
    (∃ u r, exec (.scatterAdd 0) (trainingNone scatterTask) = .next u ∧ Ended u 0 r ∧ r.status = 0x11 ∧ r.detail = 1 ∧
      r.count = 0) ∧
    ∃ u r, exec (.scatterAdd 0) (trainingShared scatterTask) = .next u ∧ Ended u 0 r ∧ r.status = 0x11 ∧ r.detail = 2 ∧
      r.count = 0 := by
  obtain ⟨-, hnone, -⟩ := scatterTaskEnds (trainingNone scatterTask) 0 scatterTask (by decide +kernel)
  obtain ⟨-, -, hshared⟩ := scatterTaskEnds (trainingShared scatterTask) 0 scatterTask (by decide +kernel)
  exact ⟨hnone (by decide +kernel), hshared { trainTable with mapped := [0] } (by decide +kernel) (by decide +kernel)⟩

/-! ### O20 -/

/-- A FOLD in flight of that table with learning rate 1.0: ACTION 0 applies, 1 discards. -/
def foldTask (action : Byte) : TaskRun := TaskRun.start 0
  (slice [4, 0, 0, 0, 0, 0, 0, 0, 0, 0, 0, 0x80, action, 0, 0, 0, 0, 0, 0x80, 0x3F] 0 64) 0 none

/-- The table with a bag claimed. -/
def claimedTable : Table := { trainTable with claims := [⟨0, 0, []⟩] }

/-- While a bag claims the ledger, a FOLD closes the gate and waits. -/
theorem foldApply_claimed : exec (.foldApply 0) (training claimedTable (foldTask 0)) =
    .next (setTable (training claimedTable (foldTask 0)) (claimedTable.heldBy 0)) := by
  obtain ⟨hfold, -⟩ := foldTaskEnds (training claimedTable (foldTask 0)) 0 0 _ (foldTask 0) (.inl ⟨rfl, rfl⟩)
    (by decide +kernel) (by decide +kernel)
  obtain ⟨hclaimed, -⟩ := hfold claimedTable (claimedTable.heldBy 0) (by decide +kernel) (by decide +kernel) rfl
    (by decide +kernel) rfl rfl
  exact hclaimed nofun

/-- A FOLD_DISCARD clears the 1,024 slots. -/
theorem foldDiscard_training : ∃ u w n, exec (.foldDiscard 0) (training trainTable (foldTask 1)) = .next u ∧
    u = afterFold w trainTable.handle ∧ Ended w 0 (Rec.ok 1024 0 (2 ^ 32 * n)) := by
  obtain ⟨hfold, -⟩ := foldTaskEnds (training trainTable (foldTask 1)) 0 1 _ (foldTask 1) (.inr ⟨rfl, rfl⟩)
    (by decide +kernel) (by decide +kernel)
  obtain ⟨-, -, hdiscard⟩ := hfold trainTable _ (by decide +kernel) (by decide +kernel) rfl (by decide +kernel) rfl rfl
  obtain ⟨u, w, v, hexec, hu, -, -, hended, -⟩ := hdiscard rfl rfl
  exact ⟨u, w, _, hexec, hu, hended⟩

/-- A ledger cut to the one slot that holds row 3's gradients of 1.0, which the kernel folds in seconds. -/
def oneSlotTable : Table := { trainTable with ledgerLog2 := 0, ledger := [2001], used := 1 }

/-- That entry: its header, its magnitude and its accumulators. -/
def rowEntry : List Byte :=
  slice (leBytes 8 (3 + 2 ^ 40) ++ leBytes 8 65536 ++ (List.replicate 16 (leBytes 4 65536)).flatten) 0 128

/-- A device whose stream 0 folds it. -/
def foldingOne : State := ledWrite (training oneSlotTable (foldTask 0)) oneSlotTable 0 rowEntry false

/-- Whether nothing is missing and no slot's row faults. -/
def foldable : List Need × Option Stop → Bool
  | ([], none) => true
  | _ => false

theorem eq_of_foldable {x : List Need × Option Stop} (h : foldable x = true) : x = ([], none) := by
  unfold foldable at h
  split at h
  · rfl
  · exact absurd h nofun

/-- A FOLD_APPLY writes the row and clears its entry. -/
theorem foldApply_foldingOne : ∃ u w, exec (.foldApply 0) foldingOne = .next u ∧ u = afterFold w oneSlotTable.handle ∧
    Ended w 0 (Rec.ok 1 0 (1 + 2 ^ 32)) := by
  obtain ⟨hfold, -⟩ := foldTaskEnds foldingOne 0 0 _ (foldTask 0) (.inl ⟨rfl, rfl⟩) (by decide +kernel) (by decide +kernel)
  obtain ⟨-, happly, -⟩ := hfold oneSlotTable (oneSlotTable.heldBy 0) (by decide +kernel) (by decide +kernel) rfl
    (by decide +kernel) rfl rfl
  obtain ⟨u, w, a, hexec, hu, ha, hended, -⟩ := happly rfl rfl (eq_of_foldable (by decide +kernel))
    (Nat.le_of_ble_eq_true (by decide +kernel))
  obtain rfl : a = ⟨1, 1, 0, 0, false, false⟩ := ha.trans (by decide +kernel)
  exact ⟨u, w, hexec, hu, hended⟩

/-- While stream 1's FOLD holds the ledger, that of stream 0 waits. -/
theorem foldApply_held : ∃ u, exec (.foldApply 0) (training gatedTable (foldTask 0)) = .next u ∧
    (stream u 0).task = some { foldTask 0 with waiting := true } := by
  obtain ⟨-, hheld, -⟩ := foldTaskEnds (training gatedTable (foldTask 0)) 0 0 _ (foldTask 0) (.inl ⟨rfl, rfl⟩)
    (by decide +kernel) (by decide +kernel)
  obtain ⟨u, hexec, htask, -⟩ := hheld gatedTable 1 (by decide +kernel) (by decide +kernel) rfl (by decide +kernel) rfl
    (by decide)
  exact ⟨u, hexec, htask⟩

/-- Without the table, and on a shared one, a FOLD is denied. -/
theorem foldApply_denied :
    (∃ u, exec (.foldApply 0) (trainingNone (foldTask 0)) = .next u ∧ Ended u 0 (Rec.abort 0x11 1 0 0 0)) ∧
    ∃ u, exec (.foldApply 0) (trainingShared (foldTask 0)) = .next u ∧ Ended u 0 (Rec.abort 0x11 2 0 0 0) := by
  obtain ⟨-, -, hnone, -⟩ := foldTaskEnds (trainingNone (foldTask 0)) 0 0 _ (foldTask 0) (.inl ⟨rfl, rfl⟩)
    (by decide +kernel) (by decide +kernel)
  obtain ⟨-, -, -, hshared⟩ := foldTaskEnds (trainingShared (foldTask 0)) 0 0 _ (foldTask 0) (.inl ⟨rfl, rfl⟩)
    (by decide +kernel) (by decide +kernel)
  exact ⟨hnone (by decide +kernel), hshared { trainTable with mapped := [0] } (by decide +kernel) (by decide +kernel)⟩

end Sys2Proof.Machine
end

section
/-! O13: LCK_REQ on the register path (R418, Table 14.7). -/

namespace Sys2Proof.Machine

/-! ### The row -/

/-- A write of LCK_REQ by a function that is served acts at once, whatever its OP; beyond that it demands CORE (R57). -/
theorem exec_lckReq {s : State} {f : Fn} {v : W32} {c : Instr} (hserved : Served s f.val)
    (hrow : c = .lckReqAcquire f v ∧ bits v.toNat 17 16 = 1 ∨ c = .lckReqRelease f v ∧ bits v.toNat 17 16 = 2 ∨
      c = .lckReqWithdraw f v ∧ bits v.toNat 17 16 = 3) :
    ∃ p, exec c s = .next { lckWrite s f.val v with pwr := p } := by
  obtain ⟨hbar, hhalt⟩ := hserved
  have hreq : ∃ p, lckReq s f.val v = { lckWrite s f.val v with pwr := p } := by
    simp only [lckReq]
    split
    · exact ⟨_, rfl⟩
    · exact ⟨_, demandOn_frame ..⟩
  have hguard {op : Nat} (hop : bits v.toNat 17 16 = op) : lckRow op f v s = lckReq s f.val v := by
    simp [lckRow, hbar, hhalt, hop]
  obtain ⟨p, hp⟩ := hreq
  refine ⟨p, ?_⟩
  rcases hrow with ⟨rfl, hop⟩ | ⟨rfl, hop⟩ | ⟨rfl, hop⟩ <;> exact congrArg _ ((hguard hop).trans hp)

/-! ### What a write does, by its OP -/

/-- A write of LCK_REQ that sets no reserved bit and names a lock of the function's ranges. -/
def LckSound (s : State) (f : Nat) (v : W32) : Prop :=
  bits v.toNat 15 10 = 0 ∧ bits v.toNat 19 18 = 0 ∧ v.toNat / 2 ^ 23 = 0 ∧
    lockIn s (partOfFn f) (v.toNat % 1024) = true

/-- The function holds the lock of the write, or waits for it. -/
def lckHolds (s : State) (f : Nat) (v : W32) : Bool := (lockOf s (v.toNat % 1024)).holder == some (.reg f)
def lckWaits (s : State) (f : Nat) (v : W32) : Bool := (lockOf s (v.toNat % 1024)).waiters.any (·.who == .reg f)

theorem lckHolds_iff {s : State} {f : Nat} {v : W32} :
    lckHolds s f v = true ↔ (lockOf s (v.toNat % 1024)).holder = some (.reg f) := beq_iff_eq

theorem lckWaits_iff {s : State} {f : Nat} {v : W32} :
    lckWaits s f v = true ↔ ∃ w ∈ (lockOf s (v.toNat % 1024)).waiters, w.who = .reg f := by simp [lckWaits]

theorem not_lckWaits {s : State} {f : Nat} {v : W32} (h : ∀ w ∈ (lockOf s (v.toNat % 1024)).waiters, w.who ≠ .reg f) :
    ¬lckWaits s f v = true := fun hwaits =>
  let ⟨w, hw, hwho⟩ := lckWaits_iff.1 hwaits
  h w hw hwho

section
variable {s : State} {f : Nat} {v : W32}

/-- A bad write is refused, with one record. -/
theorem lckWrite_bad (h : ¬ LckSound s f v) :
    lckWrite s f v = postP (lckResult s f (v.toNat % 1024) 2) (partOfFn f) 0x0804 2 (v.toNat % 1024) 0 0 0 := by
  refine if_pos ?_
  simp only [LckSound, not_and_or] at h
  simpa [or_assoc] using h

variable (h : LckSound s f v)
include h

/-- A sound one passes the checks. -/
theorem lckSound_guard : (bits v.toNat 15 10 ≠ 0 || bits v.toNat 19 18 ≠ 0 || v.toNat / 2 ^ 23 ≠ 0 ||
    !lockIn s (partOfFn f) (v.toNat % 1024)) = false := by
  obtain ⟨hlow, hmid, hhigh, hin⟩ := h
  simp only [hlow, hmid, hhigh, hin]
  rfl

theorem lckWrite_acquire (hop : bits v.toNat 17 16 = 1) : lckWrite s f v =
    if lckHolds s f v = true ∨ lckWaits s f v = true then lckResult s f (v.toNat % 1024) 3
    else lckResult (queueLock s (v.toNat % 1024) (.reg f) (bits v.toNat 22 20)) f (v.toNat % 1024) 1 := by
  simp only [lckWrite, hop, lckSound_guard h, ← Bool.or_eq_true]
  rfl

theorem lckWrite_release (hop : bits v.toNat 17 16 = 2) : lckWrite s f v =
    if lckHolds s f v then lckResult (freeLock s (v.toNat % 1024)) f (v.toNat % 1024) 1
    else lckResult s f (v.toNat % 1024) 3 := by
  simp only [lckWrite, hop, lckSound_guard h]
  rfl

theorem lckWrite_withdraw (hop : bits v.toNat 17 16 = 3) : lckWrite s f v =
    if lckWaits s f v then lckResult (unqueueLock s (v.toNat % 1024) (· == .reg f)) f (v.toNat % 1024) 1
    else lckResult s f (v.toNat % 1024) 3 := by
  simp only [lckWrite, hop, lckSound_guard h]
  rfl

end

/-! ### What each outcome leaves -/

section
variable {s : State} {f j : Nat} {v : W32}

/-- An accepted request changes the lock it names and no other. -/
theorem lckWrite_accepted {x : LockSt} (p : Pwr) (h : lckWrite s f v = lckResult (setLock s j x) f j 1) :
    lockOf { lckWrite s f v with pwr := p } j = x ∧
    (∀ k, k ≠ j → lockOf { lckWrite s f v with pwr := p } k = lockOf s k) ∧
    lkD ({ lckWrite s f v with pwr := p } : State).hif.lckResult f 0 = BitVec.ofNat 32 (1 + 16 * j) ∧
    { lckWrite s f v with pwr := p } = { s with
      locks := (lckWrite s f v).locks
      hif := { s.hif with lckResult := (lckWrite s f v).hif.lckResult }
      pwr := p } := by
  rw [h]
  exact ⟨lockOf_setLock_self .., fun k hk => lockOf_setLock_ne _ _ hk, lkD_put_self .., rfl⟩

/-- A request without effect changes no lock. -/
theorem lckWrite_no_effect (p : Pwr) (h : lckWrite s f v = lckResult s f j 3) :
    lkD ({ lckWrite s f v with pwr := p } : State).hif.lckResult f 0 = BitVec.ofNat 32 (3 + 16 * j) ∧
    { lckWrite s f v with pwr := p } = { s with
      hif := { s.hif with lckResult := (lckWrite s f v).hif.lckResult }
      pwr := p } := by
  rw [h]
  exact ⟨lkD_put_self .., rfl⟩

/-- A refused request changes no lock either, and posts its record. -/
theorem lckWrite_refused {part type sev p0 p1 p2 p3 : Nat} (p : Pwr)
    (h : lckWrite s f v = postP (lckResult s f j 2) part type sev p0 p1 p2 p3) :
    lkD ({ lckWrite s f v with pwr := p } : State).hif.lckResult f 0 = BitVec.ofNat 32 (2 + 16 * j) ∧
    (lckWrite s f v).evt = (postP s part type sev p0 p1 p2 p3).evt ∧
    { lckWrite s f v with pwr := p } = { s with
      evt := (lckWrite s f v).evt
      hif := { s.hif with lckResult := (lckWrite s f v).hif.lckResult }
      pwr := p } := by
  rw [h, postP_frame]
  exact ⟨lkD_put_self .., postOne_evt s _ _ rfl rfl rfl, rfl⟩

end

/-- Settles O13: a served write is one `lckWrite`, whose OP and whose lock's holder and queue tell which outcome it has. -/
theorem lockRegisterPath : Obligations.LockRegisterPath := by
  rintro s f v j hserved rfl
  refine ⟨fun hlow hmid hhigh hin => ?_, fun hbad c hrow => ?_⟩
  · have hsound : LckSound s f.val v := ⟨hlow, hmid, hhigh, hin⟩
    refine ⟨fun hop hfree hnew => ?_, fun hop hagain => ?_, fun hop hheld => ?_, fun hop hfree => ?_,
      fun hop hwaits => ?_, fun hop hnew => ?_⟩
    · obtain ⟨p, hexec⟩ := exec_lckReq hserved (.inl ⟨rfl, hop⟩)
      obtain ⟨hself, hframe⟩ := lckWrite_accepted p ((lckWrite_acquire hsound hop).trans
        (if_neg (not_or.2 ⟨mt lckHolds_iff.1 hfree, not_lckWaits hnew⟩)))
      exact ⟨_, hexec, ⟨_, rfl, hself⟩, hframe⟩
    · obtain ⟨p, hexec⟩ := exec_lckReq hserved (.inl ⟨rfl, hop⟩)
      exact ⟨_, hexec, lckWrite_no_effect p ((lckWrite_acquire hsound hop).trans
        (if_pos (hagain.imp lckHolds_iff.2 lckWaits_iff.2)))⟩
    · obtain ⟨p, hexec⟩ := exec_lckReq hserved (.inr (.inl ⟨rfl, hop⟩))
      exact ⟨_, hexec, lckWrite_accepted p ((lckWrite_release hsound hop).trans (if_pos (lckHolds_iff.2 hheld)))⟩
    · obtain ⟨p, hexec⟩ := exec_lckReq hserved (.inr (.inl ⟨rfl, hop⟩))
      exact ⟨_, hexec, lckWrite_no_effect p ((lckWrite_release hsound hop).trans (if_neg (mt lckHolds_iff.1 hfree)))⟩
    · obtain ⟨p, hexec⟩ := exec_lckReq hserved (.inr (.inr ⟨rfl, hop⟩))
      exact ⟨_, hexec, lckWrite_accepted p ((lckWrite_withdraw hsound hop).trans (if_pos (lckWaits_iff.2 hwaits)))⟩
    · obtain ⟨p, hexec⟩ := exec_lckReq hserved (.inr (.inr ⟨rfl, hop⟩))
      exact ⟨_, hexec, lckWrite_no_effect p ((lckWrite_withdraw hsound hop).trans (if_neg (not_lckWaits hnew)))⟩
  · obtain ⟨p, hexec⟩ := exec_lckReq hserved hrow
    have hnot : ¬LckSound s f.val v := by simpa only [LckSound, not_and_or, ne_eq, Bool.not_eq_true] using hbad
    exact ⟨_, hexec, lckWrite_refused p (lckWrite_bad hnot)⟩

end Sys2Proof.Machine
end

section
/-! O23: the LOCKUP tasks (R419 to R423, Table 14.4). -/

namespace Sys2Proof.Machine

/-! ### A barrier that opens -/

/-- What the opening does to one of the streams that arrived: its LOCKUP ends with its rank. -/
def completeArrival (s : State) (e : Nat × Nat) : State :=
  match (stream s e.1).task with
  | some t => if t.done.isNone then luOk s e.1 t (e.2 % 256) else s
  | none => s

theorem openBarrier_eq_foldl (s : State) (b : Barrier) : openBarrier s b = b.arrived.zipIdx.foldl completeArrival s := rfl

theorem stream_completeArrival_ne {s : State} {e : Nat × Nat} {j : Nat} (h : j ≠ e.1) :
    stream (completeArrival s e) j = stream s j := by
  unfold completeArrival
  split
  · split
    · exact stream_endTask_ne _ _ _ _ _ h
    · rfl
  · rfl

theorem ended_completeArrival {s : State} {j r : Nat} {t : TaskRun} (htask : (stream s j).task = some t)
    (hdone : t.done = none) : Ended (completeArrival s (j, r)) j (Rec.ok 1 (r % 256) 0) := by
  simp only [completeArrival, htask, hdone, Option.isNone_none, if_true]
  exact ended_endTask ..

/-- A stream that is none of those that arrived stands as it was. -/
theorem stream_completeArrivals_of_notMem {l : List (Nat × Nat)} {s : State} {j : Nat} (h : j ∉ l.map Prod.fst) :
    stream (l.foldl completeArrival s) j = stream s j := by
  induction l generalizing s with
  | nil => rfl
  | cons e l ih =>
    rw [List.map_cons, List.mem_cons, not_or] at h
    rw [List.foldl_cons, ih h.2, stream_completeArrival_ne h.1]

/-- No stream arrives twice, so each LOCKUP ends at its own turn. -/
theorem ended_completeArrivals {l : List (Nat × Nat)} {s : State} {j r : Nat} {t : TaskRun}
    (hnodup : (l.map Prod.fst).Nodup) (hmem : (j, r) ∈ l) (htask : (stream s j).task = some t) (hdone : t.done = none) :
    Ended (l.foldl completeArrival s) j (Rec.ok 1 (r % 256) 0) := by
  induction l generalizing s with
  | nil => exact absurd hmem List.not_mem_nil
  | cons e l ih =>
    obtain ⟨hnew, hnodup⟩ := List.nodup_cons.1 hnodup
    rcases List.mem_cons.1 hmem with rfl | hmem
    · rw [List.foldl_cons, Ended, stream_completeArrivals_of_notMem hnew]
      exact ended_completeArrival htask hdone
    · have hne : j ≠ e.1 := fun h => hnew (h ▸ List.mem_map_of_mem hmem)
      exact ih hnodup hmem (by rw [stream_completeArrival_ne hne, htask])

/-- The LOCKUP that arrived at a rank ends with it. -/
theorem ended_openBarrier {s : State} {b : Barrier} {j r : Nat} {t : TaskRun} (hnodup : b.arrived.Nodup)
    (hrank : b.arrived[r]? = some j) (htask : (stream s j).task = some t) (hdone : t.done = none) :
    Ended (openBarrier s b) j (Rec.ok 1 (r % 256) 0) := by
  rw [openBarrier_eq_foldl]
  refine ended_completeArrivals ?_ (List.mk_mem_zipIdx_iff_getElem?.2 hrank) htask hdone
  rwa [List.zipIdx_map_fst]

/-! ### BARRIER -/

/-- A barrier once this stream has arrived too. -/
def Barrier.joined (b : Barrier) (i : Nat) : Barrier := { b with arrived := b.arrived ++ [i] }

/-- An arrival ends the task where the counts differ, opens the barrier where it completes the count, and waits else. -/
theorem exec_lockupBarrier {s : State} {i : SId} {t : TaskRun} {k n : Nat} {b : Barrier}
    (hrun : runningLockup s i.val 0 = some t) (hwait : t.waiting = false)
    (hk : k = streamPart s i.val * 64 + t.u32 0x10 % 64) (hn : n = t.u32 0x10 / 256 % 128)
    (hb : b = (lk s.locks.barriers k).getD ⟨n, []⟩) :
    exec (.lockupBarrier i) s = .next (
      if b.count ≠ n then endTask s i.val t (Rec.abort 0x10 0x91 0 0 0)
      else if n ≤ b.arrived.length + 1 then
        openBarrier { setTask s i.val { t with waiting := true } with
          locks := { s.locks with barriers := del s.locks.barriers k } } (b.joined i.val)
      else { setTask s i.val { t with waiting := true } with
        locks := { s.locks with barriers := put s.locks.barriers k (b.joined i.val) } }) := by
  subst hk hn hb
  simp only [exec, execLockupBarrier, hrun, hwait, Bool.false_eq_true, if_false, List.length_append, List.length_singleton]
  rfl

/-! ### ACQUIRE and RELEASE -/

/-- The running LOCKUP of an OP is the stream's task, and has not ended. -/
theorem runningLockup_spec {s : State} {i op : Nat} {t : TaskRun} (h : runningLockup s i op = some t) :
    (stream s i).task = some t ∧ t.done = none := by
  unfold runningLockup at h
  split at h
  · rename_i x hrun
    split at h
    · obtain rfl := Option.some.inj h
      obtain ⟨htask, hdone, -⟩ := runningTask_spec hrun
      exact ⟨htask, hdone⟩
    · exact absurd h nofun
  · exact absurd h nofun

/-- A LOCKUP that ends leaves the locks alone. -/
theorem locks_luOk (s : State) (i : Nat) (t : TaskRun) (result : Nat) : (luOk s i t result).locks = s.locks :=
  congrArg Strm.locks (strm_endTask s i t (Rec.ok 1 result 0))

section
variable {s : State} {i : SId} {t : TaskRun}

theorem exec_lockupAcquire (hrun : runningLockup s i.val 1 = some t) : exec (.lockupAcquire i) s =
    .next (if luRemote t then acquireRemote s i.val t else acquireLocal s i.val t) := by
  simp only [exec, execLockupAcquire, hrun]

theorem exec_lockupRelease (hrun : runningLockup s i.val 2 = some t) : exec (.lockupRelease i) s =
    .next (if luRemote t then releaseRemote s i.val t
      else if (lockOf s (luLock t)).holder = some (.strm i.val) then luOk (freeLock s (luLock t)) i.val t 0
      else luOk s i.val t 2) := by
  simp only [exec, execLockupRelease, hrun]

end

section
variable {s : State} {i : Nat} {t : TaskRun}

/-- Without a lease on the lock, ACQUIRE opens an exchange with the owner, and the lease begins with it (R420, R421). -/
theorem acquireRemote_asks (hlease : leaseFor s i (luDev t) (luLock t) = none)
    (hopen : mayOpen s (luDev t) t.admitted = true) (hex : lk t.ex 1 = none) : ∃ e v, e.dst = luDev t ∧ strm v = strm s ∧
    acquireRemote s i t = { setTask v i { t with waiting := true, ex := put t.ex 1 e } with
      locks := { v.locks with leases := v.locks.leases ++
        [⟨e.reqId, luDev t, luLock t, i, strEff s i 0x0C % 8, false, false, v.clk.timer, []⟩] } } := by
  simp only [acquireRemote, hlease, hopen, has, hex, Option.isSome_none, Bool.not_true, Bool.false_eq_true, if_false]
  exact ⟨_, _, rfl, strm_openExch .., rfl⟩

/-- A lease that is granted and stands is a hold. -/
theorem acquireRemote_held {l : Lease} (hlease : leaseFor s i (luDev t) (luLock t) = some l) (hgranted : l.granted = true)
    (hlost : l.lost = false) : acquireRemote s i t = luOk s i t 4 := by
  simp [acquireRemote, hlease, hgranted, hlost]

/-- RELEASE under a lease that stands asks the owner (R419). -/
theorem releaseRemote_asks {l : Lease} (hlease : leaseFor s i (luDev t) (luLock t) = some l) (hlost : l.lost = false)
    (hex : lk t.ex 1 = none) : ∃ e v, e.dst = luDev t ∧
    releaseRemote s i t = setTask v i { t with waiting := true, ex := put t.ex 1 e } := by
  simp only [releaseRemote, hlease, hlost, hex, Bool.false_eq_true, if_false]
  exact ⟨_, _, rfl, rfl⟩

/-- RELEASE without a lease ends at once. -/
theorem releaseRemote_unleased (hlease : leaseFor s i (luDev t) (luLock t) = none) :
    releaseRemote s i t = luOk s i t 2 := by
  simp only [releaseRemote, hlease]

end

section
variable {s : State} {i : SId} {t : TaskRun}

/-- The clause of BARRIER. -/
theorem lockupBarrier_spec {k n : Nat} {b : Barrier} (hrun : runningLockup s i.val 0 = some t)
    (hwait : t.waiting = false) (hk : k = streamPart s i.val * 64 + t.u32 0x10 % 64) (hn : n = t.u32 0x10 / 256 % 128)
    (hb : b = (lk s.locks.barriers k).getD ⟨n, []⟩) :
    (b.count = n → b.arrived.length + 1 < n →
      ∃ u, exec (.lockupBarrier i) s = .next u ∧
        lk u.locks.barriers k = some { b with arrived := b.arrived ++ [i.val] } ∧
        (∀ q, q ≠ k → lk u.locks.barriers q = lk s.locks.barriers q) ∧
        (stream u i.val).task = some { t with waiting := true } ∧ (∀ j, j ≠ i.val → stream u j = stream s j) ∧
        u = { s with streams := u.streams, locks := { s.locks with barriers := u.locks.barriers } }) ∧
    (b.count = n → n ≤ b.arrived.length + 1 → (b.arrived ++ [i.val]).Nodup →
      ∃ u, exec (.lockupBarrier i) s = .next u ∧ Ended u i.val (Rec.ok 1 (b.arrived.length % 256) 0) ∧
        (∀ r j x, b.arrived[r]? = some j → (stream s j).task = some x → x.done = none →
          Ended u j (Rec.ok 1 (r % 256) 0))) ∧
    (b.count ≠ n → ∃ u, exec (.lockupBarrier i) s = .next u ∧ Ended u i.val (Rec.abort 0x10 0x91 0 0 0)) := by
  have hexec := exec_lockupBarrier hrun hwait hk hn hb
  refine ⟨fun hcount hshort => ?_, fun hcount hfull hnodup => ?_, fun hcount => ?_⟩
  · rw [if_neg (not_not_intro hcount), if_neg hshort.not_ge] at hexec
    exact ⟨_, hexec, lk_put_self .., fun q hq => lk_put_ne _ _ hq, congrArg Stream.task (stream_setStream_self ..),
      fun j hj => stream_setStream_ne _ _ hj, rfl⟩
  · rw [if_neg (not_not_intro hcount), if_pos hfull] at hexec
    obtain ⟨-, hdone⟩ := runningLockup_spec hrun
    refine ⟨_, hexec, ?_, fun r j x hrank htask hnew => ?_⟩
    · exact ended_openBarrier (b := b.joined i.val) hnodup List.getElem?_concat_length
        (congrArg Stream.task (stream_setStream_self ..)) hdone
    · have hne : j ≠ i.val := fun h =>
        (List.nodup_append.1 hnodup).2.2 j (List.mem_of_getElem? hrank) i.val (List.mem_singleton_self _) h
      have hrank' : (b.joined i.val).arrived[r]? = some j := by
        rw [← hrank]
        exact List.getElem?_append_left (List.getElem?_eq_some_iff.1 hrank).1
      exact ended_openBarrier hnodup hrank' ((congrArg Stream.task (stream_setStream_ne _ _ hne)).trans htask) hnew
  · rw [if_pos hcount] at hexec
    exact ⟨_, hexec, ended_endTask ..⟩

/-- A local ACQUIRE that waits: the queue of its lock changes, and the task. -/
theorem lockupAcquire_waits (hrun : runningLockup s i.val 1 = some t) (hlocal : luRemote t = false)
    (hfree : (lockOf s (luLock t)).holder ≠ some (.strm i.val)) (hwait : t.waiting = false) :
    exec (.lockupAcquire i) s =
      .next (queueLock (setTask s i.val { t with waiting := true }) (luLock t) (.strm i.val) (strEff s i.val 0x0C)) := by
  simp [exec_lockupAcquire hrun, hlocal, acquireLocal, hfree, hwait]

/-- A stream that holds the lock does not wait behind its own hold. -/
theorem lockupAcquire_held (hrun : runningLockup s i.val 1 = some t) (hlocal : luRemote t = false)
    (hheld : (lockOf s (luLock t)).holder = some (.strm i.val)) :
    exec (.lockupAcquire i) s = .next (luOk s i.val t 4) := by
  simp [exec_lockupAcquire hrun, hlocal, acquireLocal, hheld]

end

/-- Settles O23: each row is an equation by what it finds at its lock, its lease or its barrier; an exchange and the end of a
task leave the locks alone. -/
theorem lockupTasks : Obligations.LockupTasks := by
  intro s i t
  refine ⟨fun k n b hrun hwait hk hn hb => lockupBarrier_spec hrun hwait hk hn hb, ?_, ?_, ?_, ?_⟩
  · rintro j rfl hrun hlocal
    refine ⟨fun hfree hwait => ?_, fun hheld => ⟨_, lockupAcquire_held hrun hlocal hheld, ended_endTask ..⟩⟩
    exact ⟨_, _, lockupAcquire_waits hrun hlocal hfree hwait, rfl, rfl, lockOf_setLock_self ..,
      fun k hk => lockOf_setLock_ne _ _ hk, congrArg Stream.task (stream_setStream_self ..), rfl⟩
  · rintro j rfl hrun hlocal
    rw [exec_lockupRelease hrun, hlocal]
    refine ⟨fun hheld => ?_, fun hfree => ?_⟩
    · exact ⟨_, congrArg _ (if_pos hheld), ended_endTask .., locks_luOk ..⟩
    · exact ⟨_, congrArg _ (if_neg hfree), ended_endTask .., locks_luOk ..⟩
  · rintro d j rfl rfl hrun hremote
    rw [exec_lockupAcquire hrun, if_pos hremote]
    refine ⟨fun hlease hopen hex => ?_, fun l hlease hgranted hlost => ?_⟩
    · obtain ⟨e, v, hdst, hstrm, hasks⟩ := acquireRemote_asks hlease hopen hex
      have hlocks : v.locks = s.locks := congrArg Strm.locks hstrm
      have hclk : v.clk = s.clk := congrArg Strm.clk hstrm
      rw [hasks, hlocks, hclk]
      exact ⟨_, _, _, rfl, rfl, rfl, rfl, rfl, rfl, rfl, rfl, congrArg Stream.task (stream_setStream_self ..), rfl, e,
        lk_put_self .., hdst, rfl⟩
    · rw [acquireRemote_held hlease hgranted hlost]
      exact ⟨_, rfl, ended_endTask ..⟩
  · rintro d j rfl rfl hrun hremote
    rw [exec_lockupRelease hrun, if_pos hremote]
    refine ⟨fun hlease => ?_, fun l hlease hlost hex => ?_⟩
    · rw [releaseRemote_unleased hlease]
      exact ⟨_, rfl, ended_endTask ..⟩
    · obtain ⟨e, v, hdst, hasks⟩ := releaseRemote_asks hlease hlost hex
      rw [hasks]
      exact ⟨_, _, rfl, congrArg Stream.task (stream_setStream_self ..), rfl, e, lk_put_self .., hdst⟩

end Sys2Proof.Machine
end

section
/-! Concrete inputs that meet the hypotheses of O13 and O23, with what the statements then say of them. -/

-- One theorem after the other: each that waits for the kernel's part of a `decide` would hold a thread of its own.
set_option Elab.async false

namespace Sys2Proof.Machine

/-! ### O13 -/

/-- A device whose lock 5 has this holder and this queue. -/
def lockFive (holder : Option Holder) (waiters : List Waiter) : State := { State.reset with
  locks := { State.reset.locks with locks := [(5, ⟨if holder.isSome then 1 else 0, holder, waiters, 0, 0⟩)] } }

/-- A request of PF0's register path at level 2. -/
def pf0Waits : Waiter := ⟨.reg 0, 2, 2, 0, 0⟩

theorem served_lockFive (holder : Option Holder) (waiters : List Waiter) : Served (lockFive holder waiters) 0 := served_reset

/-- An ACQUIRE at level 2 stands behind the request of that level and before that of level 3. -/
theorem lckReqAcquire_between : ∃ t,
    exec (.lckReqAcquire 0 0x210005) (lockFive none [⟨.reg 1, 2, 2, 0, 0⟩, ⟨.reg 2, 3, 3, 0, 0⟩]) = .next t ∧
    (lockOf t 5).waiters = [⟨.reg 1, 2, 2, 0, 0⟩, pf0Waits, ⟨.reg 2, 3, 3, 0, 0⟩] ∧ lkD t.hif.lckResult 0 0 = 81 := by
  obtain ⟨hsound, -⟩ := lockRegisterPath (lockFive none [⟨.reg 1, 2, 2, 0, 0⟩, ⟨.reg 2, 3, 3, 0, 0⟩]) 0 0x210005 5
    (served_lockFive ..) (by decide)
  obtain ⟨hacquire, -⟩ := hsound (by decide) (by decide) (by decide) (by decide +kernel)
  obtain ⟨t, hexec, ⟨w, rfl, hlock⟩, -, hresult, -⟩ := hacquire (by decide) (by decide +kernel) (by decide +kernel)
  exact ⟨t, hexec, by rw [hlock]; decide +kernel, hresult⟩

/-- A second ACQUIRE has no effect, and WITHDRAW takes the first back. -/
theorem lckReq_waiting :
    (∃ t, exec (.lckReqAcquire 0 0x210005) (lockFive (some (.reg 1)) [pf0Waits]) = .next t ∧
      lkD t.hif.lckResult 0 0 = 83) ∧
    ∃ t, exec (.lckReqWithdraw 0 0x30005) (lockFive (some (.reg 1)) [pf0Waits]) = .next t ∧
      lockOf t 5 = ⟨1, some (.reg 1), [], 0, 0⟩ := by
  obtain ⟨hsound, -⟩ := lockRegisterPath (lockFive (some (.reg 1)) [pf0Waits]) 0 0x210005 5 (served_lockFive ..) (by decide)
  obtain ⟨-, hagain, -⟩ := hsound (by decide) (by decide) (by decide) (by decide +kernel)
  obtain ⟨t, hexec, hresult, -⟩ := hagain (by decide) (.inr (by decide +kernel))
  obtain ⟨hsound, -⟩ := lockRegisterPath (lockFive (some (.reg 1)) [pf0Waits]) 0 0x30005 5 (served_lockFive ..) (by decide)
  obtain ⟨-, -, -, -, hwithdraw, -⟩ := hsound (by decide) (by decide) (by decide) (by decide +kernel)
  obtain ⟨u, hexec', hlock, -⟩ := hwithdraw (by decide) (by decide +kernel)
  exact ⟨⟨t, hexec, hresult⟩, u, hexec', hlock.trans (by decide +kernel)⟩

/-- RELEASE of the lock held frees it. -/
theorem lckReqRelease_held : ∃ t, exec (.lckReqRelease 0 0x20005) (lockFive (some (.reg 0)) []) = .next t ∧
    lockOf t 5 = LockSt.free ∧ lkD t.hif.lckResult 0 0 = 81 := by
  obtain ⟨hsound, -⟩ := lockRegisterPath (lockFive (some (.reg 0)) []) 0 0x20005 5 (served_lockFive ..) (by decide)
  obtain ⟨-, -, hrelease, -⟩ := hsound (by decide) (by decide) (by decide) (by decide +kernel)
  obtain ⟨t, hexec, hlock, -, hresult, -⟩ := hrelease (by decide) (by decide +kernel)
  exact ⟨t, hexec, hlock.trans (by decide +kernel), hresult⟩

/-- RELEASE of another function's lock has no effect, nor has WITHDRAW where nothing waits. -/
theorem lckReq_unheld :
    (∃ t, exec (.lckReqRelease 0 0x20005) (lockFive (some (.reg 1)) []) = .next t ∧ lkD t.hif.lckResult 0 0 = 83) ∧
    ∃ t, exec (.lckReqWithdraw 0 0x30005) (lockFive (some (.reg 1)) []) = .next t ∧ lkD t.hif.lckResult 0 0 = 83 := by
  obtain ⟨hsound, -⟩ := lockRegisterPath (lockFive (some (.reg 1)) []) 0 0x20005 5 (served_lockFive ..) (by decide)
  obtain ⟨-, -, -, hrelease, -⟩ := hsound (by decide) (by decide) (by decide) (by decide +kernel)
  obtain ⟨t, hexec, hresult, -⟩ := hrelease (by decide) (by decide +kernel)
  obtain ⟨hsound, -⟩ := lockRegisterPath (lockFive (some (.reg 1)) []) 0 0x30005 5 (served_lockFive ..) (by decide)
  obtain ⟨-, -, -, -, -, hwithdraw⟩ := hsound (by decide) (by decide) (by decide) (by decide +kernel)
  obtain ⟨u, hexec', hresult', -⟩ := hwithdraw (by decide) (by decide +kernel)
  exact ⟨⟨t, hexec, hresult⟩, u, hexec', hresult'⟩

/-- A write with reserved bit 10 set is refused, and recorded. -/
theorem lckReqAcquire_reserved : ∃ t, exec (.lckReqAcquire 0 0x10405) State.reset = .next t ∧
    lkD t.hif.lckResult 0 0 = 82 ∧ t.evt.seq = 1 := by
  obtain ⟨-, hbad⟩ := lockRegisterPath State.reset 0 0x10405 5 served_reset (by decide)
  obtain ⟨t, hexec, hresult, hevt, -⟩ := hbad (.inl (by decide)) _ (.inl ⟨rfl, by decide⟩)
  exact ⟨t, hexec, hresult, by rw [hevt]; exact postOne_seq ..⟩

/-! ### O23 -/

/-- A LOCKUP in flight, by its OP with REMOTE and DEV, its lock or, for BARRIER, the BARRIER_ID and COUNT. -/
def lockupTask (op remote dev lock barrier count : Byte) : TaskRun := TaskRun.start 0
  (slice [9, 0, 0, 0, 0, 0, 0, 0, op, remote, dev, 0, lock, 0, 0, 0, barrier, count] 0 64) 0 none

/-- A device in a pod with device 1, whose stream 0 of PF0 runs this task, stream 1 waits at barrier 3, and the lock unit
is as given. -/
def lockingUp (t : TaskRun) (locks : Locks) : State := { State.reset with
  locks := locks
  pod := { State.reset.pod with joined := true, members := 3 }
  streams := [(0, { Stream.idle with slot := some (0, 0), task := some t }),
    (1, { Stream.idle with slot := some (0, 1), task := some { lockupTask 0 0 0 0 3 2 with waiting := true } })] }

/-- Barrier 3 of the driver domain, where stream 1 has arrived. -/
def oneArrived (count : Nat) : Locks := ⟨[], [], [(32 * 64 + 3, ⟨count, [1]⟩)]⟩

/-- Where three are awaited, the second waits. -/
theorem lockupBarrier_short : ∃ u, exec (.lockupBarrier 0) (lockingUp (lockupTask 0 0 0 0 3 3) (oneArrived 3)) = .next u ∧
    lk u.locks.barriers (32 * 64 + 3) = some ⟨3, [1, 0]⟩ := by
  obtain ⟨hbarrier, -⟩ := lockupTasks (lockingUp (lockupTask 0 0 0 0 3 3) (oneArrived 3)) 0 (lockupTask 0 0 0 0 3 3)
  obtain ⟨hwaits, -⟩ := hbarrier (32 * 64 + 3) 3 ⟨3, [1]⟩ (by decide +kernel) rfl (by decide +kernel) (by decide +kernel)
    (by decide +kernel)
  obtain ⟨u, hexec, hgroup, -⟩ := hwaits rfl (by decide)
  exact ⟨u, hexec, hgroup⟩

/-- Where two are, both LOCKUPs end with their ranks. -/
theorem lockupBarrier_complete : ∃ u,
    exec (.lockupBarrier 0) (lockingUp (lockupTask 0 0 0 0 3 2) (oneArrived 2)) = .next u ∧
    Ended u 0 (Rec.ok 1 1 0) ∧ Ended u 1 (Rec.ok 1 0 0) := by
  obtain ⟨hbarrier, -⟩ := lockupTasks (lockingUp (lockupTask 0 0 0 0 3 2) (oneArrived 2)) 0 (lockupTask 0 0 0 0 3 2)
  obtain ⟨-, hopens, -⟩ := hbarrier (32 * 64 + 3) 2 ⟨2, [1]⟩ (by decide +kernel) rfl (by decide +kernel) (by decide +kernel)
    (by decide +kernel)
  obtain ⟨u, hexec, hself, hothers⟩ := hopens rfl (by decide) (by decide)
  exact ⟨u, hexec, hself, hothers 0 1 _ rfl rfl rfl⟩

/-- Another COUNT than the group's is a bad descriptor. -/
theorem lockupBarrier_mismatch : ∃ u,
    exec (.lockupBarrier 0) (lockingUp (lockupTask 0 0 0 0 3 2) (oneArrived 3)) = .next u ∧
    Ended u 0 (Rec.abort 0x10 0x91 0 0 0) := by
  obtain ⟨hbarrier, -⟩ := lockupTasks (lockingUp (lockupTask 0 0 0 0 3 2) (oneArrived 3)) 0 (lockupTask 0 0 0 0 3 2)
  obtain ⟨-, -, hbad⟩ := hbarrier (32 * 64 + 3) 2 ⟨3, [1]⟩ (by decide +kernel) rfl (by decide +kernel) (by decide +kernel)
    (by decide +kernel)
  exact hbad (by decide)

/-- A lock unit whose lock 5 is in the hands of this stream. -/
def fiveHeldBy (i : Nat) : Locks := ⟨[(5, ⟨1, some (.strm i), [], 0, 0⟩)], [], []⟩

/-- ACQUIRE of a lock of another stream's waits; of the stream's own it ends at once. -/
theorem lockupAcquire_local :
    (∃ u w, exec (.lockupAcquire 0) (lockingUp (lockupTask 1 0 0 5 0 0) (fiveHeldBy 1)) = .next u ∧ w.who = .strm 0 ∧
      (lockOf u 5).waiters = [w]) ∧
    ∃ u, exec (.lockupAcquire 0) (lockingUp (lockupTask 1 0 0 5 0 0) (fiveHeldBy 0)) = .next u ∧
      Ended u 0 (Rec.ok 1 4 0) := by
  obtain ⟨-, hother, -⟩ := lockupTasks (lockingUp (lockupTask 1 0 0 5 0 0) (fiveHeldBy 1)) 0 (lockupTask 1 0 0 5 0 0)
  obtain ⟨-, hown, -⟩ := lockupTasks (lockingUp (lockupTask 1 0 0 5 0 0) (fiveHeldBy 0)) 0 (lockupTask 1 0 0 5 0 0)
  obtain ⟨hwaits, -⟩ := hother 5 (by decide +kernel) (by decide +kernel) (by decide +kernel)
  obtain ⟨-, hheld⟩ := hown 5 (by decide +kernel) (by decide +kernel) (by decide +kernel)
  obtain ⟨u, w, hexec, hwho, -, hlock, -⟩ := hwaits (by decide +kernel) rfl
  exact ⟨⟨u, w, hexec, hwho, congrArg LockSt.waiters hlock⟩, hheld (by decide +kernel)⟩

/-- RELEASE frees the stream's own lock, and not another's. -/
theorem lockupRelease_local :
    (∃ u, exec (.lockupRelease 0) (lockingUp (lockupTask 2 0 0 5 0 0) (fiveHeldBy 0)) = .next u ∧
      Ended u 0 (Rec.ok 1 0 0) ∧ lockOf u 5 = LockSt.free) ∧
    ∃ u, exec (.lockupRelease 0) (lockingUp (lockupTask 2 0 0 5 0 0) (fiveHeldBy 1)) = .next u ∧
      Ended u 0 (Rec.ok 1 2 0) ∧ u.locks = fiveHeldBy 1 := by
  obtain ⟨-, -, hown, -⟩ := lockupTasks (lockingUp (lockupTask 2 0 0 5 0 0) (fiveHeldBy 0)) 0 (lockupTask 2 0 0 5 0 0)
  obtain ⟨-, -, hother, -⟩ := lockupTasks (lockingUp (lockupTask 2 0 0 5 0 0) (fiveHeldBy 1)) 0 (lockupTask 2 0 0 5 0 0)
  obtain ⟨hheld, -⟩ := hown 5 (by decide +kernel) (by decide +kernel) (by decide +kernel)
  obtain ⟨-, hunheld⟩ := hother 5 (by decide +kernel) (by decide +kernel) (by decide +kernel)
  obtain ⟨u, hexec, hended, hlocks⟩ := hheld (by decide +kernel)
  exact ⟨⟨u, hexec, hended, by rw [lockOf, hlocks]; decide +kernel⟩, hunheld (by decide +kernel)⟩

/-- A lease of stream 0 on lock 5 of device 1. -/
def fiveLeased : Locks := ⟨[], [⟨7, 1, 5, 0, 0, true, false, 0, []⟩], []⟩

/-- ACQUIRE of a lock of device 1 asks for it; under a granted lease it ends at once. -/
theorem lockupAcquire_remote :
    (∃ u l, exec (.lockupAcquire 0) (lockingUp (lockupTask 1 1 1 5 0 0) ⟨[], [], []⟩) = .next u ∧ u.locks.leases = [l] ∧
      l.dev = 1 ∧ l.lock = 5 ∧ l.granted = false) ∧
    ∃ u, exec (.lockupAcquire 0) (lockingUp (lockupTask 1 1 1 5 0 0) fiveLeased) = .next u ∧ Ended u 0 (Rec.ok 1 4 0) := by
  obtain ⟨-, -, -, hfree, -⟩ := lockupTasks (lockingUp (lockupTask 1 1 1 5 0 0) ⟨[], [], []⟩) 0 (lockupTask 1 1 1 5 0 0)
  obtain ⟨-, -, -, hleased, -⟩ := lockupTasks (lockingUp (lockupTask 1 1 1 5 0 0) fiveLeased) 0 (lockupTask 1 1 1 5 0 0)
  obtain ⟨hasks, -⟩ := hfree 1 5 (by decide +kernel) (by decide +kernel) (by decide +kernel) (by decide +kernel)
  obtain ⟨-, hheld⟩ := hleased 1 5 (by decide +kernel) (by decide +kernel) (by decide +kernel) (by decide +kernel)
  obtain ⟨u, l, -, hexec, hleases, hdev, hlock, -, hgranted, -⟩ := hasks (by decide +kernel) (by decide +kernel) rfl
  exact ⟨⟨u, l, hexec, hleases, hdev, hlock, hgranted⟩, hheld ⟨7, 1, 5, 0, 0, true, false, 0, []⟩ (by decide +kernel) rfl rfl⟩

/-- RELEASE of it without a lease ends at once; with one the task waits for the owner. -/
theorem lockupRelease_remote :
    (∃ u, exec (.lockupRelease 0) (lockingUp (lockupTask 2 1 1 5 0 0) ⟨[], [], []⟩) = .next u ∧
      Ended u 0 (Rec.ok 1 2 0)) ∧
    ∃ u x, exec (.lockupRelease 0) (lockingUp (lockupTask 2 1 1 5 0 0) fiveLeased) = .next u ∧
      (stream u 0).task = some x ∧ x.waiting = true := by
  obtain ⟨-, -, -, -, hfree⟩ := lockupTasks (lockingUp (lockupTask 2 1 1 5 0 0) ⟨[], [], []⟩) 0 (lockupTask 2 1 1 5 0 0)
  obtain ⟨-, -, -, -, hleased⟩ := lockupTasks (lockingUp (lockupTask 2 1 1 5 0 0) fiveLeased) 0 (lockupTask 2 1 1 5 0 0)
  obtain ⟨hunleased, -⟩ := hfree 1 5 (by decide +kernel) (by decide +kernel) (by decide +kernel) (by decide +kernel)
  obtain ⟨-, hasks⟩ := hleased 1 5 (by decide +kernel) (by decide +kernel) (by decide +kernel) (by decide +kernel)
  obtain ⟨u, x, hexec, htask, hwaits, -⟩ := hasks ⟨7, 1, 5, 0, 0, true, false, 0, []⟩ (by decide +kernel) rfl rfl
  exact ⟨hunleased (by decide +kernel), u, x, hexec, htask, hwaits⟩

end Sys2Proof.Machine
end

section
/-! What the block does without supply: the gates that every row but PWRGD_ASSERT stands behind (log entry 31). -/

namespace Sys2Proof.Machine

section
variable {s : State}

/-- In OFF the data path has stopped. -/
@[simp] theorem dpStop_of_off (h : s.pwr.off = true) : dpStop s = true := by simp [dpStop, h]

/-- No domain runs. -/
@[simp] theorem runs_of_off (h : s.pwr.off = true) (d : Nat) : runs s d = false := by simp [runs, h]

@[simp] theorem linkRuns_of_off (h : s.pwr.off = true) : linkRuns s = false := by simp [linkRuns, h]

@[simp] theorem cpRuns_of_off (h : s.pwr.off = true) : cpRuns s = false := by simp [cpRuns, h]

/-- The AMC neither runs nor serves the boot ROM's requests. -/
@[simp] theorem amcRuns_of_off (h : s.pwr.off = true) : amcRuns s = false := by simp [amcRuns, h]

@[simp] theorem amcServes_of_off (h : s.pwr.off = true) : amcServes s = false := by simp [amcServes, h]

/-- No function's BARs are served. -/
@[simp] theorem barServed_of_off (h : s.pwr.off = true) (f : Nat) : barServed s f = false := by simp [barServed, h]

/-- No task has its engines. -/
@[simp] theorem engineOk_of_off (h : s.pwr.off = true) (type : Nat) : engineOk s type = false := by simp [engineOk, h]

@[simp] theorem runningTask_of_off (h : s.pwr.off = true) (i type : Nat) : runningTask s i type = none := by
  unfold runningTask
  split <;> simp [h]

@[simp] theorem runningLockup_of_off (h : s.pwr.off = true) (i op : Nat) : runningLockup s i op = none := by
  simp [runningLockup, h]

/-- The mailbox rows wait for Onaman, which does not run. -/
theorem exec_mbxRow_of_off (h : s.pwr.off = true) {c : Instr} {x : Nat × Nat × (List Byte → Bool)}
    (hrow : mbxRow c = some x) : exec c s = .next s := by
  obtain ⟨f, op, sel⟩ := x
  obtain ⟨other, body, go, hexec⟩ := exec_of_mbxRow hrow s
  rw [hexec, runCmd_of_not_cpRuns (cpRuns_of_off h)]

end

/-- In OFF every command but PWRGD_ASSERT leaves the state as it is. The rows stand by the gate that says so. -/
theorem exec_of_off {s : State} (h : s.pwr.off = true) {c : Instr} (hc : ∀ id, c ≠ .pwrgdAssert id) :
    exec c s = .next s := by
  cases c with
  | pwrgdAssert id => exact absurd rfl (hc id)
  -- The mailbox.
  | getInterface | getCaps | enableCaps | getCommandInfo | getLimits | opStatus | opCancel | partitionCreate
  | partitionSetQuota | partitionAssignStream | partitionReleaseStream | partitionWipe | partitionDestroy
  | partitionQuery | tableCreate | tableLoad | tableDestroy | tableQuery | tableMapShared | tableUnmapShared
  | tableRegisterGolden | placePlan | placeCommit | tableRequantize | adapterLoad | adapterBind | profileLoad
  | profileUnload | grammarLoad | grammarUnload | stopStringsSet | pageRetire | channelMapOutEvacuate
  | channelMapOutDiscard | channelMapOutRecord | hellboxRead | marginStart | marginResult | rowRepair | setPowerPermit
  | setLoopBounds | getLoopBounds | podJoin | podLeave | linkControlDisable | linkControlEnable | linkControlRelease
  | linkControlWidth2 | linkControlWidth4 | podQuery | fwQuery | fwUpdateBegin | fwUpdateData | fwUpdateEnd
  | fwUpdateCancel | fwActivate | cpRestart | fwCommitSvn | fwRevokeKey | colophonRead =>
    exact exec_mbxRow_of_off h rfl
  -- Rows that ask for supply first; among them the messages, the pins and the test access port.
  | eventPost | lostSummary | norBucketRefill | scrubBatch | linkFailure | linkDozeEntry | linkStopNotice
  | transitCreditTimeout | bufferedWriteApply | ringConfigApply | cfgCommit | checkerPass | snapshotCapture
  | barAccessSummary | rlLimit | d3hotEntry | d0Return | atsInvalidate | atsTranslationCompletion | leaseEndOwner
  | leaseEndHolder | abandonedGrantHoldEnd | ledgerWaitTimeout | saClaimResend | descriptorFetch | completionRecord
  | hostStallTimeout | hostCompletionTimeout | hostReadCompletion | pwrgdDeassert | amcFault | amcRestart
  | xkeep | lkAcq | lkGrant | lkWait | lkRel | lkRelack | lkRenew | lkRenewed | lkAbandon | lkWithdraw | lkDenied
  | lkPrio | saClaim | saApply | saUnclaim | saClaimed | saApplied | saDenied | saWaiting | saFolded | grantReq
  | grantAns | gpReq | gpChunk | gpValue | cpRd | cpData | cpWr | cpWack | joinHello | lostNotice | leaveNotice | rejoin
  | placeQuery | placeAns | mgmtRelayReq | mgmtRelayAns
  | perstNAssert | perstNDeassert | forceIdleNAssert | forceIdleNDeassert | globalStopNAssert | globalStopNDeassert
  | idcode | samplePreload | extest | clamp | highz | runbist | extestPulse | extestTrain | bypass | testLogicReset =>
    exact congrArg Host.Outcome.next (if_pos h)
  -- Rows that act where a domain runs, the BARs or the AMC are served, or supply is one condition of several.
  | idleEntry | dozeEntry | deepEntry | dozeWake | deepWake | thermalThrottleStep | temperatureSample | avsStep | dcoTrim
  | patrolScrubGroup | scrubRateLoop | calibrationSlot | retrainPiece | agingSample | read | mark | rewind | release
  | releaseMark | trim | reset | frameTransmit | frameReceive | linkPeerDetect | linkEqStep | strTailWrite | snapCmdWrite
  | aliasWrite | mbxReqSeqWrite | lckReqAcquire | lckReqRelease | lckReqWithdraw | vfEnableSet | vfEnableClear | flr
  | ceWriteBack | wcbWriteBack | mr4Read | perBankRefresh | readDataReturn | fillHalfGrant | halfSwap | chasePass
  | powerUpSequence | initSweep | linkBootTraining | pcieReady | telemetryFrame | colophonUpdate
  | requestFirmwareData | transferComplete | verifyComplete | applyComplete
  | setEndpointId | getEndpointId | getEndpointUuid | getMctpVersionSupport | getMessageTypeSupport
  | getVendorDefinedMsgSupport | getTid | getPldmVersion | getPldmTypes | getPldmCommands | getPdrRepositoryInfo | getPdr
  | getSensorReading | getStateSensorReadings | pollForPlatformEventMessage | queryDeviceIdentifiers
  | getFirmwareParameters | requestUpdate | passComponentTable | updateComponent | activateFirmware | getStatus
  | cancelUpdateComponent | cancelUpdate =>
    exact congrArg Host.Outcome.next (if_neg (by simp [h]))
  -- Rows that name the same conditions as what stops them.
  | powerStateEvaluate | avsCommandRetry | cellGrant | enq | linkRetrainDone | linkWake | messageRoute | podSummary
  | unknownMtype | barAccessRefused | rlRead | registerWrite | configRequest | pcieLinkUp | hotReset | arbitrationEpoch
  | quoinPeriod | leaseRenewSend | memCeSummary | channelDropSummary | linkCreditTimeout | memberLost | cpWatchdogReset
  | onamanRestart | pinStuck | pinStuckClear | pinRate | pinRateWindowEnd
  | getBound | setBound | telRead | evtNorRead | mgmtColophonRead =>
    exact congrArg Host.Outcome.next (if_pos (by simp [h]))
  -- Tasks, which find none running.
  | gatherPool | gatherRows => simp [exec, execGatherPool, execGatherRows, gatherRun, h]
  | scatterAdd => simp [exec, execScatterAdd, saRun, h]
  | foldApply | foldDiscard => simp [exec, execFoldApply, execFoldDiscard, foldRun, h]
  | tokenize | detokenize | formeMask => simp [exec, execTokenize, execDetokenize, execFormeMask, textRun, h]
  | copy => simp [exec, execCopy, copyRun, h]
  | prefetchHint => simp [exec, execPrefetchHint, prefetchRun, h]
  | lockupBarrier => simp [exec, execLockupBarrier, h]
  | lockupAcquire => simp [exec, execLockupAcquire, h]
  | lockupRelease => simp [exec, execLockupRelease, h]
  -- Rows that look first at what they act on.
  | readIssue i =>
    refine congrArg Host.Outcome.next ?_
    unfold readIssue
    split <;> simp [h]
  | galleyScrub => simp [exec, execGalleyScrub, h]
  | norWrite =>
    refine congrArg Host.Outcome.next ?_
    split <;> simp [h]
  | xkeepSend =>
    refine congrArg Host.Outcome.next ?_
    split <;> simp [h]
  | pageZeroed =>
    refine congrArg Host.Outcome.next ?_
    split <;> simp [h]
  | marginSlot =>
    refine congrArg Host.Outcome.next ?_
    split <;> simp [h]
  | fwSessionTimeout =>
    refine congrArg Host.Outcome.next ?_
    split <;> simp [h]
  | cpRestartStartTimeout =>
    refine congrArg Host.Outcome.next ?_
    split <;> simp [h]

end Sys2Proof.Machine
end

section
/-! O1 and O2: a step runs the oldest command that waits, each command answers a next state, and on an empty queue one AON
period passes (log entry 28). -/

namespace Sys2Proof.Machine

/-- The queue and the time stay. -/
def SameTime (s t : State) : Prop := t.pending = s.pending ∧ t.clk = s.clk

namespace SameTime

theorem refl (s : State) : SameTime s s := ⟨rfl, rfl⟩

theorem trans {s t u : State} (h : SameTime s t) (h' : SameTime t u) : SameTime s u :=
  ⟨h'.1.trans h.1, h'.2.trans h.2⟩

theorem foldl {α : Type} {f : State → α → State} (hf : ∀ s x, SameTime s (f s x)) (l : List α) (s : State) :
    SameTime s (l.foldl f s) := by
  induction l generalizing s with
  | nil => exact refl s
  | cons x l ih => exact (hf s x).trans (ih _)

theorem ite {s t : State} {p : Prop} [Decidable p] (h : SameTime s t) : SameTime s (if p then t else s) := by
  split
  · exact h
  · exact refl s

theorem countStream (s : State) (i : Nat) : SameTime s (countStream s i) := by
  unfold Machine.countStream
  split
  · exact refl s
  · exact ⟨rfl, rfl⟩

theorem countCore (s : State) (n : Nat) : SameTime s (countCore s n) := by
  unfold Machine.countCore
  split
  · exact refl s
  · split <;> exact ⟨rfl, rfl⟩

theorem serveFn (s : State) (f : Nat) (l : List (Nat × Bool × Nat × Nat)) : SameTime s (serveFn s f l) := by
  obtain ⟨-, hframe⟩ := serveFn_frame s f l
  rw [hframe]
  exact ⟨rfl, rfl⟩

theorem relayTimeouts (s : State) : SameTime s (relayTimeouts s) := by
  unfold Machine.relayTimeouts
  refine trans ⟨rfl, rfl⟩ (foldl (fun v r => ?_) _ _)
  exact ⟨rfl, rfl⟩

theorem bootSettle (s : State) : SameTime s (bootSettle s) := by
  unfold Machine.bootSettle
  split
  · exact ⟨rfl, rfl⟩
  · exact refl s

end SameTime

/-- What an AON period does beside the clocks leaves the queue and the time as the clocks do. -/
theorem tick_sameTime {s : State} (h : s.pwr.off = false) : SameTime (tickClock s) (tick s) := by
  rw [tick, if_neg (by simp [h])]
  refine SameTime.trans ?_ (SameTime.bootSettle _)
  refine SameTime.trans ?_ (SameTime.ite (SameTime.relayTimeouts _))
  refine SameTime.trans ?_ (SameTime.foldl (fun v f => SameTime.serveFn v f _) _ _)
  refine SameTime.trans ?_ (SameTime.ite (SameTime.foldl SameTime.countCore _ _))
  exact SameTime.ite (SameTime.foldl SameTime.countStream _ _)

theorem step_of_pending {s : State} {c : Instr} {rest : List Instr} (h : s.pending = c :: rest) :
    step s = exec c { s with pending := rest } := by simp only [step, h]

theorem step_of_empty {s : State} (h : s.pending = []) : step s = .next (tick s) := by simp only [step, h]

theorem tick_of_off {s : State} (h : s.pwr.off = true) : tick s = s := if_pos h

/-- Settles O1: by the queue, and on an empty one by what an AON period leaves alone. -/
theorem stepTakesTheFrontCommand : Obligations.StepTakesTheFrontCommand := by
  refine ⟨fun c rest s => rfl, fun s hnone hoff => ?_, fun s hnone hoff => ?_⟩
  · rw [step_of_empty hnone, tick_of_off hoff]
  · obtain ⟨hpending, hclk⟩ := tick_sameTime hoff
    exact ⟨_, step_of_empty hnone, hpending.trans hnone, by rw [hclk]; rfl, by rw [hclk]; rfl⟩

/-- Settles O2: the meaning of every row is a next state. -/
theorem everyCommandAnswers : Obligations.EveryCommandAnswers := by
  intro c s
  cases c <;> exact ⟨_, rfl⟩

end Sys2Proof.Machine
end

section
/-! O3 and O4: OFF and the supply edges (R522 to R524, R545). -/

namespace Sys2Proof.Machine

/-- The state a supply edge leaves: a cold reset's, under this identity, with or without supply, at this step of the
boot. -/
def supplyEdge (s : State) (boot : Nat) (ident : Ident) (off : Bool) (phase : Nat) : State :=
  let c := coldBase s boot
  { c with ident := ident, pwr := { c.pwr with off := off }, fw := { c.fw with bootPhase := phase } }

section
variable {s : State}

/-- PWRGD_ASSERT ends OFF by one cold reset more, with POD_ID as the strap reads, and the boot begins (R522). -/
theorem exec_pwrgdAssert_of_off (h : s.pwr.off = true) (id : BitVec 6) : exec (.pwrgdAssert id) s =
    .next (supplyEdge s (s.evt.boot + 1) { s.ident with podId := id.toNat } false 1) :=
  congrArg Host.Outcome.next (if_neg (by simp [h]))

theorem exec_pwrgdAssert_of_on (h : s.pwr.off = false) (id : BitVec 6) : exec (.pwrgdAssert id) s = .next s :=
  congrArg Host.Outcome.next (if_pos (by simp [h]))

/-- PWRGD_DEASSERT ends in OFF and counts no reset (R524). -/
theorem exec_pwrgdDeassert_of_on (h : s.pwr.off = false) :
    exec .pwrgdDeassert s = .next (supplyEdge s s.evt.boot s.ident true 0) :=
  congrArg Host.Outcome.next (if_neg (by simp [h]))

end

/-- Every fast domain is stopped until the boot starts it. -/
theorem dom_supplyEdge (s : State) (boot : Nat) (ident : Ident) (off : Bool) (phase : Nat) {d : Nat} (hd : d < 6) :
    dom (supplyEdge s boot ident off phase) d = 2 := by
  interval_cases d <;> rfl

/-- Settles O3: every row but PWRGD_ASSERT stands behind a gate that OFF closes. -/
theorem offIsLeftOnlyByPowerGood : Obligations.OffIsLeftOnlyByPowerGood := by
  intro s hoff
  refine ⟨fun hnone => ?_, fun c rest hc hother => ?_, fun id rest hc => ?_⟩
  · rw [step_of_empty hnone, tick_of_off hoff]
  · rw [step_of_pending hc]
    exact exec_of_off (s := { s with pending := rest }) hoff hother
  · rw [step_of_pending hc, exec_pwrgdAssert_of_off (s := { s with pending := rest }) hoff]
    exact ⟨_, rfl, rfl⟩

/-- Settles O4: either edge leaves the state of a cold reset, and the edge that supply already has had changes nothing. -/
theorem supplyEdges : Obligations.SupplyEdges := by
  intro s t id
  refine ⟨fun hedge => ?_, fun hoff => ⟨_, exec_pwrgdAssert_of_off hoff id, rfl, rfl, rfl, rfl⟩,
    fun hon => exec_pwrgdAssert_of_on hon id, fun hon => ⟨_, exec_pwrgdDeassert_of_on hon, rfl, rfl, rfl, rfl⟩,
    fun hoff => exec_of_off hoff (by simp)⟩
  obtain ⟨boot, ident, off, phase, rfl⟩ : ∃ boot ident off phase, t = supplyEdge s boot ident off phase := by
    obtain ⟨hoff, hexec⟩ | ⟨hon, hexec⟩ := hedge
    · exact ⟨_, _, _, _, (Host.Outcome.next.inj ((exec_pwrgdAssert_of_off hoff id).symm.trans hexec)).symm⟩
    · exact ⟨_, _, _, _, (Host.Outcome.next.inj ((exec_pwrgdDeassert_of_on hon).symm.trans hexec)).symm⟩
  have hdom : ∀ d, d < 6 → dom (supplyEdge s boot ident off phase) d = 2 := fun d hd => dom_supplyEdge _ _ _ _ _ hd
  exact ⟨rfl, rfl, rfl, rfl, rfl, rfl, rfl, rfl, rfl, rfl, rfl, rfl, rfl, rfl, rfl, rfl, rfl, rfl, rfl, rfl, rfl, rfl, rfl,
    rfl, rfl, rfl, rfl, rfl, rfl, rfl, rfl, rfl, rfl, hdom, rfl⟩

end Sys2Proof.Machine
end

section
/-! O30: the summaries of lost records, and the NOR ring and its wear bucket (R499, R500, R512, R513). -/

namespace Sys2Proof.Machine

/-! ### LOST_SUMMARY (R499) -/

section
variable {s : State}

/-- A log without losses has no summary. -/
theorem lostOne_of_none {l : Nat} (h : (lkD s.evt.logs l LogSt.empty).lossCnt = 0) : lostOne s l = s := by
  simp [lostOne, h]

theorem foldl_lostOne_of_none {ls : List Nat} (h : ∀ l ∈ ls, (lkD s.evt.logs l LogSt.empty).lossCnt = 0) :
    ls.foldl lostOne s = s := by
  induction ls with
  | nil => rfl
  | cons l ls ih =>
    obtain ⟨hl, hls⟩ := List.forall_mem_cons.1 h
    rw [List.foldl_cons, lostOne_of_none hl, ih hls]

/-- The summary of one log leaves the others alone. -/
theorem lk_lostOne_ne (s : State) {l j : Nat} (h : j ≠ l) : lk (lostOne s l).evt.logs j = lk s.evt.logs j := by
  simp only [lostOne]
  split
  · rfl
  · rw [lk_postOne_ne _ _ h]
    exact lk_put_ne _ _ h

/-- Where one log alone has losses, its summary is all. -/
theorem foldl_lostOne_single {ls : List Nat} {k : Nat} (hnd : ls.Nodup) (hk : k ∈ ls)
    (h : ∀ l ∈ ls, l ≠ k → (lkD s.evt.logs l LogSt.empty).lossCnt = 0) : ls.foldl lostOne s = lostOne s k := by
  induction ls with
  | nil => exact absurd hk List.not_mem_nil
  | cons l ls ih =>
    obtain ⟨hl, hnd⟩ := List.nodup_cons.1 hnd
    obtain ⟨hfirst, hrest⟩ := List.forall_mem_cons.1 h
    rw [List.foldl_cons]
    by_cases hlk : l = k
    · subst hlk
      refine foldl_lostOne_of_none fun j hj => ?_
      have hne : j ≠ l := fun hjl => hl (hjl ▸ hj)
      rw [lkD, lk_lostOne_ne s hne]
      exact hrest j hj hne
    · rw [lostOne_of_none (hfirst hlk)]
      exact ih hnd ((List.mem_cons.1 hk).resolve_left (Ne.symm hlk)) hrest

/-- The record of a log's losses: their number, the first and the last LIDX, and the first and the last SEQ. -/
def lossRec (k : Nat) (x : LogSt) : EvRec := evRec 0x0F01 2 (if k = globalLog then 63 else k) x.lossCnt
  (x.lossFirst % 2 ^ 32 + 2 ^ 32 * (x.lossLast % 2 ^ 32)) x.lossFirstSeq x.lossLastSeq

/-- A state whose log k is told of no losses. -/
def lossCleared (s : State) (k : Nat) (x : LogSt) : State :=
  { s with evt := { s.evt with logs := put s.evt.logs k { x with lossCnt := 0 } } }

theorem lostOne_of_loss {k : Nat} {x : LogSt} (hx : lk s.evt.logs k = some x) (hloss : x.lossCnt ≠ 0)
    (hstage : canStage s.evt (k == globalLog) = true) :
    lostOne s k = postOne (lossCleared s k x) k (lossRec k x) := by
  have hlog : lkD s.evt.logs k LogSt.empty = x := by simp [lkD, hx]
  simp only [lostOne, hlog, hloss, hstage]
  rfl

/-- A record that can be staged is no loss. -/
theorem lossCnt_postOne {l : Nat} (r : EvRec) (h : canStage s.evt (l == globalLog) = true) :
    (lkD (postOne s l r).evt.logs l LogSt.empty).lossCnt = (lkD s.evt.logs l LogSt.empty).lossCnt := by
  simp [postOne, h]

end

/-! ### NOR_WRITE (R500, R512) -/

section
variable {s : State} {x : EvStored}

/-- The record that begins a block leaves there the boot and its number. -/
def NorBlock.withRecord (b : NorBlock) (boot : Nat) (x : EvStored) : NorBlock :=
  if b.recs.isEmpty then { b with boot := boot, firstSeq := x.seq, recs := [x] } else { b with recs := b.recs ++ [x] }

theorem norAppend_room (h : (lkD s.evt.ring s.evt.cur NorBlock.empty).recs.length < 1023) : norAppend s x =
    { s with evt := { s.evt with
      ring := put s.evt.ring s.evt.cur ((lkD s.evt.ring s.evt.cur NorBlock.empty).withRecord s.evt.boot x) } } := by
  simp only [norAppend, h, if_true, NorBlock.withRecord]
  split
  · rename_i hempty
    simp [List.isEmpty_iff.1 hempty]
  · rfl

/-- The ring once the current block is full: the next one begins with the record, and the one after that is erased. -/
def ringMoved (e : Evt) (x : EvStored) : Tab NorBlock :=
  put (put e.ring ((e.cur + 1) % 128)
      { lkD e.ring ((e.cur + 1) % 128) NorBlock.empty with boot := e.boot, firstSeq := x.seq, recs := [x] })
    ((e.cur + 2) % 128)
    { NorBlock.empty with erases := (lkD e.ring ((e.cur + 2) % 128) NorBlock.empty).erases + 1 }

theorem norAppend_full (h : 1023 ≤ (lkD s.evt.ring s.evt.cur NorBlock.empty).recs.length) : norAppend s x =
    { s with evt := { s.evt with ring := ringMoved s.evt x, cur := (s.evt.cur + 1) % 128 } } := by
  simp only [norAppend, Nat.not_lt.2 h, if_false, ringMoved]

/-- A state with these records left in the staging buffer. -/
def leftStaged (s : State) (r : List EvStored) : State := { s with evt := { s.evt with staged := r } }

/-- The oldest staged record leaves the staging buffer for the ring. -/
theorem exec_norWrite {r : List EvStored} (hoff : s.pwr.off = false) (h : s.evt.staged = x :: r) :
    exec .norWrite s = .next (norAppend (leftStaged s r) x) := by
  simp [exec, execNorWrite, h, hoff, leftStaged]

theorem exec_norWrite_nothing (h : s.evt.staged = []) : exec .norWrite s = .next s := by
  simp [exec, execNorWrite, h]

end

/-- Settles O30: the summaries by the logs that have losses, the ring by the room of its current block, the bucket by its
accumulator. -/
theorem eventLogKeeping : Obligations.EventLogKeeping := by
  intro s hoff
  have hlost : exec .lostSummary s = .next ((List.range 34).foldl lostOne s) :=
    congrArg Host.Outcome.next (if_neg (by simp [hoff]))
  refine ⟨fun hnone => ?_, fun k x hk hx hloss hstage hothers => ?_, exec_norWrite_nothing, ?_, ?_,
    fun hacc => by simp [exec, execNorBucketRefill, hoff, hacc],
    fun hacc => by simp [exec, execNorBucketRefill, hoff, Nat.not_le.2 hacc]⟩
  · rw [hlost, foldl_lostOne_of_none fun l hl => hnone l (List.mem_range.1 hl)]
  · rw [hlost, foldl_lostOne_single List.nodup_range (List.mem_range.2 hk) fun l hl => hothers l (List.mem_range.1 hl),
      lostOne_of_loss hx hloss hstage]
    refine ⟨_, rfl, ?_, postOne_seq .., postOne_frame ..⟩
    rw [lossCnt_postOne (s := lossCleared s k x) _ hstage]
    simp [lossCleared]
  · rintro x r b hstaged rfl hroom
    rw [exec_norWrite hoff hstaged, norAppend_room (s := leftStaged s r) hroom]
    rfl
  · intro x r hstaged hfull hcur
    rw [exec_norWrite hoff hstaged, norAppend_full (s := leftStaged s r) hfull]
    have hne : (s.evt.cur + 1) % 128 ≠ (s.evt.cur + 2) % 128 := by omega
    refine ⟨_, rfl, rfl, rfl, ?_, ?_, ?_, ?_, fun k hnext hafter => ?_, rfl⟩
    · simp [ringMoved, leftStaged, lkD_put_ne _ _ _ hne]
    · simp [ringMoved, leftStaged, lkD_put_ne _ _ _ hne]
    · simp [ringMoved, leftStaged, NorBlock.empty]
    · simp [ringMoved, leftStaged]
    · exact (lk_put_ne _ _ hafter).trans (lk_put_ne _ _ hnext)

end Sys2Proof.Machine
end

section
/-! O32: patrol scrub and its rate, calibration and retraining, and the aging sample (R204, R505 to R507, R509, R511). -/

namespace Sys2Proof.Machine

/-! ### What the reads of a scrub leave alone (R204) -/

/-- From s to t only memory, counters and the event log may have changed, and of memory none but its data. -/
def Scrubbed (s t : State) : Prop :=
  t = { s with mem := t.mem, cfg := { s.cfg with cnt := t.cfg.cnt }, evt := t.evt } ∧ memRest t = memRest s

/-- A burst with poison bits that differ is poisoned, and counted (R204). -/
def poisonAgreed (s : State) (b : BRef) : State :=
  if poisonBit s b 0 != poisonBit s b 1 then cntAdd (setPoison s b true) (poisonKey b.ch) 1 else s

namespace Scrubbed

theorem refl (s : State) : Scrubbed s s := ⟨rfl, rfl⟩

theorem trans {s t u : State} (h : Scrubbed s t) (h' : Scrubbed t u) : Scrubbed s u := by
  obtain ⟨hframe, hrest⟩ := h
  obtain ⟨hframe', hrest'⟩ := h'
  exact ⟨by rw [hframe', hframe], hrest'.trans hrest⟩

theorem foldl {α : Type} {f : State → α → State} (hf : ∀ s x, Scrubbed s (f s x)) (l : List α) (s : State) :
    Scrubbed s (l.foldl f s) := by
  induction l generalizing s with
  | nil => exact refl s
  | cons x l ih => exact (hf s x).trans (ih _)

theorem setCell (s : State) (k : Nat) (b : Byte) : Scrubbed s (setCell s k b) := ⟨rfl, rfl⟩

theorem setCells (s : State) (k : Nat) (l : List Byte) : Scrubbed s (setCells s k l) := by
  induction l generalizing s k with
  | nil => exact refl s
  | cons b l ih => exact (setCell s k b).trans (ih _ _)

theorem setPoison (s : State) (b : BRef) (v : Bool) : Scrubbed s (setPoison s b v) := (setCell s _ _).trans (setCell _ _ _)

theorem cntAdd (s : State) (k n : Nat) : Scrubbed s (cntAdd s k n) := ⟨rfl, rfl⟩

theorem postG (s : State) (type sev p0 p1 p2 p3 : Nat) : Scrubbed s (postG s type sev p0 p1 p2 p3) := by
  rw [postG_frame]
  exact ⟨rfl, rfl⟩

theorem burstStore (s : State) (b : BRef) (data : List Byte) (v : Bool) : Scrubbed s (burstStore s b data v) :=
  (((setCells s _ _).trans (setCells _ _ _)).trans (setPoison _ _ _)).trans ⟨rfl, rfl⟩

theorem poisonAgreed (s : State) (b : BRef) : Scrubbed s (poisonAgreed s b) := by
  unfold Machine.poisonAgreed
  split
  · exact (setPoison s b true).trans (cntAdd _ _ _)
  · exact refl s

theorem scrubBurst (s : State) (b : BRef) (pa : Nat) : Scrubbed s (scrubBurst s b pa) := by
  unfold Machine.scrubBurst
  rw [← Machine.poisonAgreed]
  refine (poisonAgreed s b).trans ?_
  generalize Machine.poisonAgreed s b = v
  dsimp only
  split
  · exact refl v
  · exact refl v
  · refine trans ?_ (burstStore _ _ _ _)
    exact ⟨rfl, rfl⟩
  · exact ((cntAdd _ _ _).trans (setPoison _ _ _)).trans (postG _ _ _ _ _ _ _)

theorem scrubReads (s : State) (c g : Nat) (errs : List (Nat × SymErr)) : Scrubbed s (scrubReads s c g errs) := by
  unfold Machine.scrubReads
  dsimp only
  refine trans (foldl (fun v e => setCell v _ _) errs s) (foldl (fun v n => ?_) (List.range 15) _)
  split
  · exact refl v
  · split
    · exact refl v
    · exact foldl (fun w j => scrubBurst w _ _) _ v

section
variable {s t : State} (h : Scrubbed s t)
include h

theorem frame : t = { s with mem := t.mem, cfg := { s.cfg with cnt := t.cfg.cnt }, evt := t.evt } := h.1

theorem issued : t.mem.issued = s.mem.issued := congrArg MemRest.issued h.2

end

end Scrubbed

/-! ### PATROL_SCRUB_GROUP (R505) -/

/-- The group after group g of a pass. -/
def nextGroup (s : State) (g : Nat) : Nat := if scrubGroups s ≤ g + 1 then 0 else g + 1

/-- Once the group at the cursor is read the cursor goes on; a pass that ends is timed and counted. -/
theorem scrubGroup_spec (s : State) (c : Nat) (errs : List (Nat × SymErr)) : ∃ t, scrubGroup s c errs = t ∧
    lkD t.bg.cursor c 0 = nextGroup s (lkD s.bg.cursor c 0) ∧ t.mem.issued = s.mem.issued ∧
    t = { s with mem := t.mem, cfg := { s.cfg with cnt := t.cfg.cnt }, evt := t.evt, bg := { s.bg with
      cursor := t.bg.cursor, passAt := t.bg.passAt } } := by
  have hreads := Scrubbed.scrubReads s c (lkD s.bg.cursor c 0) errs
  have hissued := hreads.issued
  have hframe := hreads.frame
  unfold scrubGroup
  dsimp only
  generalize scrubReads s c (lkD s.bg.cursor c 0) errs = v at hissued hframe
  have hgroups : scrubGroups v = scrubGroups s := by rw [hframe]; rfl
  have hbg : v.bg = s.bg := by rw [hframe]
  rw [hgroups, hbg]
  by_cases hwrap : scrubGroups s ≤ lkD s.bg.cursor c 0 + 1
  · simp only [hwrap, decide_true, if_true, nextGroup]
    split <;> exact ⟨_, rfl, by simp, hissued, by rw [hframe]; rfl⟩
  · simp only [hwrap, decide_false, Bool.false_eq_true, if_false, nextGroup]
    exact ⟨_, rfl, by simp, hissued, by rw [hframe]⟩

section
variable {s : State} {c : Ch} (errs : List (Nat × SymErr))

/-- A due group that the channel's queue and its cap have room for is scrubbed. -/
theorem exec_patrolScrubGroup_due (hdue : isDue s (.group c.val) = true) (hruns : runs s 1 = true)
    (hlive : lkD s.mem.chState c.val 0 = 0) (hgroup : groupDue s c.val = true)
    (hroom : (lkD s.mem.reorder c.val []).length ≤ 8)
    (hcap : s.mem.burstCap = 0 ∨ lkD s.mem.issued c.val 0 + 64 ≤ s.mem.burstCap) :
    exec (.patrolScrubGroup c errs) s =
      .next (scrubGroup (setDue (issuedMore s c.val 64) (.group c.val) 25) c.val errs) := by
  have hroom' : (lkD s.mem.reorder c.val []).length ≤ 12 := Nat.le_trans hroom (by decide)
  simp [exec, execPatrolScrubGroup, hdue, hruns, hlive, hgroup, hroom, hroom', capped_within hcap]

theorem exec_patrolScrubGroup_early (h : groupDue s c.val = false) : exec (.patrolScrubGroup c errs) s = .next s := by
  simp [exec, execPatrolScrubGroup, h]

end

/-! ### SCRUB_BATCH (R506) -/

/-- A channel that is LIVE has groups due. -/
def anyGroupDue (s : State) : Bool := (List.range 64).any (fun c => lkD s.mem.chState c 0 == 0 && groupDue s c)

theorem anyGroupDue_iff (s : State) :
    anyGroupDue s = true ↔ ∃ k < 64, lkD s.mem.chState k 0 = 0 ∧ groupDue s k = true := by
  simp [anyGroupDue]

section
variable {s : State} (hoff : s.pwr.off = false)
include hoff

theorem exec_scrubBatch_opens (hout : s.bg.inBatch = false) (hidle : dom s 1 = 1) (hgo : dpStop s = false)
    (hany : anyGroupDue s = true) (hms : s.bg.batchAt + mgmt s 11 * msT ≤ s.clk.aon) :
    exec .scrubBatch s = .next { s with bg := { s.bg with inBatch := true, batchAt := s.clk.aon } } := by
  unfold anyGroupDue at hany
  simp [exec, execScrubBatch, hoff, hout, hidle, hgo, hany, hms, -List.any_eq_true]

theorem exec_scrubBatch_closes (hin : s.bg.inBatch = true) (hnone : anyGroupDue s = false) :
    exec .scrubBatch s = .next { s with bg := { s.bg with inBatch := false } } := by
  unfold anyGroupDue at hnone
  simp [exec, execScrubBatch, hoff, hin, hnone, -List.any_eq_false]

end

/-! ### SCRUB_RATE_LOOP (R507, Table 19.3) -/

section
variable {s : State}

/-- Every hour boundary but the first after a reset takes the loop's step. -/
theorem exec_scrubRateLoop_due (hdue : isDue s .scrubRate = true) (hoff : s.pwr.off = false) (haon : s.clk.aon ≠ 0) :
    exec .scrubRateLoop s = .next (scrubRate (setDue s .scrubRate (3600 * secT))) := by
  simp [exec, execScrubRateLoop, hdue, hoff, haon]

section
variable (hue : totalUe s ≤ s.bg.ueBase) (hcrossed : (loop s 3).crossed ≠ 2)
include hue hcrossed

/-- Above SCRUB_CE_HI the step rises, up to SCRUB_FASTEST. -/
theorem scrubRate_up (hhi : mgmt s 9 < totalCe s - s.bg.ceBase) (hstep : s.bg.scrubStep < mgmt s 8) :
    ∃ b, scrubRate s = setPinned { s with bg := b } 3 0 ∧ b.ceBase = totalCe s ∧ b.scrubStep = s.bg.scrubStep + 1 := by
  have hne : s.bg.scrubStep ≠ mgmt s 8 := Nat.ne_of_lt hstep
  simp only [scrubRate, Nat.not_lt.2 hue, hcrossed, hhi, hstep, beq_iff_eq, decide_false, decide_true, Bool.and_false,
    Bool.false_or, Bool.false_and, Bool.false_eq_true, if_false, if_true, beq_eq_false_iff_ne.2 hne,
    show ¬(4 ≤ 0) by decide]
  exact ⟨_, rfl, rfl, rfl⟩

/-- After 24 hours at or below SCRUB_CE_LO it falls, down to SCRUB_SLOWEST. -/
theorem scrubRate_down (hhi : totalCe s - s.bg.ceBase ≤ mgmt s 9) (hlo : totalCe s - s.bg.ceBase ≤ mgmt s 10)
    (hhours : 23 ≤ s.bg.hoursLow) (hstep : mgmt s 7 < s.bg.scrubStep) :
    ∃ b, scrubRate s = setPinned { s with bg := b } 3 0 ∧ b.ceBase = totalCe s ∧ b.scrubStep = s.bg.scrubStep - 1 := by
  simp only [scrubRate, Nat.not_lt.2 hue, hcrossed, Nat.not_lt.2 hhi, hlo, hstep, beq_iff_eq, decide_false,
    Bool.false_or, Bool.false_and, Bool.false_eq_true, if_false, if_true, show ¬(4 ≤ 0) by decide,
    show 24 ≤ s.bg.hoursLow + 1 by omega]
  exact ⟨_, rfl, rfl, rfl⟩

end

/-- An uncorrectable burst brings the step to 7, across SCRUB_FASTEST where that lies below. -/
theorem scrubRate_ue (hue : s.bg.ueBase < totalUe s) : (scrubRate s).bg.scrubStep = 7 ∧
    (mgmt s 8 < 7 → (loop s 3).crossed = 0 → (loop (scrubRate s) 3).crossed = 2) := by
  by_cases hfast : mgmt s 8 < 7
  · have hcrosses : ∃ b, scrubRate s = crossOn { s with bg := b } 3 2 ∧ b.scrubStep = 7 := by
      simp only [scrubRate, hue, hfast, decide_true, Bool.true_or, Bool.true_and, if_true]
      exact ⟨_, rfl, rfl⟩
    obtain ⟨b, hrate, hstep⟩ := hcrosses
    rw [hrate]
    exact ⟨(congrArg (fun t => t.bg.scrubStep) (ClockMoved.crossOn { s with bg := b } 3 2)).trans hstep,
      fun _ hzero => crossed_crossOn_of_zero (s := { s with bg := b }) 2 hzero⟩
  · have hstep : (scrubRate s).bg.scrubStep = 7 := by
      simp only [scrubRate, hue, hfast, decide_true, decide_false, Bool.true_or, Bool.and_false, Bool.false_eq_true,
        if_false, if_true]
    exact ⟨hstep, fun hlt => absurd hlt hfast⟩

end

/-! ### Slots of calibration and retraining (R509) -/

/-- A slot or piece begins: its deferral ends, and it is counted. -/
def slotBegun (s : State) (key : Nat) : State :=
  cntAdd { s with bg := { s.bg with deferAt := del s.bg.deferAt key } } (telKey 0x810) 1

section
variable {s : State} {c key : Nat} (run : State → State)

/-- Where the channel's queue is empty a slot begins. -/
theorem slotBegin_empty (h : lkD s.mem.reorder c [] = []) : slotBegin s c key run = run (slotBegun s key) := by
  simp [slotBegin, h, slotBegun]

/-- Where it is not, the deferral starts. -/
theorem slotBegin_deferred (h : lkD s.mem.reorder c [] ≠ []) (hnone : lk s.bg.deferAt key = none) :
    slotBegin s c key run = { s with bg := { s.bg with deferAt := put s.bg.deferAt key s.clk.aon } } := by
  simp [slotBegin, h, hnone, has]

end

theorem exec_calibrationSlot_due {s : State} {c : Ch} (hruns : runs s 1 = true)
    (hdue : lkD s.bg.trackAt c.val 0 + mgmt s 13 * msT ≤ memcRan s ∨
      apart (lkD s.mem.mr4Temp c.val 0) (lkD s.bg.trackTemp c.val 0) 5 = true) :
    exec (.calibrationSlot c) s = .next (slotBegin s c.val c.val (fun v => { v with bg := { v.bg with
      trackAt := put v.bg.trackAt c.val (memcRan v)
      trackTemp := put v.bg.trackTemp c.val (lkD s.mem.mr4Temp c.val 0) } })) := by
  have hguard : (decide (lkD s.bg.trackAt c.val 0 + mgmt s 13 * msT ≤ memcRan s) ||
      apart (lkD s.mem.mr4Temp c.val 0) (lkD s.bg.trackTemp c.val 0) 5) = true := by simpa using hdue
  simp [exec, execCalibrationSlot, hguard, hruns]

/-- One piece of a retrain, with n pieces to come after it; the last one ends the retrain. -/
def pieceDone (s : State) (c n temp : Nat) : State :=
  let s := { s with bg := { s.bg with pieces := setD s.bg.pieces c n 0, pieceAt := put s.bg.pieceAt c s.clk.aon } }
  if n = 0 then { s with bg := { s.bg with
    retrainAt := put s.bg.retrainAt c (memcRan s), retrainTemp := put s.bg.retrainTemp c temp } }
  else s

/-- Whether the next piece of a channel is due, with so many left of its retrain: 100 us after the last one, or, where
none is left, as a new retrain is due. -/
def pieceDue (s : State) (c left : Nat) : Bool :=
  if left = 0 then decide (lkD s.bg.retrainAt c 0 + mgmt s 14 * secT ≤ memcRan s) ||
    apart (lkD s.mem.mr4Temp c 0) (lkD s.bg.retrainTemp c 0) 15
  else decide (lkD s.bg.pieceAt c 0 + 100 * usT ≤ s.clk.aon)

section
variable {s : State} {c : Ch} (hruns : runs s 1 = true) (hempty : lkD s.mem.reorder c.val [] = [])
include hruns hempty

/-- A due piece is taken from those left, or from the 20 of a new retrain. -/
theorem exec_retrainPiece_due {left n : Nat} (hleft : lkD s.bg.pieces c.val 0 = left)
    (hn : (if left = 0 then 20 else left) - 1 = n) (hdue : pieceDue s c.val left = true) : exec (.retrainPiece c) s =
    .next (pieceDone (slotBegun s (64 + c.val)) c.val n (lkD s.mem.mr4Temp c.val 0)) := by
  subst hleft hn
  rw [← slotBegin_empty (fun v => pieceDone v c.val _ _) hempty]
  exact congrArg Host.Outcome.next (if_pos (Bool.and_eq_true_iff.2 ⟨hdue, hruns⟩))

/-- A further piece follows the one before it by 100 us at least. -/
theorem exec_retrainPiece_next {n : Nat} (hleft : lkD s.bg.pieces c.val 0 = n + 1)
    (hdue : lkD s.bg.pieceAt c.val 0 + 100 * usT ≤ s.clk.aon) : exec (.retrainPiece c) s =
    .next (pieceDone (slotBegun s (64 + c.val)) c.val n (lkD s.mem.mr4Temp c.val 0)) :=
  exec_retrainPiece_due hruns hempty hleft rfl (by simpa [pieceDue] using hdue)

/-- A due retrain begins with the first of its 20 pieces. -/
theorem exec_retrainPiece_first (hleft : lkD s.bg.pieces c.val 0 = 0)
    (hdue : lkD s.bg.retrainAt c.val 0 + mgmt s 14 * secT ≤ memcRan s) : exec (.retrainPiece c) s =
    .next (pieceDone (slotBegun s (64 + c.val)) c.val 19 (lkD s.mem.mr4Temp c.val 0)) :=
  exec_retrainPiece_due hruns hempty hleft rfl (by simp [pieceDue, hdue])

end

/-! ### AGING_SAMPLE (R511) -/

theorem cdiv_500 (d : Nat) : cdiv d 500 = (d + 499) / 500 := by rw [cdiv]; omega

/-- The bounded target is at its bound where the target has reached it. -/
theorem min_20_beq (n : Nat) : (min 20 n == 20) = decide (20 ≤ n) := by
  rw [Bool.eq_iff_iff, beq_iff_eq, decide_eq_true_iff]
  omega

/-- A due sample moves the guard band by at most 1 mV toward its target, never down. -/
theorem exec_agingSample_due {s : State} {pairs : List (Nat × Nat)} {d : Nat} (hdue : isDue s .aging = true)
    (hruns : runs s 0 = true)
    (hd : d = (median (pairs.map (fun (r, x) => ((r : Int) - (x : Int)) * 1000000 / (max r 1 : Nat)))).toNat) :
    exec (.agingSample pairs) s = .next { setDue s .aging (86400 * secT) with bg := { s.bg with
      agingG := max s.bg.agingG (min (min 20 ((d + 499) / 500)) (s.bg.agingG + 1)), agingD := d
      agingLimit := s.bg.agingLimit || decide (20 ≤ (d + 499) / 500) } } := by
  subst hd
  rw [← cdiv_500, ← min_20_beq]
  exact congrArg Host.Outcome.next (if_pos (Bool.and_eq_true_iff.2 ⟨hdue, hruns⟩))

/-- Settles O32: each row by what its due act leaves. -/
theorem scrubAndCalibration : Obligations.ScrubAndCalibration := by
  intro s c
  refine ⟨?_, exec_patrolScrubGroup_early, ?_, ?_, ?_, ?_, ?_, ?_, ?_, ?_, ?_⟩
  · intro errs hdue hruns hlive hgroup hroom hcap
    obtain ⟨t, ht, hcursor, hissued, hframe⟩ :=
      scrubGroup_spec (setDue (issuedMore s c.val 64) (.group c.val) 25) c.val errs
    rw [exec_patrolScrubGroup_due errs hdue hruns hlive hgroup hroom hcap, ht]
    refine ⟨t, rfl, hcursor, ?_, ?_, hframe.trans ?_⟩
    · rw [hissued]
      exact lkD_put_self ..
    · rw [hframe]
      exact isDue_setDue (issuedMore s c.val 64) (.group c.val) (by decide)
    · rw [hframe]
      rfl
  · intro hoff hout hidle hgo hany hms
    exact exec_scrubBatch_opens hoff hout hidle hgo ((anyGroupDue_iff s).2 hany) hms
  · intro hoff hin hnone
    refine exec_scrubBatch_closes hoff hin (Bool.eq_false_iff.2 fun hany => ?_)
    obtain ⟨k, hk, hlive, hgroup⟩ := (anyGroupDue_iff s).1 hany
    exact absurd hgroup (by simp [hnone k hk hlive])
  · intro hdue hoff haon hcrossed hue
    have hnotDue : isDue (setDue s .scrubRate (3600 * secT)) .scrubRate = false := isDue_setDue s .scrubRate (by decide)
    rw [exec_scrubRateLoop_due hdue hoff haon]
    refine ⟨fun hhi hstep => ?_, fun hhi hlo hhours hstep => ?_⟩
    · obtain ⟨b, hrate, hbase, hb⟩ := scrubRate_up (s := setDue s .scrubRate (3600 * secT)) hue hcrossed hhi hstep
      exact ⟨_, rfl, by rw [hrate]; exact hnotDue, by rw [hrate]; exact hbase, by rw [hrate]; exact hb,
        by rw [hrate]; exact pinned_setPinned ..⟩
    · obtain ⟨b, hrate, hbase, hb⟩ :=
        scrubRate_down (s := setDue s .scrubRate (3600 * secT)) hue hcrossed hhi hlo hhours hstep
      exact ⟨_, rfl, by rw [hrate]; exact hnotDue, by rw [hrate]; exact hbase, by rw [hrate]; exact hb,
        by rw [hrate]; exact pinned_setPinned ..⟩
  · intro hdue hoff haon hue
    rw [exec_scrubRateLoop_due hdue hoff haon]
    exact ⟨_, rfl, scrubRate_ue (s := setDue s .scrubRate (3600 * secT)) hue⟩
  · rintro k rfl hruns hdue
    rw [exec_calibrationSlot_due hruns hdue]
    refine ⟨fun hempty => ?_, fun hbusy hnone => congrArg _ (slotBegin_deferred _ hbusy hnone)⟩
    rw [slotBegin_empty _ hempty]
    exact ⟨_, rfl, lkD_put_self .., lkD_put_self .., lk_del_self .., rfl⟩
  · intro n hleft hn hruns hempty hdue
    obtain ⟨m, rfl⟩ : ∃ m, n = m + 2 := ⟨n - 2, by omega⟩
    rw [exec_retrainPiece_next hruns hempty hleft hdue]
    exact ⟨_, rfl, lkD_setD_self s.bg.pieces c.val (m + 1) 0, lkD_put_self .., rfl, rfl⟩
  · intro hruns hempty hleft hdue
    rw [exec_retrainPiece_next (n := 0) hruns hempty hleft hdue]
    exact ⟨_, rfl, lkD_setD_self s.bg.pieces c.val 0 0, lkD_put_self .., lkD_put_self ..⟩
  · intro hruns hempty hleft hdue
    rw [exec_retrainPiece_first hruns hempty hleft hdue]
    exact ⟨_, rfl, lkD_setD_self s.bg.pieces c.val 19 0⟩
  · intro pairs d hdue hruns hd
    rw [exec_agingSample_due hdue hruns hd]
    exact ⟨_, rfl, rfl, rfl, Nat.le_max_left .., Nat.max_le.2 ⟨Nat.le_succ _, Nat.min_le_right ..⟩, rfl, rfl⟩

end Sys2Proof.Machine
end

section
/-! O21: the ends of the text tasks (R439, R456 to R458, R468, R469, R475, R476). -/

namespace Sys2Proof.Machine

/-! ### A text task on its unit -/

section
variable {s u : State} {i n : Nat} (hu : u = if onUnit s i then s else takeUnit s i n)
include hu

/-- A task that holds a unit, or gets one now, is run by its plan. -/
theorem textRun_onUnit {t : TaskRun} (hrun : runningTask s i n = some t) (hon : onUnit u i = true)
    (plan : State → Nat → TaskRun → Plan) : textRun s i n plan = runPlan u i t (plan u i t) := by
  simp only [textRun, hrun, ← hu, hon, if_true]

/-- Getting a unit writes nothing and leaves the streams' registers alone. -/
theorem atEnd_onUnit : atEnd u = atEnd s := by
  rw [hu]
  split
  · rfl
  · exact atEnd_takeUnit ..

end

/-- The text state stays through what leaves that part of the streams alone. -/
theorem text_of_wrote {s u : State} {f : Nat} {ws : List OutW} (h : atEnd u = (atEnd s).wrote f ws) (j : Nat) :
    (stream u j).text = (stream s j).text :=
  congrArg (fun x => x.2.2.1) (congrFun (congrArg AtEnd.cpls h) j)

theorem text_of_atEnd {s u : State} (h : atEnd u = atEnd s) (j : Nat) : (stream u j).text = (stream s j).text :=
  congrArg (fun x => x.2.2.1) (congrFun (congrArg AtEnd.cpls h) j)

/-! ### The ends of the three plans -/

section
variable {u : State} {i : Nat} {t : TaskRun} {ws : List OutW} {tr tr' : List Acc}

/-- TOKENIZE writes its tokens and the context, and ends with the run's record (R456 to R458). -/
theorem tokenizePlan_ok {p : TextImg} {input : List PB} {o : CaseOut} {cur : Option (Nat × List Byte)}
    (himg : imgFor u.profiles (t.u32 8 % 16) (taskCtx u i t).part = some p)
    (hinput : inputRead (taskCtx u i t) (t.u64 0x10) (t.u32 0x0C % 2 ^ 25) 1 = .ok input tr)
    (hcur : cur = ctxCurrent (ctxCopy u p.ctxPages (t.u32 8 / 256 % 64) 0).1 (ctxCopy u p.ctxPages (t.u32 8 / 256 % 64) 1).1)
    (ho : o = caseEval u t p (caseOld cur (bitOf (t.u32 8) 16)) input)
    (houtput : outputWrite (taskCtx u i t) (t.u64 0x18) o.bytes 4 = .ok ws tr')
    (hvalid : cur.isSome = true ∨ bitOf (t.u32 8) 16 = true) (hclean : pbBad input = false) (himage : o.st.r.bad = false) :
    ∃ go, tokenizePlan u i t = .fin true (tr ++ [(ctxCopy u p.ctxPages (t.u32 8 / 256 % 64) 0).2,
        (ctxCopy u p.ctxPages (t.u32 8 / 256 % 64) 1).2] ++ o.st.r.tr.reverse) go ∧
      ∀ x v, ∃ w, go x v = endTask w i x o.record ∧ atEnd w = (atEnd v).wrote (streamFn u i) ws := by
  have hkept : (cur.isNone && !bitOf (t.u32 8) 16) = false := by
    obtain h | h := hvalid
    · simp [Option.isNone_eq_false_iff.2 h]
    · simp [h]
  simp only [tokenizePlan, himg, hinput, ← hcur, ← ho, houtput, hkept, hclean, himage]
  refine ⟨_, rfl, fun x v => ⟨_, rfl, ?_⟩⟩
  split
  · rw [atEnd_postTask, atEnd_cntAdd, atEnd_cntAdd, atEnd_cntAdd, atEnd_memWrite, atEnd_doWrites, atEnd_cntAdd,
      atEnd_cntAdd]
    rfl
  · rw [atEnd_cntAdd, atEnd_cntAdd, atEnd_cntAdd, atEnd_memWrite, atEnd_doWrites, atEnd_cntAdd, atEnd_cntAdd]
    rfl

/-- The task ends, and the stream's text state is what the run makes of it. -/
def endText (w : State) (i : Nat) (x : TaskRun) (text : TextSt → TextSt) (r : Rec) : State :=
  endTask (setStream w i { stream w i with text := text (stream w i).text }) i x r

/-- DETOKENIZE writes its text, leaves the text state and ends with the run's record (R468, R469). -/
theorem detokenizePlan_ok {im : TextImg} {toks : List (Nat × Bool)} {o : ProofOut}
    (himg : imgFor u.profiles (t.u32 8 % 16) (taskCtx u i t).part = some im)
    (hinput : tokenInput (taskCtx u i t) t (bitOf (t.u32 8) 18) (t.u32 0x0C % 2 ^ 25) (t.u64 0x10) = .ok toks tr)
    (ho : o = proofEval u (stream u i).text t im toks)
    (houtput : outputWrite (taskCtx u i t) (t.u64 0x18) o.p.out 1 = .ok ws tr')
    (hvalid : (stream u i).text.proofBad = false ∨ bitOf (t.u32 8) 16 = true) (hfault : o.fault = none)
    (hclean : toks.any (·.2) = false) (himage : o.p.r.bad = false) :
    ∃ go, detokenizePlan u i t = .fin true (tr ++ o.p.r.tr.reverse) go ∧
      ∀ x v, ∃ w, go x v = endText w i x o.text o.record ∧ atEnd w = (atEnd v).wrote (streamFn u i) ws := by
  have hkept : ((stream u i).text.proofBad && !bitOf (t.u32 8) 16) = false := by
    obtain h | h := hvalid <;> simp [h]
  simp only [detokenizePlan, himg, hinput, ← ho, houtput, hkept, hfault, hclean, himage]
  refine ⟨_, rfl, fun x v => ⟨_, rfl, ?_⟩⟩
  rw [atEnd_cntAdd, atEnd_cntAdd, atEnd_cntAdd, atEnd_doWrites]
  rfl

/-- FORME_MASK writes its mask, leaves the text state and ends with the run's record (R475, R476). -/
theorem formePlan_ok {im : TextImg} {toks : List (Nat × Bool)} {o : FormeOut}
    (himg : imgFor u.grammars (t.u32 8 % 32) (taskCtx u i t).part = some im)
    (hinput : tokenInput (taskCtx u i t) t (bitOf (t.u32 8) 11) (t.u32 0x0C % 2 ^ 17) (t.u64 0x10) = .ok toks tr)
    (ho : o = formeEval u (stream u i).text t im toks)
    (houtput : outputWrite (taskCtx u i t) (t.u64 0x18) o.mask 1 = .ok ws tr')
    (hvalid : (stream u i).text.formeBad = false ∨ bitOf (t.u32 8) 8 = true) (hfault : o.how ≠ .fault)
    (hdepth : o.how ≠ .overflow) (hclean : toks.any (·.2) = false) (himage : o.r.bad = false) :
    ∃ go, formePlan u i t = .fin true (tr ++ o.r.tr.reverse) go ∧
      ∀ x v, ∃ w, go x v = endText w i x (o.text (t.u32 8 % 32)) o.record ∧
        atEnd w = (atEnd v).wrote (streamFn u i) ws := by
  have hkept : ((stream u i).text.formeBad && !bitOf (t.u32 8) 8) = false := by
    obtain h | h := hvalid <;> simp [h]
  simp only [formePlan, himg, hinput, ← ho, houtput, hkept, hfault, hdepth, hclean, himage]
  refine ⟨_, rfl, fun x v => ⟨_, rfl, ?_⟩⟩
  rw [atEnd_cntAdd, atEnd_cntAdd, atEnd_doWrites, atEnd_cntAdd]
  rfl

end

/-! ### What a text task leaves -/

section
variable {w : State} {i : Nat} {x : TaskRun} {text : TextSt → TextSt} {r : Rec}

theorem ended_endText : Ended (endText w i x text r) i r := ended_endTask ..

theorem text_endText : (stream (endText w i x text r) i).text = text (stream w i).text := by
  rw [endText, text_of_atEnd (atEnd_endTask ..) i, stream_setStream_self]

theorem writes_endText : (endText w i x text r).hif.writes = w.hif.writes := by
  rw [endText, writes_of_atEnd (atEnd_endTask ..)]
  rfl

end

section
variable {s u : State} {i n : Nat} {t : TaskRun} {plan : State → Nat → TaskRun → Plan}
  (hrun : runningTask s i n = some t) (hu : u = if onUnit s i then s else takeUnit s i n) (hon : onUnit u i = true)
include hrun hu hon

/-- A task on its unit whose plan, once its reads are admitted, writes its output and goes on comes to a state with these
writes alone. -/
theorem textRun_wrote {tr : List Acc} {ws : List OutW} {e : TaskRun → State → State} (hreads : ReadsAdmitted u i t tr)
    (hplan : ∃ go, plan u i t = .fin true tr go ∧
      ∀ x v, ∃ w, go x v = e x w ∧ atEnd w = (atEnd v).wrote (streamFn u i) ws) :
    ∃ x w, textRun s i n plan = e x w ∧ atEnd w = (atEnd s).wrote (streamFn s i) ws := by
  obtain ⟨go, hgo, hend⟩ := hplan
  obtain ⟨w, hw, hwrote⟩ := hend (readied u i t true tr).1 (readied u i t true tr).2
  have hunit := atEnd_onUnit hu
  rw [atEnd_readied, hunit, streamFn_of_atEnd hunit] at hwrote
  rw [textRun_onUnit hu hrun hon, hgo, runPlan_admitted hreads]
  exact ⟨_, w, hw, hwrote⟩

/-- A task on its unit whose plan is an abort ends with it, and nothing is written. -/
theorem textRun_abort {status detail : Nat} (hplan : plan u i t = planAbort i status detail) :
    Ended (textRun s i n plan) i (Rec.abort status detail 0 0 0) ∧
      (textRun s i n plan).hif.writes = s.hif.writes := by
  rw [textRun_onUnit hu hrun hon, hplan, planAbort, runPlan_noReads]
  exact ⟨ended_endTask .., writes_of_atEnd (((atEnd_endTask ..).trans (atEnd_readied ..)).trans (atEnd_onUnit hu))⟩

end

/-- The record of TOKENIZE, by whether a commit was forced (R457). -/
theorem caseRecord_spec (o : CaseOut) : o.record.count = 1 ∧ o.record.result = o.st.written ∧
    o.record.status = b2n o.st.forced.isSome ∧ o.record.forced = o.st.forced.isSome ∧
    o.record.coord = o.used + 2 ^ 32 * o.st.n.length + 2 ^ 46 * o.keep.length := by
  unfold CaseOut.record
  cases o.st.forced <;> exact ⟨rfl, rfl, rfl, rfl, rfl⟩

/-- Settles O21: the plan of each task says what it writes and leaves once its reads are admitted. -/
theorem textTasksEnd : Obligations.TextTasksEnd := by
  intro s u i t
  refine ⟨?_, ?_, ?_, ?_⟩
  · intro p input tr ws tr' o cur hrun hu hon himg hinput hcur ho houtput hvalid hclean himage hreads
    obtain ⟨x, w, hend, hwrote⟩ := textRun_wrote (e := fun x w => endTask w i.val x o.record) hrun hu hon hreads
      (tokenizePlan_ok himg hinput hcur ho houtput hvalid hclean himage)
    obtain ⟨hcount, hresult, hstatus, hforced, hcoord⟩ := caseRecord_spec o
    exact ⟨_, _, congrArg Host.Outcome.next hend, ended_endTask .., hcount, hresult, hstatus, hforced, hcoord,
      (writes_of_atEnd (atEnd_endTask ..)).trans (writes_of_wrote hwrote)⟩
  · intro im toks tr ws tr' o hrun hu hon himg hinput ho houtput hvalid hfault hclean himage hreads
    obtain ⟨x, w, hend, hwrote⟩ := textRun_wrote (e := fun x w => endText w i.val x o.text o.record) hrun hu hon hreads
      (detokenizePlan_ok himg hinput ho houtput hvalid hfault hclean himage)
    exact ⟨_, congrArg Host.Outcome.next hend, ended_endText, rfl, rfl, rfl,
      text_endText.trans (congrArg _ (text_of_wrote hwrote _)), writes_endText.trans (writes_of_wrote hwrote)⟩
  · intro im toks tr ws tr' o hrun hu hon himg hinput ho houtput hvalid hfault hdepth hclean himage hreads
    obtain ⟨x, w, hend, hwrote⟩ := textRun_wrote (e := fun x w => endText w i.val x (o.text (t.u32 8 % 32)) o.record)
      hrun hu hon hreads (formePlan_ok himg hinput ho houtput hvalid hfault hdepth hclean himage)
    exact ⟨_, congrArg Host.Outcome.next hend, ended_endText, rfl, rfl, rfl,
      text_endText.trans (congrArg _ (text_of_wrote hwrote _)), writes_endText.trans (writes_of_wrote hwrote)⟩
  · intro n c hrow hrun hu hon hprofile hgrammar
    obtain ⟨rfl, rfl⟩ | ⟨rfl, rfl⟩ | ⟨rfl, rfl⟩ := hrow
    · exact ⟨_, rfl, textRun_abort hrun hu hon (by simp only [tokenizePlan, hprofile (by decide)])⟩
    · exact ⟨_, rfl, textRun_abort hrun hu hon (by simp only [detokenizePlan, hprofile (by decide)])⟩
    · exact ⟨_, rfl, textRun_abort hrun hu hon (by simp only [formePlan, hgrammar rfl])⟩

end Sys2Proof.Machine
end

section
/-! Concrete inputs that meet the hypotheses of O1, O3, O4, O21, O30 and O32, with what the statements then say of them. -/

-- One theorem after the other: each that waits for the kernel's part of a `decide` would hold a thread of its own.
set_option Elab.async false

namespace Sys2Proof.Machine

/-! ### O1, O3 and O4 -/

/-- On an idle device a period of the AON clock passes. -/
theorem step_reset_aon : ∃ t, step State.reset = .next t ∧ t.clk.aon = 1 ∧ t.clk.timer = 1 := by
  obtain ⟨-, -, hticks⟩ := stepTakesTheFrontCommand
  obtain ⟨t, hstep, -, haon, htimer⟩ := hticks State.reset rfl rfl
  exact ⟨t, hstep, haon, htimer⟩

/-- A device without supply, with a page retired in its Hellbox and these commands waiting. -/
def unsupplied (l : List Instr) : State := { State.reset with
  pending := l
  pwr := { State.reset.pwr with off := true }
  mem := { State.reset.mem with hellbox := [⟨1, 0, 0, 0, 2000, 1⟩] } }

/-- In OFF a reset of the function or a record has no effect; nor has time. -/
theorem step_unsupplied : step (unsupplied [.flr 0, .lostSummary]) = .next (unsupplied [.lostSummary]) ∧
    step (unsupplied []) = .next (unsupplied []) := by
  obtain ⟨-, htaken, -⟩ := offIsLeftOnlyByPowerGood (unsupplied [.flr 0, .lostSummary]) rfl
  obtain ⟨hidle, -⟩ := offIsLeftOnlyByPowerGood (unsupplied []) rfl
  exact ⟨htaken _ _ rfl nofun, hidle rfl⟩

/-- PWRGD_ASSERT ends OFF. -/
theorem step_unsupplied_powerGood : ∃ t, step (unsupplied [.pwrgdAssert 5]) = .next t ∧ t.pwr.off = false := by
  obtain ⟨-, -, hgood⟩ := offIsLeftOnlyByPowerGood (unsupplied [.pwrgdAssert 5]) rfl
  exact hgood 5 [] rfl

/-- The strap is read, the reset counted, and the Hellbox kept. -/
theorem pwrgdAssert_unsupplied : ∃ t, exec (.pwrgdAssert 5) (unsupplied []) = .next t ∧ t.ident.podId = 5 ∧
    t.evt.boot = 2 ∧ t.mem.hellbox = [⟨1, 0, 0, 0, 2000, 1⟩] := by
  obtain ⟨-, hon, -⟩ := supplyEdges (unsupplied []) (unsupplied []) 5
  obtain ⟨t, hexec, -, hboot, hident, -⟩ := hon rfl
  obtain ⟨hkept, -⟩ := supplyEdges (unsupplied []) t 5
  obtain ⟨-, -, -, -, -, -, hhellbox, -⟩ := hkept (.inl ⟨rfl, hexec⟩)
  exact ⟨t, hexec, by rw [hident]; rfl, hboot, hhellbox⟩

/-- Without supply no reset is counted. -/
theorem pwrgdDeassert_reset : ∃ t, exec .pwrgdDeassert State.reset = .next t ∧ t.pwr.off = true ∧ t.evt.boot = 1 := by
  obtain ⟨-, -, -, hoff, -⟩ := supplyEdges State.reset State.reset 0
  obtain ⟨t, hexec, ht, hboot, -⟩ := hoff rfl
  exact ⟨t, hexec, ht, hboot⟩

/-! ### O21 -/

/-- A device whose page 2000 holds these bytes at these offsets. -/
def imaged (l : List (Nat × List Byte)) : State :=
  l.foldl (fun s e => memWrite s (2000 * 65536 + e.1) e.2 false) State.reset

/-- An image of the driver domain in that page, with a context in page 2001. -/
def pageImage : TextImg := ⟨true, 32, 1, 65536, [2000], [2001]⟩

/-- A text task in flight: its type, two bytes of its flags, the inline token, and the byte of input at 8,192 of host
memory where that has landed; its output goes to 4,096. -/
def textTask (type flags flags' token : Byte) (land : Tab HostStatus) : TaskRun := { TaskRun.start 0
  (slice [type, 0, 0, 0, 0, 0, 0, 0, 0, flags, flags', 0, 1, 0, 0, 0, 0, 0x20, 0, 0, 0, 0, 0, 0, 0, 0x10, 0, 0, 0, 0, 0, 0,
    64, 0, 0, 0, 0, 0, 0, 0, token] 0 64) 0 none with land := land }

/-- A device whose stream 0 of PF0 has that task, which waits for a unit. -/
def texting (m : State) (images : Tab TextImg) (t : TaskRun) : State := { m with
  profiles := images, grammars := images, unitWait := [(0, 0)]
  streams := [(0, { Stream.idle with slot := some (0, 0), task := some t, level := 100 })] }

/-- The waiting task takes a unit. -/
theorem takeUnit_texting {s : State} {n : Nat} (h : onUnit s 0 = false) :
    takeUnit s 0 n = if onUnit s 0 then s else takeUnit s 0 n := (if_neg (by simp [h])).symm

/-- TOKENIZE of the byte 0x41, with RESET and FINAL. -/
def tokenizeTask : TaskRun := textTask 5 0 3 0 [(landKey 8192 1, .data [0x41])]

/-- A profile without pieces, whose fallback token of the byte 0x41 is 7. -/
def tokenizing : State := texting (imaged [(0x20, [0, 4]), (0x504, [7])]) [(0, pageImage)] tokenizeTask

/-- The one token is written, and the byte used. -/
theorem tokenize_texting : ∃ v r, exec (.tokenize 0) tokenizing = .next v ∧ Ended v 0 r ∧ r.count = 1 ∧ r.result = 1 ∧
    v.hif.writes = [⟨0, 4096, [7, 0, 0, 0]⟩] := by
  obtain ⟨htokenize, -⟩ := textTasksEnd tokenizing (takeUnit tokenizing 0 5) 0 tokenizeTask
  obtain ⟨v, r, hexec, hended, hcount, hresult, -, -, -, hwrites⟩ := htokenize pageImage [⟨0x41, false⟩] []
    [.host 4096 [7, 0, 0, 0]] [] _ _ (by decide +kernel) (takeUnit_texting (by decide +kernel)) (by decide +kernel)
    (by decide +kernel) (Ev.eq_of_complete (by decide +kernel)) rfl rfl (Ev.eq_of_complete (by decide +kernel))
    (.inr (by decide +kernel)) (by decide +kernel) (by decide +kernel) (Nat.le_of_ble_eq_true (by decide +kernel))
  exact ⟨v, r, hexec, hended, hcount, hresult.trans (by decide +kernel), hwrites⟩

/-- DETOKENIZE of token 0, inline, with RESET. -/
def detokenizeTask : TaskRun := textTask 6 0 5 0 []

/-- A profile of one token, the byte 0x41. -/
def detokenizing : State :=
  texting (imaged [(0x0C, [1]), (0x44, [0, 1, 0, 0, 8, 1]), (0x104, [1]), (0x108, [0x41])]) [(0, pageImage)] detokenizeTask

/-- The byte is written. -/
theorem detokenize_texting : ∃ v r, exec (.detokenize 0) detokenizing = .next v ∧ Ended v 0 r ∧ r.count = 1 ∧
    v.hif.writes = [⟨0, 4096, [0x41]⟩] := by
  obtain ⟨-, hdetokenize, -⟩ := textTasksEnd detokenizing (takeUnit detokenizing 0 6) 0 detokenizeTask
  obtain ⟨v, hexec, hended, -, hcount, -, -, hwrites⟩ := hdetokenize pageImage [(0, false)] [] [.host 4096 [0x41]] [] _
    (by decide +kernel) (takeUnit_texting (by decide +kernel)) (by decide +kernel) (by decide +kernel)
    (Ev.eq_of_complete (by decide +kernel)) rfl (Ev.eq_of_complete (by decide +kernel)) (.inr (by decide +kernel))
    (by decide +kernel) (by decide +kernel) (by decide +kernel) (Nat.le_of_ble_eq_true (by decide +kernel))
  exact ⟨v, _, hexec, hended, hcount, hwrites⟩

/-- FORME_MASK after token 1, inline, with RESET. -/
def formeTask : TaskRun := textTask 7 9 0 1 []

/-- A grammar over four tokens, whose one rule allows tokens 1 and 2. -/
def masking : State :=
  texting (imaged [(0x0C, [4]), (0x18, [0, 1]), (0x20, [8, 1]), (0x104, [1]), (0x108, [1, 0, 0, 0, 2])]) [(0, pageImage)]
    formeTask

/-- The bitmap allows them, and the stream's text state names the grammar. -/
theorem formeMask_texting : ∃ v r, exec (.formeMask 0) masking = .next v ∧ Ended v 0 r ∧ r.count = 1 ∧ r.position = 64 ∧
    (stream v 0).text.grammar = some 0 ∧ v.hif.writes = [⟨0, 4096, 6 :: List.replicate 63 0⟩] := by
  obtain ⟨-, -, hmask, -⟩ := textTasksEnd masking (takeUnit masking 0 7) 0 formeTask
  obtain ⟨v, hexec, hended, -, hcount, hposition, htext, hwrites⟩ := hmask pageImage [(1, false)] []
    [.host 4096 (6 :: List.replicate 63 0)] [] _
    (by decide +kernel) (takeUnit_texting (by decide +kernel)) (by decide +kernel) (by decide +kernel)
    (Ev.eq_of_complete (by decide +kernel)) rfl (Ev.eq_of_complete (by decide +kernel)) (.inr (by decide +kernel))
    (by decide +kernel) (by decide +kernel) (by decide +kernel) (by decide +kernel)
    (Nat.le_of_ble_eq_true (by decide +kernel))
  exact ⟨v, _, hexec, hended, hcount, hposition.trans (by decide +kernel),
    (congrArg TextSt.grammar htext).trans (by decide +kernel), hwrites⟩

/-- Without an image each is denied. -/
theorem detokenize_denied : ∃ v, exec (.detokenize 0) (texting State.reset [] detokenizeTask) = .next v ∧
    Ended v 0 (Rec.abort 0x11 1 0 0 0) ∧ v.hif.writes = [] := by
  obtain ⟨-, -, -, hdenied⟩ := textTasksEnd (texting State.reset [] detokenizeTask)
    (takeUnit (texting State.reset [] detokenizeTask) 0 6) 0 detokenizeTask
  exact hdenied 6 _ (.inr (.inl ⟨rfl, rfl⟩)) (by decide +kernel) (takeUnit_texting (by decide +kernel)) (by decide +kernel)
    (fun _ => by decide +kernel) nofun

/-! ### O30 -/

/-- A log that has lost its records 4 and 5. -/
def lossyLog : LogSt := { LogSt.empty with
  posted := 6, lost := 2, lossCnt := 2, lossFirst := 4, lossLast := 5, lossFirstSeq := 40, lossLastSeq := 41 }

/-- A device whose event log is as given. -/
def logging (e : Evt) : State := { State.reset with evt := e }

/-- The losses of partition 3's log are told, and its count cleared; without losses nothing is told. -/
theorem lostSummary_logging :
    (∃ t, exec .lostSummary (logging { State.reset.evt with logs := [(3, lossyLog)] }) = .next t ∧ t.evt.seq = 1 ∧
      (lkD t.evt.logs 3 LogSt.empty).lossCnt = 0) ∧
    exec .lostSummary State.reset = .next State.reset := by
  obtain ⟨-, hlossy, -⟩ := eventLogKeeping (logging { State.reset.evt with logs := [(3, lossyLog)] }) rfl
  obtain ⟨hnone, -⟩ := eventLogKeeping State.reset rfl
  obtain ⟨t, hexec, hcleared, hseq, -⟩ := hlossy 3 lossyLog (by decide) rfl (by decide) (by decide) (by decide +kernel)
  exact ⟨⟨t, hexec, hseq, hcleared⟩, hnone fun _ _ => rfl⟩

/-- A global record. -/
def globalRec : EvStored := ⟨7, 7, true, 1, 0, 0, evRec 0x0901 2 63 0 0 0 0⟩

/-- A device with that record staged, whose current block of the NOR ring holds so many. -/
def norHolds (n : Nat) : State :=
  logging { State.reset.evt with staged := [globalRec], ring := [(0, ⟨0, 1, 0, List.replicate n globalRec⟩)] }

/-- A block of 1,022 records takes one more. -/
theorem norWrite_room : ∃ t, exec .norWrite (norHolds 1022) = .next t ∧ t.evt.staged = [] ∧ t.evt.cur = 0 := by
  obtain ⟨-, -, -, hroom, -⟩ := eventLogKeeping (norHolds 1022) rfl
  exact ⟨_, hroom globalRec [] _ rfl rfl (by decide +kernel), rfl, rfl⟩

/-- One of 1,023 gives way to block 1, and block 2 is erased. -/
theorem norWrite_full : ∃ t, exec .norWrite (norHolds 1023) = .next t ∧ t.evt.cur = 1 ∧
    (lkD t.evt.ring 1 NorBlock.empty).recs = [globalRec] ∧ (lkD t.evt.ring 2 NorBlock.empty).erases = 1 := by
  obtain ⟨-, -, -, -, hfull, -⟩ := eventLogKeeping (norHolds 1023) rfl
  obtain ⟨t, hexec, -, hcur, hrecs, -, -, herases, -⟩ := hfull globalRec [] rfl (by decide +kernel) (by decide)
  have hcur : t.evt.cur = 1 := hcur
  exact ⟨t, hexec, hcur, hcur ▸ hrecs, herases⟩

/-- With nothing staged nothing is written. -/
theorem norWrite_reset : exec .norWrite State.reset = .next State.reset := by
  obtain ⟨-, -, hnothing, -⟩ := eventLogKeeping State.reset rfl
  exact hnothing rfl

/-- An accumulator of 25,000,001 gives a token and keeps 1; the full bucket stays full. -/
theorem norBucketRefill_logging :
    (∃ t, exec .norBucketRefill (logging { State.reset.evt with acc := 25000001, bucket := 9 }) = .next t ∧
      t.evt.acc = 1 ∧ t.evt.bucket = 10) ∧
    (∃ t, exec .norBucketRefill (logging { State.reset.evt with acc := 25000000 }) = .next t ∧ t.evt.bucket = 65536) ∧
    exec .norBucketRefill State.reset = .next State.reset := by
  obtain ⟨-, -, -, -, -, hrefill, -⟩ := eventLogKeeping (logging { State.reset.evt with acc := 25000001, bucket := 9 }) rfl
  obtain ⟨-, -, -, -, -, hfull, -⟩ := eventLogKeeping (logging { State.reset.evt with acc := 25000000 }) rfl
  obtain ⟨-, -, -, -, -, -, hearly⟩ := eventLogKeeping State.reset rfl
  exact ⟨⟨_, hrefill (by decide), rfl, rfl⟩, ⟨_, hfull (by decide), rfl⟩, hearly (by decide)⟩

/-! ### O32 -/

/-- A device at an AON time, with its background work as given. -/
def tending (aon : Nat) (b : Bg) : State := { State.reset with clk := { State.reset.clk with aon := aon }, bg := b }

/-- The first group of a pass is scrubbed as it falls due; the last ends the pass. -/
theorem patrolScrubGroup_tending :
    (∃ t, exec (.patrolScrubGroup 0 []) (tending 25 State.reset.bg) = .next t ∧ lkD t.bg.cursor 0 0 = 1) ∧
    ∃ t, exec (.patrolScrubGroup 0 []) (tending 2160000000000 { State.reset.bg with cursor := [(0, 1048575)] }) = .next t ∧
      lkD t.bg.cursor 0 0 = 0 := by
  obtain ⟨hfirst, -⟩ := scrubAndCalibration (tending 25 State.reset.bg) 0
  obtain ⟨hlast, -⟩ := scrubAndCalibration (tending 2160000000000 { State.reset.bg with cursor := [(0, 1048575)] }) 0
  obtain ⟨t, hexec, hcursor, -⟩ := hfirst [] (by decide +kernel) (by decide +kernel) (by decide +kernel) (by decide +kernel)
    (by decide +kernel) (.inl rfl)
  obtain ⟨u, hexec', hcursor', -⟩ := hlast [] (by decide +kernel) (by decide +kernel) (by decide +kernel) (by decide +kernel)
    (by decide +kernel) (.inl rfl)
  exact ⟨⟨t, hexec, hcursor.trans (by decide +kernel)⟩, u, hexec', hcursor'.trans (by decide +kernel)⟩

/-- At time 0 none is due. -/
theorem patrolScrubGroup_early : exec (.patrolScrubGroup 0 []) State.reset = .next State.reset := by
  obtain ⟨-, hearly, -⟩ := scrubAndCalibration State.reset 0
  exact hearly [] (by decide +kernel)

/-- A device whose MEMC idles. -/
def memcIdles (aon : Nat) (b : Bg) : State := { tending aon b with pwr := { State.reset.pwr with dom := [(1, 1)] } }

/-- After 100 ms of idling a batch opens; with no group due it closes. -/
theorem scrubBatch_memcIdles :
    (∃ t, exec .scrubBatch (memcIdles 2500000 State.reset.bg) = .next t ∧ t.bg.inBatch = true) ∧
    ∃ t, exec .scrubBatch (memcIdles 0 { State.reset.bg with inBatch := true }) = .next t ∧ t.bg.inBatch = false := by
  obtain ⟨-, -, hopens, -⟩ := scrubAndCalibration (memcIdles 2500000 State.reset.bg) 0
  obtain ⟨-, -, -, hcloses, -⟩ := scrubAndCalibration (memcIdles 0 { State.reset.bg with inBatch := true }) 0
  exact ⟨⟨_, hopens rfl rfl (by decide +kernel) (by decide +kernel) ⟨0, by decide, by decide +kernel, by decide +kernel⟩
    (by decide +kernel), rfl⟩, _, hcloses rfl rfl (by decide +kernel), rfl⟩

/-- A device at an hour boundary, with these counts of corrected and uncorrectable bursts in channel 0 and
SCRUB_FASTEST at 5. -/
def hourEnds (ce ue : Nat) (b : Bg) : State := { tending 1 b with
  cfg := { State.reset.cfg with cnt := [(ceKey 0, ce), (ueKey 0, ue)], mgmtEff := [(8, 5)] } }

/-- 65 corrected bursts in an hour raise the step; the 24th low hour lowers it; an uncorrectable one makes it 7, across the
bound. -/
theorem scrubRateLoop_hourEnds :
    (∃ t, exec .scrubRateLoop (hourEnds 65 0 State.reset.bg) = .next t ∧ t.bg.scrubStep = 1) ∧
    (∃ t, exec .scrubRateLoop (hourEnds 8 0 { State.reset.bg with scrubStep := 3, hoursLow := 23 }) = .next t ∧
      t.bg.scrubStep = 2) ∧
    ∃ t, exec .scrubRateLoop (hourEnds 0 1 State.reset.bg) = .next t ∧ t.bg.scrubStep = 7 ∧ (loop t 3).crossed = 2 := by
  obtain ⟨-, -, -, -, hhigh, -⟩ := scrubAndCalibration (hourEnds 65 0 State.reset.bg) 0
  obtain ⟨-, -, -, -, hlow, -⟩ :=
    scrubAndCalibration (hourEnds 8 0 { State.reset.bg with scrubStep := 3, hoursLow := 23 }) 0
  obtain ⟨-, -, -, -, -, hue, -⟩ := scrubAndCalibration (hourEnds 0 1 State.reset.bg) 0
  obtain ⟨hup, -⟩ := hhigh (by decide +kernel) rfl (by decide) (by decide +kernel) (by decide +kernel)
  obtain ⟨-, hdown⟩ := hlow (by decide +kernel) rfl (by decide) (by decide +kernel) (by decide +kernel)
  obtain ⟨t, hexec, -, -, hstep, -⟩ := hup (by decide +kernel) (by decide +kernel)
  obtain ⟨u, hexec', -, -, hstep', -⟩ := hdown (by decide +kernel) (by decide +kernel) (by decide +kernel) (by decide +kernel)
  obtain ⟨v, hexec'', hstep'', hcrossed⟩ := hue (by decide +kernel) rfl (by decide) (by decide +kernel)
  exact ⟨⟨t, hexec, hstep⟩, ⟨u, hexec', hstep'⟩, v, hexec'', hstep'', hcrossed (by decide +kernel) (by decide +kernel)⟩

/-- A device whose MEMC has run for ten seconds, with these reads in channel 0's queue. -/
def memcRunsOn (queue : List Reorder) (b : Bg) : State := { tending 250000000 b with
  pwr := { State.reset.pwr with ran := [(1, 250000000)] }, mem := { State.reset.mem with reorder := [(0, queue)] } }

/-- A tracking slot is taken where the queue is empty, and deferred where it is not. -/
theorem calibrationSlot_memcRunsOn :
    (∃ t, exec (.calibrationSlot 0) (memcRunsOn [] State.reset.bg) = .next t ∧ lkD t.bg.trackAt 0 0 = 250000000) ∧
    ∃ t, exec (.calibrationSlot 0) (memcRunsOn [⟨0, 0, 0, 1⟩] State.reset.bg) = .next t ∧
      lk t.bg.deferAt 0 = some 250000000 := by
  obtain ⟨-, -, -, -, -, -, hslot, -⟩ := scrubAndCalibration (memcRunsOn [] State.reset.bg) 0
  obtain ⟨-, -, -, -, -, -, hslot', -⟩ := scrubAndCalibration (memcRunsOn [⟨0, 0, 0, 1⟩] State.reset.bg) 0
  obtain ⟨hbegins, -⟩ := hslot _ rfl (by decide +kernel) (.inl (by decide +kernel))
  obtain ⟨-, hdefers⟩ := hslot' _ rfl (by decide +kernel) (.inl (by decide +kernel))
  obtain ⟨t, hexec, hat, -⟩ := hbegins (by decide +kernel)
  exact ⟨⟨t, hexec, hat.trans (by decide +kernel)⟩, _, hdefers (by decide +kernel) (by decide +kernel), by decide +kernel⟩

/-- A retrain begins with 19 pieces to come; of five left one is taken; the last one ends it. -/
theorem retrainPiece_memcRunsOn :
    (∃ t, exec (.retrainPiece 0) (memcRunsOn [] State.reset.bg) = .next t ∧ lkD t.bg.pieces 0 0 = 19) ∧
    (∃ t, exec (.retrainPiece 0) (memcRunsOn [] { State.reset.bg with pieces := [(0, 5)] }) = .next t ∧
      lkD t.bg.pieces 0 0 = 4) ∧
    ∃ t, exec (.retrainPiece 0) (memcRunsOn [] { State.reset.bg with pieces := [(0, 1)] }) = .next t ∧
      lkD t.bg.pieces 0 0 = 0 ∧ lkD t.bg.retrainAt 0 0 = 250000000 := by
  obtain ⟨-, -, -, -, -, -, -, -, -, hfirst, -⟩ := scrubAndCalibration (memcRunsOn [] State.reset.bg) 0
  obtain ⟨-, -, -, -, -, -, -, hnext, -⟩ :=
    scrubAndCalibration (memcRunsOn [] { State.reset.bg with pieces := [(0, 5)] }) 0
  obtain ⟨-, -, -, -, -, -, -, -, hlast, -⟩ :=
    scrubAndCalibration (memcRunsOn [] { State.reset.bg with pieces := [(0, 1)] }) 0
  obtain ⟨t, hexec, hpieces, -⟩ := hnext 5 rfl (by decide) (by decide +kernel) (by decide +kernel) (by decide +kernel)
  obtain ⟨u, hexec', hpieces', hat, -⟩ := hlast (by decide +kernel) (by decide +kernel) rfl (by decide +kernel)
  exact ⟨hfirst (by decide +kernel) (by decide +kernel) rfl (by decide +kernel), ⟨t, hexec, hpieces⟩, u, hexec', hpieces',
    hat.trans (by decide +kernel)⟩

/-- A median of 10,000 ppm asks for the full guard band, of which 1 mV is taken. -/
theorem agingSample_reset : ∃ t, exec (.agingSample [(1000, 990)]) State.reset = .next t ∧ t.bg.agingD = 10000 ∧
    t.bg.agingG = 1 ∧ t.bg.agingLimit = true := by
  obtain ⟨-, -, -, -, -, -, -, -, -, -, haging⟩ := scrubAndCalibration State.reset 0
  obtain ⟨t, hexec, hd, hg, -, -, hlimit, -⟩ := haging [(1000, 990)] 10000 (by decide +kernel) (by decide +kernel)
    (by decide +kernel)
  exact ⟨t, hexec, hd, hg.trans (by decide +kernel), hlimit.trans (by decide +kernel)⟩

end Sys2Proof.Machine
end
